-- ==== Sys2Proof/Word.lean ====
section
/-! DEFINITION. The word types of the M9: bytes, 32-bit and 64-bit words (R8: little-endian in memory), and one lane's copy of a value. -/

namespace Sys2Proof

/-- One byte of memory. -/
abbrev Byte := BitVec 8
/-- One Flinal word (R38), a management register, or an i32 value. -/
abbrev W32 := BitVec 32
/-- A 64-bit word: the widest register and value. -/
abbrev W64 := BitVec 64
/-- The bits of one lane's copy of a value, in the low bits (R245). A q4 takes the low 44 bits (R52). -/
abbrev Lane := BitVec 64
/-- A lane mask: bit l for lane l. -/
abbrev Mask := BitVec 32
/-- A native bundle (R252). -/
abbrev Bundle := BitVec 128

end Sys2Proof
end

