-- ==== Sys2Proof/Config.lean ====
section
/-! DEFINITION. What an implementation fixes and the free values: opaque constants with no body, so nothing can be proved of a value they give. -/

namespace Sys2Proof.Config

/-- A value the spec leaves open, by the step's counter State.fresh (log 4). -/
opaque freeWord : Nat → BitVec 64
/-- The vendor's private key (R20, log 6). -/
opaque vendorSecret : BitVec 256
/-- A socket's private identity key, which never leaves the die (R21, log 6). -/
opaque identitySecret : Nat → BitVec 256
/-- The secret number of one signing: signer (16 the vendor) and digest (R20, R21, log 6). -/
opaque signSecret : Nat → BitVec 256 → BitVec 256
/-- SHA-256 digest of the image that a socket runs, before any update (R21, log 6). -/
opaque imageDigest : Nat → BitVec 256
/-- Words of capability 0x0001: serial number and stepping (R474, log 6). -/
opaque identityWord : Nat → BitVec 32
/-- LDO output step for a clock code: the firmware table of R300. -/
opaque ldoStep : Nat → BitVec 8
/-- Idle round trip in Plinth cycles from a core to a slice (R311), by die and number. -/
opaque sliceLatency : Nat → Nat → Nat → Nat → BitVec 16
/-- What each tier port reaches: capacity in whole GiB, width in lanes, rate in GT/s (R312, R474, log 6). -/
opaque tierCapacity : Nat → Nat
opaque tierWidth : Nat → Nat
opaque tierRate : Nat → Nat
/-- Peer links that are connected (R474, log 6). -/
opaque peerLinks : BitVec 16

end Sys2Proof.Config
end

