-- ==== Sys2Proof/Machine/SMap.lean ====
section
/-! DEFINITION. Sparse maps from a number to plain data: a list of (key, value) pairs, keys strictly rising, no value equal to the default an unlisted key reads as, so that equal maps are equal lists. -/

namespace Sys2Proof.Machine

/-- A sparse map: rising keys, no default values listed. With α = Byte this is a list of Host.Cell. -/
abbrev SMap (α : Type) := List (Nat × α)

/-- The value at key k: the listed one, else the default d. -/
def SMap.get {α : Type} (d : α) : SMap α → Nat → α
  | [], _ => d
  | (k', v) :: t, k => if k = k' then v else if k < k' then d else SMap.get d t k

/-- The entries of keys above k. -/
def SMap.above {α : Type} (k : Nat) : SMap α → SMap α
  | [] => []
  | (k', v) :: t => if k' ≤ k then SMap.above k t else (k', v) :: t

/-- Sets key k to v, keeping the canonical form: writing the default removes the entry. -/
def SMap.put {α : Type} [DecidableEq α] (d : α) : SMap α → Nat → α → SMap α
  | [], k, v => if v = d then [] else [(k, v)]
  | (k', v') :: t, k, v =>
    if k < k' then (if v = d then (k', v') :: t else (k, v) :: (k', v') :: t)
    else if k = k' then (if v = d then SMap.above k t else (k, v) :: t)
    else (k', v') :: SMap.put d t k v

/-- The canonical form: every key is at or above lo, keys rise strictly, and no value is the default. -/
def SMap.wfFrom {α : Type} [DecidableEq α] (d : α) : Nat → SMap α → Bool
  | _, [] => true
  | lo, (k, v) :: t => decide (lo ≤ k) && !decide (v = d) && SMap.wfFrom d (k + 1) t

/-- The canonical form of a whole map. -/
def SMap.wf {α : Type} [DecidableEq α] (d : α) (m : SMap α) : Bool := SMap.wfFrom d 0 m

/-- Drops every key in [lo, lo + n). -/
def SMap.clear {α : Type} (m : SMap α) (lo n : Nat) : SMap α :=
  m.filter fun p => decide (p.1 < lo) || decide (lo + n ≤ p.1)

/-- The bytes at addresses a to a + n - 1 of a byte map, unlisted bytes zero. -/
def SMap.bytes (m : SMap Byte) (a : Nat) : Nat → List Byte
  | 0 => []
  | n + 1 => SMap.get 0 m a :: SMap.bytes m (a + 1) n

/-- Writes a list of bytes from address a. -/
def SMap.putBytes (m : SMap Byte) (a : Nat) : List Byte → SMap Byte
  | [] => m
  | b :: bs => SMap.putBytes (SMap.put 0 m a b) (a + 1) bs

/-- Puts an element into a list before the first one it may precede. -/
def insertBy {α : Type} (le : α → α → Bool) (x : α) : List α → List α
  | [] => [x]
  | y :: ys => if le x y then x :: y :: ys else y :: insertBy le x ys
/-- A list in ascending order; elements of equal rank keep their order. -/
def sortBy {α : Type} (le : α → α → Bool) (l : List α) : List α := l.foldr (insertBy le) []

/-- The number that little-endian bytes denote (R8). -/
def leNat : List Byte → Nat
  | [] => 0
  | b :: bs => b.toNat + 256 * leNat bs

/-- The n little-endian bytes of a number (R8). -/
def natLe (x : Nat) : Nat → List Byte
  | 0 => []
  | n + 1 => BitVec.ofNat 8 x :: natLe (x / 256) n

/-- Bits [hi:lo] of a number. -/
def fieldNat (x hi lo : Nat) : Nat := (x >>> lo) % 2 ^ (hi + 1 - lo)

end Sys2Proof.Machine
end

