-- ==== Sys2Proof/Machine/Sha.lean ====
section
/-! DEFINITION. SHA-256, the digest of module images (R41), images and signed data (R19-R22). The spec names the function; its definition is the public standard's (log 6). -/

namespace Sys2Proof.Machine

/-- The primes below 312, of which there are 64. -/
def shaPrimes : List Nat := (List.range 312).filter fun n => decide (2 ≤ n) && (List.range n).all fun k => k < 2 || n % k != 0
/-- The largest r below 2^n with r^e at most x, added to lo: one bit a step. -/
def rootFrom (e x : Nat) : Nat → Nat → Nat
  | 0, lo => lo
  | n + 1, lo => rootFrom e x n (if (lo + 2 ^ n) ^ e ≤ x then lo + 2 ^ n else lo)
/-- The first 32 bits of the fraction of the e-th root of a number below 2^15. -/
def rootFrac (e p : Nat) : BitVec 32 := BitVec.ofNat 32 (rootFrom e (p * 2 ^ (32 * e)) 40 0)
/-- The 64 round constants of SHA-256: fractions of the primes' cube roots. -/
def shaK : List (BitVec 32) := shaPrimes.map (rootFrac 3)

/-- The eight working words of SHA-256. -/
structure ShaState where
  a : BitVec 32
  b : BitVec 32
  c : BitVec 32
  d : BitVec 32
  e : BitVec 32
  f : BitVec 32
  g : BitVec 32
  h : BitVec 32
  deriving DecidableEq, Repr

/-- The first working words: fractions of the square roots of the first eight primes. -/
def shaInit : ShaState :=
  let r (i : Nat) : BitVec 32 := rootFrac 2 (shaPrimes.getD i 2)
  ⟨r 0, r 1, r 2, r 3, r 4, r 5, r 6, r 7⟩

/-- One round with constant k and schedule word w. -/
def shaRound (s : ShaState) (k w : BitVec 32) : ShaState :=
  let s1 := s.e.rotateRight 6 ^^^ s.e.rotateRight 11 ^^^ s.e.rotateRight 25
  let ch := (s.e &&& s.f) ^^^ (~~~s.e &&& s.g)
  let t1 := s.h + s1 + ch + k + w
  let s0 := s.a.rotateRight 2 ^^^ s.a.rotateRight 13 ^^^ s.a.rotateRight 22
  let mj := (s.a &&& s.b) ^^^ (s.a &&& s.c) ^^^ (s.b &&& s.c)
  ⟨t1 + (s0 + mj), s.a, s.b, s.c, s.d + t1, s.e, s.f, s.g⟩

/-- Extends a schedule kept newest first by n words. -/
def shaSchedule : Nat → List (BitVec 32) → List (BitVec 32)
  | 0, ws => ws
  | n + 1, ws =>
    let w2 := ws.getD 1 0
    let w15 := ws.getD 14 0
    let s1 := w2.rotateRight 17 ^^^ w2.rotateRight 19 ^^^ (w2 >>> 10)
    let s0 := w15.rotateRight 7 ^^^ w15.rotateRight 18 ^^^ (w15 >>> 3)
    shaSchedule n ((s1 + ws.getD 6 0 + s0 + ws.getD 15 0) :: ws)

/-- Big-endian number of bytes. -/
def beNat (bs : List Byte) : Nat := bs.foldl (fun a b => a * 256 + b.toNat) 0

/-- The words of one 64-byte block, first word first. -/
def shaWords : Nat → List Byte → List (BitVec 32)
  | 0, _ => []
  | n + 1, bs => BitVec.ofNat 32 (beNat (bs.take 4)) :: shaWords n (bs.drop 4)

/-- One block. -/
def shaBlock (s : ShaState) (blk : List Byte) : ShaState :=
  let ws := (shaSchedule 48 (shaWords 16 blk).reverse).reverse
  let r := (shaK.zip ws).foldl (fun t kw => shaRound t kw.1 kw.2) s
  ⟨s.a + r.a, s.b + r.b, s.c + r.c, s.d + r.d, s.e + r.e, s.f + r.f, s.g + r.g, s.h + r.h⟩

/-- n blocks in turn. -/
def shaBlocks : Nat → ShaState → List Byte → ShaState
  | 0, s, _ => s
  | n + 1, s, bs => shaBlocks n (shaBlock s (bs.take 64)) (bs.drop 64)

/-- SHA-256 of a byte string, as a number whose highest byte is the digest's first. -/
def sha256 (bs : List Byte) : BitVec 256 :=
  let n := bs.length
  let pad := (0x80 : Byte) :: List.replicate ((119 - n % 64) % 64) 0 ++ (natLe (8 * n) 8).reverse
  let all := bs ++ pad
  let r := shaBlocks (all.length / 64) shaInit all
  r.a ++ r.b ++ r.c ++ r.d ++ r.e ++ r.f ++ r.g ++ r.h

/-- The digest's bytes in order. -/
def digestBytes (d : BitVec 256) : List Byte := (natLe d.toNat 32).reverse

end Sys2Proof.Machine
end

