-- ==== Sys2Proof/Machine/Ecdsa.lean ====
section
/-! DEFINITION. ECDSA on P-256 over SHA-256 digests (R20, R21): the spec names the curve and the scheme, and their constants are the standard's (PRESUMED, log 6). A key is X then Y and a signature r then s, the first in the low 32 bytes (R8). -/

namespace Sys2Proof.Machine

/-- The field of P-256. -/
def curveP : Nat := 2 ^ 256 - 2 ^ 224 + 2 ^ 192 + 2 ^ 96 - 1
/-- The order of its base point. -/
def curveN : Nat := 0xFFFFFFFF00000000FFFFFFFFFFFFFFFFBCE6FAADA7179E84F3B9CAC2FC632551
def curveB : Nat := 0x5AC635D8AA3A93E7B3EBBD55769886BC651D06B0CC53B0F63BCE3C3E27D2604B

/-- A point of the curve, or the point at infinity. -/
inductive ECPoint where
  | inf
  | aff (x y : Nat)
  deriving DecidableEq, Repr

/-- The base point. -/
def curveG : ECPoint := .aff 0x6B17D1F2E12C4247F8BCE6E563A440F277037D812DEB33A0F4A13945D898C296 0x4FE342E2FE1A7F9B8EE7EB4A7C0F9E162BCE33576B315ECECBB6406837BF51F5

/-- x to the e modulo m, by the low n bits of e from the highest. -/
def powMod (x e m : Nat) : Nat → Nat
  | 0 => 1 % m
  | n + 1 => let r := powMod x (e / 2) m n; if e % 2 = 1 then r * r % m * x % m else r * r % m
/-- The inverse modulo a prime below 2^256. -/
def invMod (x m : Nat) : Nat := powMod (x % m) (m - 2) m 256
/-- a - b modulo m, of residues. -/
def subMod (a b m : Nat) : Nat := (a + (m - b % m)) % m

/-- The third point of a line of slope k through two points. -/
def chord (k x1 y1 x2 : Nat) : ECPoint :=
  let x3 := subMod (subMod (k * k) x1 curveP) x2 curveP
  .aff x3 (subMod (k * subMod x1 x3 curveP) y1 curveP)
/-- The sum of two points. -/
def ECPoint.add : ECPoint → ECPoint → ECPoint
  | .inf, q => q
  | p, .inf => p
  | .aff x1 y1, .aff x2 y2 =>
    if x1 ≠ x2 then chord (subMod y2 y1 curveP * invMod (subMod x2 x1 curveP) curveP % curveP) x1 y1 x2
    else if y1 = y2 ∧ y1 ≠ 0 then chord ((3 * x1 * x1 + curveP - 3) * invMod (2 * y1) curveP % curveP) x1 y1 x2
    else .inf
/-- k times a point, by the low n bits of k. -/
def ECPoint.mulBits (p : ECPoint) (k : Nat) : Nat → ECPoint
  | 0 => .inf
  | n + 1 => let h := p.mulBits (k / 2) n; let d := h.add h; if k % 2 = 1 then d.add p else d
def ECPoint.mul (p : ECPoint) (k : Nat) : ECPoint := p.mulBits k 256

/-- Whether a point lies on the curve. -/
def ECPoint.onCurve : ECPoint → Bool
  | .inf => false
  | .aff x y => decide (x < curveP) && decide (y < curveP) && y * y % curveP == (x * x * x + (curveP - 3) * x + curveB) % curveP
/-- The two halves of a key or a signature. -/
def lowHalf (v : BitVec 512) : Nat := v.toNat % 2 ^ 256
def highHalf (v : BitVec 512) : Nat := v.toNat / 2 ^ 256
def halves (lo hi : Nat) : BitVec 512 := BitVec.ofNat 512 (hi % 2 ^ 256 * 2 ^ 256 + lo % 2 ^ 256)

/-- Whether a signature of a digest verifies under a key (R20). -/
def ecdsaVerify (key : BitVec 512) (digest : BitVec 256) (sig : BitVec 512) : Bool :=
  let q : ECPoint := .aff (lowHalf key) (highHalf key)
  let r := lowHalf sig
  let t := highHalf sig
  let w := invMod t curveN
  q.onCurve && decide (0 < r ∧ r < curveN ∧ 0 < t ∧ t < curveN) &&
    match (curveG.mul (digest.toNat * w % curveN)).add (q.mul (r * w % curveN)) with
    | .inf => false
    | .aff x _ => x % curveN == r
/-- The public key of a private key. -/
def publicKey (d : Nat) : BitVec 512 := match curveG.mul (d % curveN) with | .inf => 0 | .aff x y => halves x y
/-- The signature of a digest under a private key, with the secret number of the signing. -/
def ecdsaSign (d k : Nat) (digest : BitVec 256) : BitVec 512 :=
  match curveG.mul (k % curveN) with
  | .inf => 0
  | .aff x _ => halves (x % curveN) (invMod k curveN * (digest.toNat + x % curveN * d) % curveN)

/-- The vendor public key, whose digest the fuses hold (R20). -/
def vendorKey : BitVec 512 := publicKey Config.vendorSecret.toNat
/-- A die's public identity key, X then Y (R21). -/
def identityKey (k : Nat) : BitVec 512 := publicKey (Config.identitySecret k).toNat
/-- A signature that a die makes with its identity key (R21). -/
def identitySign (k : Nat) (digest : BitVec 256) : BitVec 512 := ecdsaSign (Config.identitySecret k).toNat (Config.signSecret k digest).toNat digest
/-- The vendor signature over a die's identity key and socket number (R21). -/
def identityCert (k : Nat) : BitVec 512 :=
  let digest := sha256 (natLe (identityKey k).toNat 64 ++ natLe k 1)
  ecdsaSign Config.vendorSecret.toNat (Config.signSecret 16 digest).toNat digest

end Sys2Proof.Machine
end

