-- ==== Sys2Proof/Syntax.lean ====
section
/-! DEFINITION. The instructions: one constructor per row of spec/opcode_table.json (package events, Flinal instructions, native ops), with the field types of R31 and R75. -/

namespace Sys2Proof

/-- The Flinal types of R31, in code order; code 15 is reserved. -/
inductive Ty where
  | void | i1 | i8 | i16 | i32 | i64 | f16 | bf16 | f32 | f64 | ptr | f8e4 | f8e5 | q4 | hnd
  deriving DecidableEq, Repr

/-- The native register files a group names (R249). -/
inductive RegFile where
  | vec | scalar | pred
  deriving DecidableEq, Repr

/-- An operand: a Flinal reference (R26, R30), the literal word of flag K (R71), or a native register (R254, R266). -/
inductive Opnd where
  | ref (n : BitVec 16)
  | lit (w : BitVec 32)
  | reg (file : RegFile) (n : BitVec 8) (ty : Ty)
  deriving DecidableEq, Repr

/-- Where a result goes: the implicit next value number (R26), or a native register (R266). -/
inductive Dst where
  | flinal
  | reg (file : RegFile) (n : BitVec 8)
  deriving DecidableEq, Repr

/-- Fields every value-defining instruction has (R38): destinations, TY, U (R33) and CE (R37). -/
structure Hd where
  dst : Dst
  dst2 : Dst
  ty : Ty
  u : Bool
  ce : Bool
  deriving DecidableEq, Repr

/-- Rounding codes of R75. -/
inductive Round where
  | rne | rtz | rup | rdn
  deriving DecidableEq, Repr
/-- Scope codes of R75. -/
inductive Scope where
  | lane | group | team | die | package | system
  deriving DecidableEq, Repr
/-- Order codes of R75. -/
inductive Order where
  | relaxed | acquire | release | acqrel
  deriving DecidableEq, Repr
/-- Integer compare codes of R75. -/
inductive ICmp where
  | eq | ne | ltS | leS | gtS | geS | ltU | leU | gtU | geU
  deriving DecidableEq, Repr
/-- Float compare codes of R75. -/
inductive FCmp where
  | eq | ne | lt | le | gt | ge | ord | uno
  deriving DecidableEq, Repr
/-- Atomic operations of R158. -/
inductive AtomOp where
  | add | minS | minU | maxS | maxU | and | or | xor | xchg | incw | decw | fadd
  deriving DecidableEq, Repr
/-- Lane combine codes of R75. -/
inductive Combine where
  | add | min | max | and | or | xor
  deriving DecidableEq, Repr
/-- Forms of add and sub (R92). -/
inductive SatMode where
  | wrap | satS | satU
  deriving DecidableEq, Repr
/-- Forms of mul (R93). -/
inductive MulMode where
  | low | hiS | hiU | satS | satU
  deriving DecidableEq, Repr
/-- Forms of shfl (R122). -/
inductive ShflMode where
  | idx | up | down | xor
  deriving DecidableEq, Repr
/-- Forms of vote (R123). -/
inductive VoteMode where
  | any | all | eq | ballot
  deriving DecidableEq, Repr
/-- Prefetch forms of R155. -/
inductive PfForm where
  | l2 | cst | xlat
  deriving DecidableEq, Repr
/-- Target windows of ptr.cast (R157). -/
inductive Win where
  | global | const | scratch | priv
  deriving DecidableEq, Repr
/-- Index scale of gather and scatter (R154). -/
inductive GScale where
  | x1 | x2 | x4 | x8 | elem
  deriving DecidableEq, Repr
/-- Operations of reel.capture (R388). -/
inductive ReelOp where
  | read | add | min | max | argmax | and | or | swap | cas | incw
  deriving DecidableEq, Repr

/-- A group of the package: its team's number and its index in the team (R203). -/
structure GId where
  tid : Nat
  g : Nat
  deriving DecidableEq, Repr

/-- A part whose boot step failed (R14): socket (0xF for the package), cause, and the tier port or peer link. -/
structure BootFail where
  sock : BitVec 4
  cause : BitVec 4
  kind : BitVec 2
  unit : BitVec 5
  deriving DecidableEq, Repr

/-- A signed host command (R19): its bytes, which carry the nonce, and the signature r then s over their digest. -/
structure SignedCmd where
  body : List (BitVec 8)
  sig : BitVec 512
  deriving DecidableEq, Repr

/-- A part that an update names (R22): a compute die, an I/O die, the host port, a tier port, a peer link, an HBM stack. -/
inductive Part where
  | die (sock : BitVec 4)
  | io0
  | io1
  | hostPort
  | tierPort (n : BitVec 3)
  | peerLink (n : BitVec 4)
  | stack (n : BitVec 3)
  deriving DecidableEq, Repr

/-- What is done to the part (R22): a new image, a re-configuration, or a re-calibration with the FLL target it finds (R300). -/
inductive UpdWork where
  | image (version : BitVec 32)
  | configure
  | calibrate (target : BitVec 7)
  deriving DecidableEq, Repr

/-- Who reads a latched counter pair (R469): each has its own shadow. -/
inductive Requester where
  | host | io0 | core (sock core : Nat)
  deriving DecidableEq, Repr

/-- A packet of the Plinth (R326, R438): the fields a router record holds, and the job. -/
structure Packet where
  job : BitVec 12
  router : BitVec 4
  chan : BitVec 1
  port : BitVec 3
  src : BitVec 4
  dst : BitVec 4
  len : BitVec 16
  seq : BitVec 32
  header : BitVec 128
  payload : List Byte
  deriving DecidableEq, Repr

/-- Registers without a write row of their own (R9), as REGISTER_WRITE names them. -/
inductive Reg where
  | plnMode | plnBootunit | plnCapbase
  | dspQcfg (n : BitVec 6) | dspQbase (n : BitVec 6) | dspQhead (n : BitVec 6) | dspQstat (n : BitVec 6)
  | dspHeadroom (n : BitVec 2) | dspSteer | dspJobsel | dspJobroot
  | ctxHmod | ctxHfunc | ctxRoute
  | dspVfyctl (n : BitVec 6) | dspVfyreg (n : BitVec 6) | dspVfyout (n : BitVec 6)
  | spnEvt (sock bay : Nat) (n : BitVec 3) | spnCache (n : BitVec 1)
  | spnXlkey (sock : Nat) (n : BitVec 2)
  | numWindow (sock core bank : Nat) | numLimit (sock core bank : Nat) (n : BitVec 3)
  | numCount (sock core bank : Nat) (n : BitVec 3) | numStatus (sock core bank : Nat)
  | ctxTrapbase (sock core : Nat) | ctxTraperr (sock core : Nat)
  | hodInflight (sock core : Nat) | mxeCadence (sock core : Nat)
  | pwrSlope (sock : Nat) | pwrStatus (sock : Nat) | pwrFll (sock bay : Nat) | pwrSag (sock bay : Nat)
  | pwrEnergyWrap (sock : Nat)
  | plnShootva | plnCong | plnLinkpm
  | migQcfg (s : BitVec 1) | migQbase (s : BitVec 1) | migQhead (s : BitVec 1)
  | reelStatus | plnDoffctl | plnDoffarea | plnDoffstat | plnDierst | plnDiestat
  | thmCoolant | thmSel
  deriving DecidableEq, Repr

/-- The steps of the machine. Events carry what the outside world or the acting agent supplies. -/
inductive Instr where
  -- boot, modes, trust (R13-R23)
  | bootStageEnd (fails : List BootFail)
  | bootStageLimit (f : BootFail)
  | bootrecClear (v : W32)
  | testModeCommand (c : SignedCmd)
  | exitCommand (c : SignedCmd)
  | recoveryImage (digest : BitVec 256) (version : W32) (sig : BitVec 512)
  | attestationRequest (nonce : BitVec 256)
  | updateRequest (p : Part) (w : UpdWork) (digest : BitVec 256) (sig : BitVec 512)
  | updateCommit (pass : Bool)
  -- modules, queues, launches (R41, R186-R217)
  | moduleRegister (job : BitVec 12) (image : List Byte)
  | moduleUnregister (handle : W64)
  | partcfgWrite (v : W32)
  | queueEnable (n : BitVec 6) (v : W32)
  | queueDisable (n : BitVec 6) (v : W32)
  | queueTailWrite (n : BitVec 6) (v : W32)
  | backfillReserve (part : BitVec 4)
  | teamSetupDone (tid : Nat)
  | completionEvent (tid : Nat)
  | verifyRecord (queue : BitVec 6) (seq : W32)
  -- Spindle (R218-R231)
  | translationDone (sock bay : Nat)
  | entryReadError (cls : BitVec 1) (idx : Nat)
  | xlmapMap (sock : Nat)
  | xlmapUnmap (sock : Nat)
  -- issue (R249-R295)
  | courseIssue (sock core cluster : Nat)
  | bundleIssue (gid : GId)
  | resultWriteback (gid : GId)
  | courseEnd (gid : GId)
  | numWindowClose (sock core bank : Nat)
  | lockstepMeeting (tid quad : Nat)
  -- faults, handlers, pre-emption (R404-R424)
  | faultDrainDone (gid : GId)
  | handlerEntry (gid : GId)
  | ctxAnswer (sock core : Nat) (v : W32)
  | alogClear (sock core bank : Nat) (k : BitVec 2) (v : W32)
  | preemptRequest (sock core : Nat) (v : W32)
  | preemptYield (sock core : Nat)
  | preemptLimit (sock core : Nat)
  | dspRestore (v : W64)
  -- power and clocks (R297-R301, R459-R462)
  | sagTrip (sock bay : Nat)
  | sagClear (sock bay : Nat)
  | sagRecoveryStep (sock bay : Nat)
  | slopeWindow (sock : Nat) (rows : Nat)
  | slopeYield (sock : Nat)
  | coolantReport (kind : BitVec 2) (inlet : BitVec 8) (flow : BitVec 16)
  | powerEvaluation (p0 p1 p2 p3 package : Nat)
  | thermalThrottle (sock : Nat) (temp : Nat)
  | thermalTrip (sock : Nat)
  -- memory hierarchy (R302-R329)
  | bankModeWrite (sock core : Nat) (n : BitVec 6) (v : W32)
  | bankModeSwitchDone (sock core : Nat) (n : BitVec 6)
  | qbindWrite (sock core : Nat) (v : W32)
  | l2SplitWrite (sock : Nat) (n : BitVec 4) (v : W32)
  | l2SplitDone (sock : Nat) (n : BitVec 4)
  | stagewinWrite (sock : Nat) (n : BitVec 4) (v : W64)
  | stagewinZeroed (sock : Nat) (n : BitVec 4)
  | hostMemoryAccess (pa : W64) (len : Nat) (write : Option (List Byte))
  | backInvalidate (line : W64)
  | shootdown (v : W32)
  | migRingEnable (s : BitVec 1) (v : W32)
  | migRingDisable (s : BitVec 1) (v : W32)
  | migTailWrite (s : BitVec 1) (v : W32)
  | migDescriptorTake (s : BitVec 1)
  | linkDown (a b : BitVec 4)
  | routeWrite (n : BitVec 4) (v : W32)
  | linkNarrow (sock : Nat)
  | linkWiden (sock : Nat)
  | dieAbsentReply (sock core : Nat) (idx : Nat)
  -- engines (R334, R338, R172, R159)
  | hodFetch (tid : Nat) (engine : BitVec 1)
  | hodChunkDone (tid : Nat) (idx : Nat) (chunk : Nat)
  | mxCommandDone (sock core bank : Nat)
  | redPerform (tid : Nat)
  -- the Reel (R379-R397)
  | reelPassage (slot : BitVec 9) (sock core : Nat)
  | seamPassage (slot : BitVec 9)
  | reelNokey (sock core : Nat) (idx : Nat)
  | timedWaitExpiry (gid : GId)
  -- Doff (R430-R441)
  | doffStart (v : W32)
  | doffRestore (v : W32)
  | doffDiscard (v : W32)
  | doffPhaseEnd (late : Bool)
  | latePacket (p : Packet)
  -- die warm reset (R453-R457)
  | dieResetRequest (v : W32)
  | dieLinkFailure (sock : BitVec 2)
  | controlStateError (sock : BitVec 2)
  | dieResetPhaseEnd (pass : Bool)
  -- counters and registers (R469, R470, R9)
  | energyLoRead (r : Requester) (sock : Nat)
  | energyHiRead (r : Requester) (sock : Nat)
  | jobcntLoRead (r : Requester) (k : BitVec 3)
  | jobcntHiRead (r : Requester) (k : BitVec 3)
  | jobcntClear (v : W32)
  | registerWrite (r : Reg) (v : W64)
  -- Flinal: control (R76)
  | blk (tys : List Ty)
  | br (target : BitVec 16) (n : BitVec 5) (args : List Opnd)
  | cbr (c : Opnd) (bt bf : BitVec 16) (t f : BitVec 5) (args : List Opnd)
  | switch (sel : Opnd) (dflt base : BitVec 16) (n : BitVec 10)
  | retValues (v : Opnd) (w : Option Opnd)
  | call (h : Hd) (two : Bool) (callee : BitVec 16) (n : BitVec 5) (args : List Opnd)
  | args (vals : List Opnd)
  -- integer and address (R78)
  | add (h : Hd) (m : SatMode) (a b : Opnd)
  | sub (h : Hd) (m : SatMode) (a b : Opnd)
  | mul (h : Hd) (m : MulMode) (a b : Opnd)
  | mad (h : Hd) (a b c : Opnd)
  | div (h : Hd) (uns : Bool) (a b : Opnd)
  | divrem (h : Hd) (uns : Bool) (a b : Opnd)
  | rem (h : Hd) (uns : Bool) (a b : Opnd)
  | neg (h : Hd) (sat : Bool) (a : Opnd)
  | abs (h : Hd) (sat : Bool) (a : Opnd)
  | min (h : Hd) (uns : Bool) (a b : Opnd)
  | max (h : Hd) (uns : Bool) (a b : Opnd)
  | addc (h : Hd) (a b c : Opnd)
  | subb (h : Hd) (a b c : Opnd)
  | and (h : Hd) (a b : Opnd)
  | or (h : Hd) (a b : Opnd)
  | xor (h : Hd) (a b : Opnd)
  | andn (h : Hd) (a b : Opnd)
  | not (h : Hd) (a : Opnd)
  | shl (h : Hd) (a b : Opnd)
  | shr (h : Hd) (sgn : Bool) (a b : Opnd)
  | rot (h : Hd) (right : Bool) (a b : Opnd)
  | popc (h : Hd) (a : Opnd)
  | clz (h : Hd) (a : Opnd)
  | ctz (h : Hd) (a : Opnd)
  | brev (h : Hd) (a : Opnd)
  | bfx (h : Hd) (sgn : Bool) (v pos len : Opnd)
  | bfi (h : Hd) (base ins pos len : Opnd)
  | cmp (h : Hd) (c : ICmp) (a b : Opnd)
  | sel (h : Hd) (c a b : Opnd)
  | const (h : Hd) (bits : W64)
  | ext (h : Hd) (sgn : Bool) (a : Opnd)
  | trunc (h : Hd) (a : Opnd)
  | ptoi (h : Hd) (a : Opnd)
  | itop (h : Hd) (a : Opnd)
  | ptrIdx (h : Hd) (sgn : Bool) (k : BitVec 2) (p x : Opnd)
  -- floating point (R79)
  | addFloat (h : Hd) (r : Round) (a b : Opnd)
  | subFloat (h : Hd) (r : Round) (a b : Opnd)
  | mulFloat (h : Hd) (r : Round) (a b : Opnd)
  | fma (h : Hd) (r : Round) (a b c : Opnd)
  | divFloat (h : Hd) (r : Round) (a b : Opnd)
  | sqrt (h : Hd) (r : Round) (a : Opnd)
  | rcp (h : Hd) (a : Opnd)
  | rsqrt (h : Hd) (a : Opnd)
  | minFloat (h : Hd) (a b : Opnd)
  | maxFloat (h : Hd) (a b : Opnd)
  | negFloat (h : Hd) (a : Opnd)
  | absFloat (h : Hd) (a : Opnd)
  | copysign (h : Hd) (a b : Opnd)
  | cmpFloat (h : Hd) (c : FCmp) (a b : Opnd)
  | class (h : Hd) (mask : BitVec 10) (a : Opnd)
  | rint (h : Hd) (r : Round) (a : Opnd)
  | exp2 (h : Hd) (a : Opnd)
  | log2 (h : Hd) (a : Opnd)
  | sin (h : Hd) (a : Opnd)
  | cos (h : Hd) (a : Opnd)
  | tanh (h : Hd) (a : Opnd)
  | sigm (h : Hd) (a : Opnd)
  | amax (h : Hd) (a ia b ib : Opnd)
  | amin (h : Hd) (a ia b ib : Opnd)
  -- conversion (R80)
  | cvt (h : Hd) (r : Round) (sat sgn : Bool) (a : Opnd)
  | cvtSlot (h : Hd) (slot : BitVec 3) (sgn : Bool) (a : Opnd)
  | q4Pack (h : Hd) (slot : BitVec 3) (x : Opnd) (band : Option Opnd)
  | q4Unpack (h : Hd) (slot : BitVec 3) (q k : Opnd) (band : Option Opnd)
  | q4Make (h : Hd) (w s : Opnd)
  | q4Elem (h : Hd) (q : Opnd)
  | q4Scale (h : Hd) (q : Opnd)
  | bitcast (h : Hd) (a : Opnd)
  -- lanes and exchange (R81)
  | shfl (h : Hd) (m : ShflMode) (v n : Opnd)
  | vote (h : Hd) (m : VoteMode) (p : Opnd)
  | scan (h : Hd) (excl : Bool) (c : Combine) (v : Opnd)
  | xred (h : Hd) (c : Combine) (v : Opnd)
  | xamax (h : Hd) (isMin : Bool) (x idx : Opnd)
  | first (h : Hd) (v : Opnd)
  | active (h : Hd)
  | emit (h : Hd) (mask : BitVec 5) (v : Opnd) (sp : Option Opnd)
  -- memory and atomics (R82)
  | ld (h : Hd) (ac : BitVec 3) (acq : Bool) (sc : Scope) (p : Opnd)
  | st (h : Hd) (ac : BitVec 3) (rel : Bool) (sc : Scope) (p v : Opnd)
  | ldk (h : Hd) (ac : BitVec 3) (acq : Bool) (sc : Scope) (p : Opnd) (off : W32)
  | stk (h : Hd) (ac : BitVec 3) (rel : Bool) (sc : Scope) (p v : Opnd) (off : W32)
  | gather (h : Hd) (ac : BitVec 3) (width : BitVec 2) (sgn : Bool) (scale : GScale) (base idx : Opnd)
  | scatter (h : Hd) (ac : BitVec 3) (width : BitVec 2) (sgn : Bool) (scale : GScale) (base idx v : Opnd)
  | prefetch (h : Hd) (ac : BitVec 3) (f : PfForm) (p : Opnd)
  | ptrExport (h : Hd) (ac : BitVec 3) (p : Opnd)
  | ptrCast (h : Hd) (ac : BitVec 3) (w : Win) (p : Opnd)
  | atom (h : Hd) (ac : BitVec 3) (op : AtomOp) (ord : Order) (sc : Scope) (p x : Opnd)
  | cas (h : Hd) (ac : BitVec 3) (ord : Order) (sc : Scope) (p e n : Opnd)
  | red (h : Hd) (ac : BitVec 3) (op : AtomOp) (ord : Order) (sc : Scope) (p x : Opnd)
  | fence (h : Hd) (ord : Order) (sc : Scope)
  -- synchronisation and spools (R83)
  | bar (h : Hd) (b : BitVec 4) (lm gm : Opnd)
  | barArrive (h : Hd) (b : BitVec 4) (lm gm : Opnd)
  | barWait (b : BitVec 4) (ph : Opnd)
  | barWaitTimed (h : Hd) (b : BitVec 4) (ph lim : Opnd)
  | xbInit (h : Hd) (p n : Opnd)
  | xbExpect (h : Hd) (p n : Opnd)
  | xbWait (p : Opnd)
  | xbWaitTimed (h : Hd) (p lim : Opnd)
  | spoolClaim (h : Hd) (sp : Opnd)
  | spoolCommit (h : Hd) (sp p : Opnd)
  | spoolWaitfilled (h : Hd) (sp : Opnd)
  | spoolRelease (h : Hd) (sp p : Opnd)
  | spoolWaitfree (sp : Opnd)
  -- Hod, Reel and matrix (R84)
  | hodKick (h : Hd) (engine : BitVec 1) (n : Opnd)
  | hodBind (h : Hd) (engine : BitVec 1) (req : Opnd)
  | sread (h : Hd) (st : Opnd)
  | hodPut (h : Hd) (engine : BitVec 1) (req : Opnd)
  | hodGet (h : Hd) (engine : BitVec 1) (req : Opnd)
  | reelBoard (h : Hd) (key pay : Opnd)
  | reelAlight (h : Hd) (key hint dst done : Opnd)
  | reelCapture (h : Hd) (op : ReelOp) (field : BitVec 3) (ord : Order) (key hint x y : Opnd)
  | mxLdst (h : Hd) (slot : BitVec 3) (pb : Opnd)
  | mxSwap (ce : Bool)
  | mxStream (h : Hd) (slot : BitVec 3) (pb : Opnd)
  | mxStreamBound (h : Hd) (slot : BitVec 3) (pb st : Opnd)
  | mxSpgather (h : Hd) (slot : BitVec 3) (pb : Opnd)
  | mxCompress (h : Hd) (slot : BitVec 3) (pb : Opnd)
  | mxDrain (h : Hd) (slot : BitVec 3) (pb : Opnd)
  | mxDrainAdd (h : Hd) (slot : BitVec 3) (pb : Opnd)
  | mxWait (tok : Opnd)
  -- system and trap (R85)
  | ctxSpill (p : Opnd)
  | ctxFill (p : Opnd)
  | ctxBank (b : Opnd)
  | ctxDivSave (ce : Bool) (p : Opnd)
  | ctxDivRestore (ce : Bool) (p : Opnd)
  | ctxBarSave (ce : Bool) (p : Opnd)
  | ctxBarRestore (ce : Bool) (p : Opnd)
  | doffIssue (h : Hd) (job area : Opnd)
  | trap (code : BitVec 10)
  | trapDetail (code : BitVec 10) (det : Opnd)
  | rdctr (h : Hd) (n : BitVec 10)
  | rdcap (h : Hd) (off : Opnd)
  | phaseDecl (p : BitVec 4)
  -- native-only ops (R268, R282)
  | nLi (s : Bool) (d : BitVec 8) (imm : BitVec 16) (m : BitVec 8)
  | nMov (s : Bool) (d a m : BitVec 8)
  | nBcast (d a m : BitVec 8)
  | nBfpk (s : Bool) (d a b : BitVec 8)
  | nSpill (d : BitVec 8) (imm : BitVec 16) (m : BitVec 8)
  | nFill (d : BitVec 8) (imm : BitVec 16) (m : BitVec 8)
  -- accounting and peers (R468, R333, R441)
  | energyAccumulatorUpdate (sock : Nat) (uj : Nat)
  | peerLinkDown (n : BitVec 4)
  | inboundPeerTransfer (link : BitVec 4) (pa : W64) (len : Nat) (write : Option (List Byte))
  -- rows without operands, last (the compiled form tags at most 244 constructors that carry operands)
  | coldStart
  | standbyPowerLoss
  | testModeExit
  | updateStart
  | dispatchRound
  | placementPass
  | shootdownDone
  | migrationCopyDone
  | tableRaise
  | coolantReportLoss
  | doffRestoreDone
  | discardDrainEnd
  | dieResetStart
  | ret
  | exit
  | unreachable
  | reelFence
  | ctxDrain
  | tret
  deriving DecidableEq, Repr

end Sys2Proof
end

