-- ==== Sys2Proof/Machine/Types.lean ====
section
/-! DEFINITION. The types of R31 (codes, widths, the sets of R71) and the numeric codes of the sub-fields of R75-R85. -/

namespace Sys2Proof

/-- The code of a type (R31). -/
def Ty.code : Ty → BitVec 4
  | .void => 0
  | .i1 => 1
  | .i8 => 2
  | .i16 => 3
  | .i32 => 4
  | .i64 => 5
  | .f16 => 6
  | .bf16 => 7
  | .f32 => 8
  | .f64 => 9
  | .ptr => 10
  | .f8e4 => 11
  | .f8e5 => 12
  | .q4 => 13
  | .hnd => 14

/-- The type of a code; none for the reserved code 15. -/
def Ty.ofCode (n : Nat) : Option Ty :=
  match n with
  | 0 => some .void
  | 1 => some .i1
  | 2 => some .i8
  | 3 => some .i16
  | 4 => some .i32
  | 5 => some .i64
  | 6 => some .f16
  | 7 => some .bf16
  | 8 => some .f32
  | 9 => some .f64
  | 10 => some .ptr
  | 11 => some .f8e4
  | 12 => some .f8e5
  | 13 => some .q4
  | 14 => some .hnd
  | _ => none

/-- Bits per lane (R31); a handle takes 64 in this model (log 7). -/
def Ty.bits : Ty → Nat
  | .void => 0
  | .i1 => 1
  | .i8 => 8
  | .i16 => 16
  | .i32 => 32
  | .i64 => 64
  | .f16 => 16
  | .bf16 => 16
  | .f32 => 32
  | .f64 => 64
  | .ptr => 64
  | .f8e4 => 8
  | .f8e5 => 8
  | .q4 => 44
  | .hnd => 64

/-- Set I of R71. -/
def Ty.isI (t : Ty) : Bool := t == .i8 || t == .i16 || t == .i32 || t == .i64
/-- Set B of R71. -/
def Ty.isB (t : Ty) : Bool := t == .i1 || t.isI
/-- Set F of R71. -/
def Ty.isF (t : Ty) : Bool := t == .f16 || t == .bf16 || t == .f32 || t == .f64
/-- Set H of R71. -/
def Ty.isH (t : Ty) : Bool := t == .f16 || t == .bf16 || t == .f32
/-- Set A of R71. -/
def Ty.isA (t : Ty) : Bool := t != .void && t != .hnd
/-- Types whose const literal takes two words (R104). -/
def Ty.isWide (t : Ty) : Bool := t == .i64 || t == .f64 || t == .ptr || t == .q4

/-- Rounding codes of R75. -/
def Round.code : Round → Nat
  | .rne => 0
  | .rtz => 1
  | .rup => 2
  | .rdn => 3
def Round.ofCode : Nat → Option Round
  | 0 => some .rne
  | 1 => some .rtz
  | 2 => some .rup
  | 3 => some .rdn
  | _ => none

/-- Scope codes of R75. -/
def Scope.code : Scope → Nat
  | .lane => 0
  | .group => 1
  | .team => 2
  | .die => 3
  | .package => 4
  | .system => 5
def Scope.ofCode : Nat → Option Scope
  | 0 => some .lane
  | 1 => some .group
  | 2 => some .team
  | 3 => some .die
  | 4 => some .package
  | 5 => some .system
  | _ => none

/-- Order codes of R75. -/
def Order.code : Order → Nat
  | .relaxed => 0
  | .acquire => 1
  | .release => 2
  | .acqrel => 3
def Order.ofCode : Nat → Option Order
  | 0 => some .relaxed
  | 1 => some .acquire
  | 2 => some .release
  | 3 => some .acqrel
  | _ => none

/-- Integer compare codes of R75. -/
def ICmp.code : ICmp → Nat
  | .eq => 0
  | .ne => 1
  | .ltS => 2
  | .leS => 3
  | .gtS => 4
  | .geS => 5
  | .ltU => 6
  | .leU => 7
  | .gtU => 8
  | .geU => 9
def ICmp.ofCode : Nat → Option ICmp
  | 0 => some .eq
  | 1 => some .ne
  | 2 => some .ltS
  | 3 => some .leS
  | 4 => some .gtS
  | 5 => some .geS
  | 6 => some .ltU
  | 7 => some .leU
  | 8 => some .gtU
  | 9 => some .geU
  | _ => none

/-- Float compare codes of R75. -/
def FCmp.code : FCmp → Nat
  | .eq => 0
  | .ne => 1
  | .lt => 2
  | .le => 3
  | .gt => 4
  | .ge => 5
  | .ord => 6
  | .uno => 7
def FCmp.ofCode : Nat → Option FCmp
  | 0 => some .eq
  | 1 => some .ne
  | 2 => some .lt
  | 3 => some .le
  | 4 => some .gt
  | 5 => some .ge
  | 6 => some .ord
  | 7 => some .uno
  | _ => none

/-- Atomic operation codes of R75. -/
def AtomOp.code : AtomOp → Nat
  | .add => 0
  | .minS => 1
  | .minU => 2
  | .maxS => 3
  | .maxU => 4
  | .and => 5
  | .or => 6
  | .xor => 7
  | .xchg => 8
  | .incw => 9
  | .decw => 10
  | .fadd => 11
def AtomOp.ofCode : Nat → Option AtomOp
  | 0 => some .add
  | 1 => some .minS
  | 2 => some .minU
  | 3 => some .maxS
  | 4 => some .maxU
  | 5 => some .and
  | 6 => some .or
  | 7 => some .xor
  | 8 => some .xchg
  | 9 => some .incw
  | 10 => some .decw
  | 11 => some .fadd
  | _ => none

/-- Lane combine codes of R75. -/
def Combine.code : Combine → Nat
  | .add => 0
  | .min => 1
  | .max => 2
  | .and => 3
  | .or => 4
  | .xor => 5
def Combine.ofCode : Nat → Option Combine
  | 0 => some .add
  | 1 => some .min
  | 2 => some .max
  | 3 => some .and
  | 4 => some .or
  | 5 => some .xor
  | _ => none
/-- The bitwise combines, which R75 admits only for I. -/
def Combine.bitwise (c : Combine) : Bool := decide (3 ≤ c.code)

/-- Forms of add and sub (R78). -/
def SatMode.code : SatMode → Nat
  | .wrap => 0
  | .satS => 1
  | .satU => 2
def SatMode.ofCode : Nat → Option SatMode
  | 0 => some .wrap
  | 1 => some .satS
  | 2 => some .satU
  | _ => none

/-- Forms of mul (R78). -/
def MulMode.code : MulMode → Nat
  | .low => 0
  | .hiS => 1
  | .hiU => 2
  | .satS => 3
  | .satU => 4
def MulMode.ofCode : Nat → Option MulMode
  | 0 => some .low
  | 1 => some .hiS
  | 2 => some .hiU
  | 3 => some .satS
  | 4 => some .satU
  | _ => none

/-- Forms of shfl (R81). -/
def ShflMode.code : ShflMode → Nat
  | .idx => 0
  | .up => 1
  | .down => 2
  | .xor => 3
def ShflMode.ofCode : Nat → Option ShflMode
  | 0 => some .idx
  | 1 => some .up
  | 2 => some .down
  | 3 => some .xor
  | _ => none

/-- Forms of vote (R81). -/
def VoteMode.code : VoteMode → Nat
  | .any => 0
  | .all => 1
  | .eq => 2
  | .ballot => 3
def VoteMode.ofCode : Nat → Option VoteMode
  | 0 => some .any
  | 1 => some .all
  | 2 => some .eq
  | 3 => some .ballot
  | _ => none

/-- Forms of prefetch (R82). -/
def PfForm.code : PfForm → Nat
  | .l2 => 0
  | .cst => 1
  | .xlat => 2
def PfForm.ofCode : Nat → Option PfForm
  | 0 => some .l2
  | 1 => some .cst
  | 2 => some .xlat
  | _ => none

/-- Target windows of ptr.cast (R82). -/
def Win.code : Win → Nat
  | .global => 0
  | .const => 1
  | .scratch => 2
  | .priv => 3
def Win.ofCode : Nat → Option Win
  | 0 => some .global
  | 1 => some .const
  | 2 => some .scratch
  | 3 => some .priv
  | _ => none

/-- Scales of gather and scatter (R82). -/
def GScale.code : GScale → Nat
  | .x1 => 0
  | .x2 => 1
  | .x4 => 2
  | .x8 => 3
  | .elem => 4
def GScale.ofCode : Nat → Option GScale
  | 0 => some .x1
  | 1 => some .x2
  | 2 => some .x4
  | 3 => some .x8
  | 4 => some .elem
  | _ => none

/-- Operations of reel.capture (R84). -/
def ReelOp.code : ReelOp → Nat
  | .read => 0
  | .add => 1
  | .min => 2
  | .max => 3
  | .argmax => 4
  | .and => 5
  | .or => 6
  | .swap => 7
  | .cas => 8
  | .incw => 9
def ReelOp.ofCode : Nat → Option ReelOp
  | 0 => some .read
  | 1 => some .add
  | 2 => some .min
  | 3 => some .max
  | 4 => some .argmax
  | 5 => some .and
  | 6 => some .or
  | 7 => some .swap
  | 8 => some .cas
  | 9 => some .incw
  | _ => none

/-- The refusals of translation and registration (R40). -/
inductive XlCode where
  | opcode | type | ref | block | uniform | course | limit | recurse | container
  deriving DecidableEq, Repr

end Sys2Proof
end

