-- ==== Sys2Proof/WellFormed.lean ====
section
/-! DEFINITION. When an instruction term is one that an encoding, or an event's source, can give: the fields' ranges of R70-R85 and R266, and the places that exist (R2-R6). -/

namespace Sys2Proof

/-- A Flinal reference. -/
def Opnd.isRef : Opnd → Bool
  | .ref _ => true
  | _ => false

/-- A reference, or a literal whose unused high bits are zero for type t (R71, R87). -/
def Opnd.lastOk (t : Ty) : Opnd → Bool
  | .ref _ => true
  | .lit w => decide (w.toNat < 2 ^ t.bits)
  | .reg _ _ _ => false

/-- A Flinal head: implicit destinations, TY in the row's set, U only where the row has it, CE where E (R38, R71, R73). -/
def Hd.ok (h : Hd) (tys : Ty → Bool) (u e : Bool) : Bool :=
  h.dst == .flinal && h.dst2 == .flinal && tys h.ty && (u || !h.u) && (!e || h.ce)

def tyIs (t : Ty) (x : Ty) : Bool := x == t
def isIP (t : Ty) : Bool := t.isI || t == .ptr
def isIH (t : Ty) : Bool := t.isI || t.isH
def isACvt (t : Ty) : Bool := t.isA && t != .q4
def refs (l : List Opnd) : Bool := l.all Opnd.isRef

/-- One-operand U row. -/
def wf1 (h : Hd) (tys : Ty → Bool) (a : Opnd) : Bool := h.ok tys true false && a.isRef
/-- Two-operand U row without K. -/
def wf2 (h : Hd) (tys : Ty → Bool) (a b : Opnd) : Bool := h.ok tys true false && refs [a, b]
/-- Two-operand U K row, the literal of type lt. -/
def wf2k (h : Hd) (tys : Ty → Bool) (lt : Ty) (a b : Opnd) : Bool :=
  h.ok tys true false && a.isRef && b.lastOk lt
def wf3 (h : Hd) (tys : Ty → Bool) (a b c : Opnd) : Bool := h.ok tys true false && refs [a, b, c]
def wf4 (h : Hd) (tys : Ty → Bool) (a b c d : Opnd) : Bool := h.ok tys true false && refs [a, b, c, d]

/-- Order and scope: a scope that is not lane needs an order (R82). -/
def ordOk (o : Order) (s : Scope) : Bool := o != .relaxed || s == .lane
def acqOk (a : Bool) (s : Scope) : Bool := a || s == .lane

/-- Types of atom and red (R82). -/
def atomTy (op : AtomOp) (t : Ty) : Bool := if op == .fadd then t.isH else t.isI

/-- The orders of red (R159). -/
def redOrd (o : Order) : Bool := o == .relaxed || o == .release

/-- The index type that a gather's width names (R82). -/
def gIdxTy (w : BitVec 2) : Ty :=
  match w.toNat with
  | 0 => .i8
  | 1 => .i16
  | 2 => .i32
  | _ => .i64

/-- The timed forms' result type (R83). -/
def vd (t : Ty) : Bool := t == .void

/-- Cores of a compute die: 48 on CD0 and CD1, 32 on CD2 and CD3 (R2). -/
def coresOf (sock : Nat) : Nat := if sock < 2 then 48 else if sock < 4 then 32 else 0
/-- Bays of a compute die (R2): 6 on the W2 dies, 4 on the N1 dies. -/
def baysOf (sock : Nat) : Nat := if sock < 2 then 6 else if sock < 4 then 4 else 0
def sockOk (sock : Nat) : Bool := decide (sock < 4)
def coreOk (sock core : Nat) : Bool := decide (core < coresOf sock)
def bayOk (sock bay : Nat) : Bool := decide (bay < baysOf sock)
def bankOk (sock core bank : Nat) : Bool := coreOk sock core && decide (bank < 2)

/-- The registers' places exist. -/
def Reg.ok : Reg → Bool
  | .spnEvt s b _ => bayOk s b
  | .spnXlkey s _ => sockOk s
  | .numWindow s c b => bankOk s c b
  | .numLimit s c b _ => bankOk s c b
  | .numCount s c b _ => bankOk s c b
  | .numStatus s c b => bankOk s c b
  | .ctxTrapbase s c => coreOk s c
  | .ctxTraperr s c => coreOk s c
  | .hodInflight s c => coreOk s c
  | .mxeCadence s c => coreOk s c
  | .pwrSlope s => sockOk s
  | .pwrStatus s => sockOk s
  | .pwrFll s b => bayOk s b
  | .pwrSag s b => bayOk s b
  | .pwrEnergyWrap s => decide (s < 6)
  | _ => true

/-- A group's index in its team is below 16 (R203). -/
def GId.ok (g : GId) : Bool := decide (g.g < 16)

/-- A transfer's length is that of its data. -/
def lenOk (len : Nat) : Option (List Byte) → Bool
  | none => true
  | some bs => bs.length == len

/-- A native destination register that a move op may write (R250): never s0, s1. -/
def nDst (s : Bool) (d : BitVec 8) : Bool := if s then decide (2 ≤ d.toNat ∧ d.toNat < 64) else decide (d.toNat < 255)

/-- Well-formed instructions. -/
def instrWf : Instr → Bool
  | .coldStart | .standbyPowerLoss | .testModeExit | .updateStart | .dispatchRound | .placementPass => true
  | .bootStageEnd _ | .bootStageLimit _ | .bootrecClear _ | .testModeCommand _ | .exitCommand _ => true
  | .recoveryImage _ _ _ | .attestationRequest _ | .updateCommit _ => true
  | .updateRequest p w _ _ => (match p with | .die k => sockOk k.toNat | _ => true) && (match w with | .calibrate t => decide (t.toNat ≤ 72) | _ => true)
  | .moduleRegister _ _ | .moduleUnregister _ | .partcfgWrite _ | .queueEnable _ _ | .queueDisable _ _ => true
  | .queueTailWrite _ _ | .backfillReserve _ | .teamSetupDone _ | .completionEvent _ | .verifyRecord _ _ => true
  | .translationDone s b => bayOk s b
  | .entryReadError _ _ => true
  | .xlmapMap s | .xlmapUnmap s => sockOk s
  | .courseIssue s c k => coreOk s c && decide (k < 4)
  | .bundleIssue g | .resultWriteback g | .courseEnd g | .faultDrainDone g | .handlerEntry g | .timedWaitExpiry g => g.ok
  | .numWindowClose s c b => bankOk s c b
  | .lockstepMeeting _ q => decide (q < 4)
  | .ctxAnswer s c _ | .preemptRequest s c _ | .preemptYield s c | .preemptLimit s c => coreOk s c
  | .alogClear s c b k _ => bankOk s c b && decide (k.toNat < 3)
  | .dspRestore _ => true
  | .sagTrip s b | .sagClear s b | .sagRecoveryStep s b => bayOk s b
  | .slopeWindow s _ | .slopeYield s | .thermalThrottle s _ | .thermalTrip s => sockOk s
  | .coolantReport _ _ _ | .powerEvaluation _ _ _ _ _ | .tableRaise | .coolantReportLoss => true
  | .bankModeWrite s c _ _ | .bankModeSwitchDone s c _ | .qbindWrite s c _ => coreOk s c
  | .l2SplitWrite s _ _ | .l2SplitDone s _ | .stagewinWrite s _ _ | .stagewinZeroed s _ => sockOk s
  | .hostMemoryAccess _ len w => lenOk len w
  | .backInvalidate _ | .shootdown _ | .shootdownDone => true
  | .migRingEnable _ _ | .migRingDisable _ _ | .migTailWrite _ _ | .migDescriptorTake _ | .migrationCopyDone => true
  | .linkDown _ _ | .routeWrite _ _ => true
  | .linkNarrow s | .linkWiden s => sockOk s
  | .dieAbsentReply s c _ => coreOk s c
  | .hodFetch _ _ | .hodChunkDone _ _ _ | .redPerform _ => true
  | .mxCommandDone s c b => bankOk s c b
  | .reelPassage _ s c | .reelNokey s c _ => coreOk s c
  | .seamPassage _ => true
  | .doffStart _ | .doffRestore _ | .doffDiscard _ | .doffPhaseEnd _ | .latePacket _ | .doffRestoreDone | .discardDrainEnd => true
  | .dieResetRequest _ | .dieLinkFailure _ | .controlStateError _ | .dieResetStart | .dieResetPhaseEnd _ => true
  | .energyLoRead _ s | .energyHiRead _ s => decide (s < 6)
  | .jobcntLoRead _ k | .jobcntHiRead _ k => decide (k.toNat < 6)
  | .jobcntClear _ => true
  | .registerWrite r _ => r.ok
  | .blk tys => decide (tys.length ≤ 24) && tys.all (fun t => t != .void)
  | .br _ n vs => decide (n.toNat ≤ 24) && vs.length == Nat.min n.toNat 5 && refs vs
  | .cbr c _ _ t f vs =>
    c.isRef && decide (t.toNat + f.toNat ≤ 24) && vs.length == Nat.min (t.toNat + f.toNat) 3 && refs vs
  | .switch sel _ _ n => sel.isRef && decide (1 ≤ n.toNat)
  | .ret | .exit | .unreachable | .reelFence | .ctxDrain | .tret => true
  | .retValues v w => v.isRef && (match w with | none => true | some x => x.isRef)
  | .call h _ _ n vs =>
    h.ok (fun t => t != .hnd) false true && decide (n.toNat ≤ 24) && vs.length == Nat.min n.toNat 4 && refs vs
  | .args vals => decide (1 ≤ vals.length ∧ vals.length ≤ 6) && refs vals
  | .add h m a b | .sub h m a b => wf2k h isIP (if h.ty == .ptr then .i64 else h.ty) a b && (h.ty != .ptr || m == .wrap)
  | .mul h _ a b => wf2k h Ty.isI h.ty a b
  | .mad h a b c => wf3 h Ty.isI a b c
  | .div h _ a b | .divrem h _ a b | .rem h _ a b | .min h _ a b | .max h _ a b => wf2k h Ty.isI h.ty a b
  | .neg h _ a | .abs h _ a => wf1 h Ty.isI a
  | .addc h a b c | .subb h a b c => wf3 h Ty.isI a b c
  | .and h a b | .or h a b | .xor h a b | .andn h a b => wf2k h Ty.isB h.ty a b
  | .not h a => wf1 h Ty.isB a
  | .shl h a b | .shr h _ a b | .rot h _ a b => wf2k h Ty.isI h.ty a b
  | .popc h a | .clz h a | .ctz h a | .brev h a => wf1 h Ty.isI a
  | .bfx h _ v p l => wf3 h Ty.isI v p l
  | .bfi h b i p l => wf4 h Ty.isI b i p l
  | .cmp h _ a b => wf2k h isIP h.ty a b
  | .sel h c a b => wf3 h Ty.isA c a b
  | .const h bits => h.ok Ty.isA true false && decide (bits.toNat < 2 ^ h.ty.bits)
  | .ext h _ a | .trunc h a => wf1 h Ty.isI a
  | .ptoi h a => wf1 h (tyIs .i64) a
  | .itop h a => wf1 h (tyIs .ptr) a
  | .ptrIdx h _ _ p x => wf2 h (tyIs .ptr) p x
  | .addFloat h _ a b | .subFloat h _ a b | .mulFloat h _ a b | .divFloat h _ a b => wf2k h Ty.isF h.ty a b
  | .fma h _ a b c => wf3 h Ty.isF a b c
  | .sqrt h _ a | .rint h _ a => wf1 h Ty.isF a
  | .rcp h a | .rsqrt h a | .exp2 h a | .log2 h a | .sin h a | .cos h a | .tanh h a | .sigm h a => wf1 h Ty.isH a
  | .minFloat h a b | .maxFloat h a b => wf2k h Ty.isF h.ty a b
  | .negFloat h a | .absFloat h a | .class h _ a => wf1 h Ty.isF a
  | .copysign h a b => wf2 h Ty.isF a b
  | .cmpFloat h _ a b => wf2k h Ty.isF h.ty a b
  | .amax h a b c d | .amin h a b c d => wf4 h Ty.isF a b c d
  | .cvt h _ _ _ a | .cvtSlot h _ _ a | .bitcast h a => wf1 h isACvt a
  | .q4Pack h _ x band =>
    h.ok (tyIs .q4) false false && x.isRef && (match band with | none => true | some b => b.isRef)
  | .q4Unpack h _ q k band =>
    h.ok Ty.isH true false && refs [q, k] && (match band with | none => true | some b => b.isRef)
  | .q4Make h w s => wf2 h (tyIs .q4) w s
  | .q4Elem h q => wf1 h (tyIs .i32) q
  | .q4Scale h q => wf1 h (tyIs .i16) q
  | .shfl h _ v n => h.ok Ty.isA false false && v.isRef && n.lastOk .i32
  | .vote h m p => h.ok (tyIs (if m == .ballot then .i32 else .i1)) false false && p.isRef
  | .scan h _ c v | .xred h c v => h.ok isIH false false && v.isRef && (!c.bitwise || h.ty.isI)
  | .xamax h _ x i => h.ok Ty.isH false false && refs [x, i]
  | .first h v => h.ok Ty.isA false false && v.isRef
  | .active h => h.ok (tyIs .i32) false false
  | .emit h mask v sp =>
    h.ok Ty.isA false true && v.isRef && mask != 0
    && (match sp with | none => !mask.getLsbD 2 | some x => mask.getLsbD 2 && x.isRef)
  | .ld h _ a s p => h.ok Ty.isA false false && acqOk a s && p.isRef
  | .st h _ a s p v => h.ok Ty.isA false false && acqOk a s && refs [p, v]
  | .ldk h _ a s p _ => h.ok Ty.isA false false && acqOk a s && p.isRef
  | .stk h _ a s p v _ => h.ok Ty.isA false false && acqOk a s && refs [p, v]
  | .gather h _ _ _ _ b i => h.ok Ty.isA false false && refs [b, i]
  | .scatter h _ _ _ _ b i v => h.ok Ty.isA false false && refs [b, i, v]
  | .prefetch h _ _ p => h.ok vd false false && p.isRef
  | .ptrExport h _ p | .ptrCast h _ _ p => h.ok (tyIs .ptr) false false && p.isRef
  | .atom h _ op o s p x => h.ok (atomTy op) false false && ordOk o s && refs [p, x]
  | .cas h _ o s p e n => h.ok Ty.isI false false && ordOk o s && refs [p, e, n]
  | .red h _ op o s p x => h.ok (atomTy op) false false && op != .xchg && redOrd o && ordOk o s && refs [p, x]
  | .fence h o _ => h.ok vd false false && o != .relaxed
  | .bar h _ l g => h.ok (tyIs .i1) false true && refs [l, g]
  | .barArrive h _ l g => h.ok (tyIs .i32) false false && refs [l, g]
  | .barWait _ p => p.isRef
  | .barWaitTimed h _ p l => h.ok (tyIs .i1) false true && refs [p, l]
  | .xbInit h p n | .xbExpect h p n => h.ok vd false false && refs [p, n]
  | .xbWait p => p.isRef
  | .xbWaitTimed h p l => h.ok (tyIs .i1) false true && refs [p, l]
  | .spoolClaim h s => h.ok (tyIs .ptr) false false && s.isRef
  | .spoolCommit h s p | .spoolRelease h s p => h.ok vd false false && refs [s, p]
  | .spoolWaitfilled h s => h.ok (tyIs .ptr) false true && s.isRef
  | .spoolWaitfree s => s.isRef
  | .hodKick h _ n => h.ok vd false false && n.isRef
  | .hodBind h _ r => h.ok (tyIs .hnd) false false && r.isRef
  | .sread h s => h.ok Ty.isA false true && s.isRef
  | .hodPut h _ r | .hodGet h _ r => h.ok vd false false && r.isRef
  | .reelBoard h k p => h.ok (tyIs .i32) false true && refs [k, p]
  | .reelAlight h k n d c => h.ok vd false false && refs [k, n, d, c]
  | .reelCapture h _ _ _ k n x y => h.ok (tyIs .i64) false true && refs [k, n, x, y]
  | .mxLdst h _ p | .mxStream h _ p | .mxSpgather h _ p | .mxCompress h _ p | .mxDrain h _ p | .mxDrainAdd h _ p =>
    h.ok (tyIs .hnd) false false && p.isRef
  | .mxStreamBound h _ p s => h.ok (tyIs .hnd) false false && refs [p, s]
  | .mxSwap _ => true
  | .mxWait t => t.isRef
  | .ctxSpill p | .ctxFill p | .ctxBank p => p.isRef
  | .ctxDivSave _ p | .ctxDivRestore _ p | .ctxBarSave _ p | .ctxBarRestore _ p => p.isRef
  | .doffIssue h j a => h.ok (tyIs .i32) false true && refs [j, a]
  | .trap _ => true
  | .trapDetail _ d => d.isRef
  | .rdctr h _ => h.ok (tyIs .i64) false false
  | .rdcap h o => h.ok (tyIs .i32) false false && o.isRef
  | .phaseDecl _ => true
  | .nLi s d _ m =>
    nDst (s || m.getLsbD 3) d && decide (m.toNat < 16) &&
    (if m.getLsbD 3 then m.toNat == 8 && decide (1 ≤ d.toNat ∧ d.toNat < 16) else s || decide (m.toNat % 4 < 2))
  | .nMov s d a m => decide (m.toNat < 4) && (if m.toNat / 2 = 1 then decide (1 ≤ d.toNat ∧ d.toNat < 16 ∧ a.toNat < 16) && m.toNat == 2 else nDst s d)
  | .nBcast d a m => decide (m.toNat < 2) && nDst false d && decide (a.toNat < 64)
  | .nBfpk s d _ _ => nDst s d
  | .nSpill _ _ m | .nFill _ _ m => decide (m.toNat < 4)
  | .energyAccumulatorUpdate s _ => decide (s < 6)
  | .peerLinkDown _ => true
  | .inboundPeerTransfer _ _ len w => lenOk len w

end Sys2Proof
end

