-- ==== Sys2Proof/Decode.lean ====
section
/-! DEFINITION. Decoding a Flinal instruction from its words, total, refusing by the code of R87, and the encoder beside it (R38, R39, R70-R86). -/

namespace Sys2Proof

/-- Bits [15:0] and [31:16] of a reference word (R39). -/
def loHalf (w : W32) : BitVec 16 := w.extractLsb' 0 16
def hiHalf (w : W32) : BitVec 16 := w.extractLsb' 16 16
def halves : List W32 → List (BitVec 16)
  | [] => []
  | w :: ws => loHalf w :: hiHalf w :: halves ws
/-- Reference words from half-words, an unused half zero (R39). -/
def packHalves : List (BitVec 16) → List W32
  | [] => []
  | [a] => [(0 : BitVec 16) ++ a]
  | a :: b :: t => (b ++ a) :: packHalves t

/-- The fields of a word 0 (R38). -/
structure Word0 where
  op : Nat
  ty : Nat
  md : Nat
  ac : BitVec 3
  xw : Nat
  ce : Bool
  sx : Nat
  deriving DecidableEq, Repr

def Word0.ofWord (w : W32) : Word0 :=
  { op := (w.extractLsb' 24 8).toNat, ty := (w.extractLsb' 20 4).toNat, md := (w.extractLsb' 16 4).toNat,
    ac := w.extractLsb' 13 3, xw := (w.extractLsb' 11 2).toNat, ce := w.getLsbD 10, sx := (w.extractLsb' 0 10).toNat }

/-- Assembles a word 0 (R38). -/
def mkWord0 (op : BitVec 8) (ty : Ty) (md : BitVec 4) (ac : BitVec 3) (xw : Nat) (ce : Bool) (sx : Nat) : W32 :=
  op ++ ty.code ++ md ++ ac ++ BitVec.ofNat 2 xw ++ BitVec.ofBool ce ++ BitVec.ofNat 10 sx

/-- How a row uses AC (R38, R82, R84). -/
inductive AcUse where
  | zero | used
  deriving DecidableEq, Repr

/-- The contents of a row's extra words (R70). -/
inductive Shape where
  | refs (n : Nat)          -- n operands; K replaces the last by a literal
  | off (n : Nat)           -- n operands, then a literal word (1+K, 2+K of ldk and stk)
  | lit                     -- const
  | list                    -- blk
  | br | cbr | call         -- R77
  deriving DecidableEq, Repr

/-- One row of the map (R76-R85): types, shape, flags, AC. -/
structure Row where
  tys : Ty → Bool
  shape : Shape
  u : Bool := false
  k : Bool := false
  m16 : Bool := false
  e : Bool := false
  s : Bool := false
  ac : AcUse := .zero

/-- Operands of the shapes whose number SX or XW fixes. -/
def trapRefs (xw : Nat) : Nat := if xw = 0 then 0 else 1

/-- The row of an opcode, with the operand count SX and XW select; none for the opcodes of R86. R76 gives call TY as A or void, so the first of its results is no hnd, though R32 lets one be returned (DEDUCED, log 39). -/
def rowOf (op sx xw : Nat) : Option Row :=
  match op with
  | 0x01 => some { tys := vd, shape := .list }
  | 0x02 => some { tys := vd, shape := .br, e := true }
  | 0x03 => some { tys := vd, shape := .cbr, e := true }
  | 0x04 => some { tys := vd, shape := .refs 3, e := true }
  | 0x05 => some { tys := vd, shape := .refs sx, e := true }
  | 0x06 | 0x07 => some { tys := vd, shape := .refs 0, e := true }
  | 0x08 => some { tys := fun t => t != .hnd, shape := .call, m16 := true, e := true }
  | 0x09 => some { tys := vd, shape := .refs sx }
  | 0x10 | 0x11 => some { tys := isIP, shape := .refs 2, u := true, k := true }
  | 0x12 | 0x14 | 0x15 | 0x16 | 0x19 | 0x1A => some { tys := Ty.isI, shape := .refs 2, u := true, k := true }
  | 0x13 | 0x1B | 0x1C => some { tys := Ty.isI, shape := .refs 3, u := true }
  | 0x17 | 0x18 => some { tys := Ty.isI, shape := .refs 1, u := true }
  | 0x20 | 0x21 | 0x22 | 0x23 => some { tys := Ty.isB, shape := .refs 2, u := true, k := true }
  | 0x24 => some { tys := Ty.isB, shape := .refs 1, u := true }
  | 0x25 | 0x26 | 0x27 => some { tys := Ty.isI, shape := .refs 2, u := true, k := true }
  | 0x28 | 0x29 | 0x2A | 0x2B => some { tys := Ty.isI, shape := .refs 1, u := true }
  | 0x2C => some { tys := Ty.isI, shape := .refs 3, u := true }
  | 0x2D => some { tys := Ty.isI, shape := .refs 4, u := true }
  | 0x30 => some { tys := isIP, shape := .refs 2, u := true, k := true }
  | 0x31 => some { tys := Ty.isA, shape := .refs 3, u := true }
  | 0x32 => some { tys := Ty.isA, shape := .lit, u := true }
  | 0x33 | 0x34 => some { tys := Ty.isI, shape := .refs 1, u := true }
  | 0x35 => some { tys := tyIs .i64, shape := .refs 1, u := true }
  | 0x36 => some { tys := tyIs .ptr, shape := .refs 1, u := true }
  | 0x37 => some { tys := tyIs .ptr, shape := .refs 2, u := true }
  | 0x40 | 0x41 | 0x42 | 0x44 | 0x48 | 0x49 | 0x4D => some { tys := Ty.isF, shape := .refs 2, u := true, k := true }
  | 0x43 => some { tys := Ty.isF, shape := .refs 3, u := true }
  | 0x45 | 0x4A | 0x4B | 0x4E | 0x4F => some { tys := Ty.isF, shape := .refs 1, u := true }
  | 0x4C => some { tys := Ty.isF, shape := .refs 2, u := true }
  | 0x46 | 0x47 | 0x50 | 0x51 | 0x52 | 0x53 | 0x54 | 0x55 => some { tys := Ty.isH, shape := .refs 1, u := true }
  | 0x56 | 0x57 => some { tys := Ty.isF, shape := .refs 4, u := true }
  | 0x60 | 0x67 => some { tys := isACvt, shape := .refs 1, u := true }
  | 0x61 => some { tys := isACvt, shape := .refs 1, u := true, ac := .used }
  | 0x62 => some { tys := tyIs .q4, shape := .refs (1 + sx), ac := .used }
  | 0x63 => some { tys := Ty.isH, shape := .refs (2 + sx), u := true, ac := .used }
  | 0x64 => some { tys := tyIs .q4, shape := .refs 2, u := true }
  | 0x65 => some { tys := tyIs .i32, shape := .refs 1, u := true }
  | 0x66 => some { tys := tyIs .i16, shape := .refs 1, u := true }
  | 0x70 => some { tys := Ty.isA, shape := .refs 2, k := true }
  | 0x71 => some { tys := fun t => t == .i1 || t == .i32, shape := .refs 1 }
  | 0x72 | 0x73 => some { tys := isIH, shape := .refs 1 }
  | 0x74 => some { tys := Ty.isH, shape := .refs 2 }
  | 0x75 => some { tys := Ty.isA, shape := .refs 1 }
  | 0x76 => some { tys := tyIs .i32, shape := .refs 0 }
  | 0x77 => some { tys := Ty.isA, shape := .refs (1 + sx / 4 % 2), e := true }
  | 0x80 => some { tys := Ty.isA, shape := .refs 1, ac := .used }
  | 0x81 => some { tys := Ty.isA, shape := .refs 2, ac := .used }
  | 0x82 => some { tys := Ty.isA, shape := .off 1, ac := .used }
  | 0x83 => some { tys := Ty.isA, shape := .off 2, ac := .used }
  | 0x84 => some { tys := Ty.isA, shape := .refs 2, ac := .used }
  | 0x85 => some { tys := Ty.isA, shape := .refs 3, ac := .used }
  | 0x86 => some { tys := vd, shape := .refs 1, ac := .used }
  | 0x87 | 0x88 => some { tys := tyIs .ptr, shape := .refs 1, ac := .used }
  | 0x90 | 0x92 => some { tys := isIH, shape := .refs 2, ac := .used }
  | 0x91 => some { tys := Ty.isI, shape := .refs 3, ac := .used }
  | 0x98 => some { tys := vd, shape := .refs 0 }
  | 0xA0 => some { tys := tyIs .i1, shape := .refs 2, e := true }
  | 0xA1 => some { tys := tyIs .i32, shape := .refs 2 }
  | 0xA2 | 0xA6 => some { tys := fun t => t == .void || t == .i1, shape := .refs (1 + sx / 512), e := true }
  | 0xA4 | 0xA5 => some { tys := vd, shape := .refs 2 }
  | 0xA8 => some { tys := tyIs .ptr, shape := .refs 1 }
  | 0xA9 | 0xAB => some { tys := vd, shape := .refs 2 }
  | 0xAA => some { tys := tyIs .ptr, shape := .refs 1, e := true }
  | 0xAC => some { tys := vd, shape := .refs 1, e := true }
  | 0xB0 | 0xB3 | 0xB4 => some { tys := vd, shape := .refs 1 }
  | 0xB1 => some { tys := tyIs .hnd, shape := .refs 1 }
  | 0xB2 => some { tys := Ty.isA, shape := .refs 1, e := true }
  | 0xB8 => some { tys := tyIs .i32, shape := .refs 2, e := true }
  | 0xB9 => some { tys := vd, shape := .refs 4 }
  | 0xBA => some { tys := tyIs .i64, shape := .refs 4, e := true }
  | 0xBB => some { tys := vd, shape := .refs 0, e := true }
  | 0xC0 | 0xC3 | 0xC4 | 0xC5 => some { tys := tyIs .hnd, shape := .refs 1, ac := .used }
  | 0xC1 => some { tys := vd, shape := .refs 0 }
  | 0xC2 => some { tys := tyIs .hnd, shape := .refs (1 + sx), ac := .used }
  | 0xC6 => some { tys := vd, shape := .refs 1, e := true }
  | 0xE0 | 0xE6 => some { tys := vd, shape := .refs 0, e := true, s := true }
  | 0xE1 | 0xE2 | 0xE3 => some { tys := vd, shape := .refs 1, e := true, s := true }
  | 0xE4 | 0xE5 => some { tys := vd, shape := .refs 1, s := true }
  | 0xE7 => some { tys := tyIs .i32, shape := .refs 2, e := true, s := true }
  | 0xE8 => some { tys := vd, shape := .refs (trapRefs xw), e := true }
  | 0xE9 => some { tys := tyIs .i64, shape := .refs 0 }
  | 0xEA => some { tys := tyIs .i32, shape := .refs 1 }
  | 0xEB => some { tys := vd, shape := .refs 0, e := true }
  | _ => none

/-- The type of the literal of a K row (R71, R78, R81). -/
def litTy (op : Nat) (ty : Ty) : Ty :=
  if op = 0x70 then .i32
  else if (op = 0x10 || op = 0x11) && ty == .ptr then .i64
  else ty

/-- Half-words of a variable shape in use, of the fixed ones with the own arguments (R77). -/
def ownHalves (s : Shape) (sx : Nat) : Nat :=
  match s with
  | .br => 1 + Nat.min sx 5
  | .cbr => 3 + Nat.min (sx % 32 + sx / 32 % 32) 3
  | .call => 2 + Nat.min sx 4
  | .refs n => n
  | .off n => n
  | .lit => 0
  | .list => 0

/-- The XW a shape requires (R70, R77), with the literal form's word. -/
def xwOf (s : Shape) (sx : Nat) (ty : Ty) (lit : Bool) : Nat :=
  match s with
  | .refs n => if lit then n / 2 + 1 else (n + 1) / 2
  | .off n => (n + 1) / 2 + 1
  | .lit => if ty.isWide then 2 else 1
  | .list => (sx + 7) / 8
  | s => (ownHalves s sx + 1) / 2

/-- The types of a blk's list words: n nibbles, the rest zero (R29). -/
def nibbles (w : W32) : List Nat :=
  [w.toNat % 16, w.toNat / 16 % 16, w.toNat / 256 % 16, w.toNat / 4096 % 16,
   w.toNat / 65536 % 16, w.toNat / 1048576 % 16, w.toNat / 16777216 % 16, w.toNat / 268435456 % 16]

def argTys : List Nat → Option (List Ty)
  | [] => some []
  | c :: cs =>
    match Ty.ofCode c, argTys cs with
    | some t, some ts => if t == .void then none else some (t :: ts)
    | _, _ => none

/-- blk (R29). -/
def decodeBlk (n : Nat) (ws : List W32) : Option Instr :=
  let ns := ws.flatMap nibbles
  if 24 < n then none
  else if (ns.drop n).all (fun x => x == 0) then (argTys (ns.take n)).map .blk
  else none

def ref (h : BitVec 16) : Opnd := .ref h

/-- [0] acquire or release, [3:1] scope (R82). -/
def accSx (sx : Nat) : Option (Bool × Scope) :=
  if 16 ≤ sx then none
  else match Scope.ofCode (sx / 2) with
    | none => none
    | some s => if acqOk (sx % 2 == 1) s then some (sx % 2 == 1, s) else none

/-- [5:4] order, [8:6] scope (R82). -/
def ordSx (sx : Nat) : Option (Order × Scope) :=
  match Order.ofCode (sx / 16 % 4), Scope.ofCode (sx / 64) with
  | some o, some s => if ordOk o s then some (o, s) else none
  | _, _ => none

/-- The instruction a row's SX and operands select; none where SX is outside the row's codes (R87). -/
def build (op sx : Nat) (h : Hd) (ac : BitVec 3) (ops : List Opnd) (hs : List (BitVec 16)) (m16 : Bool) (lits : List W32) : Option Instr :=
  let z (i : Instr) : Option Instr := if sx = 0 then some i else none
  let b (f : Bool → Instr) : Option Instr := if sx < 2 then some (f (sx == 1)) else none
  match op, ops with
  | 0x02, _ =>
    match hs with
    | t :: args => if sx ≤ 24 then some (.br t (BitVec.ofNat 5 sx) (args.map ref)) else none
    | _ => none
  | 0x03, _ =>
    match hs with
    | c :: t :: f :: args =>
      if sx % 32 + sx / 32 ≤ 24 then
        some (.cbr (.ref c) t f (BitVec.ofNat 5 sx) (BitVec.ofNat 5 (sx / 32)) (args.map ref))
      else none
    | _ => none
  | 0x04, _ =>
    match hs with
    | [s, d, b] => if 1 ≤ sx then some (.switch (.ref s) d b (BitVec.ofNat 10 sx)) else none
    | _ => none
  | 0x05, [] => z .ret
  | 0x05, [v] => some (.retValues v none)
  | 0x05, [v, w] => some (.retValues v (some w))
  | 0x06, _ => z .exit
  | 0x07, _ => z .unreachable
  | 0x08, _ =>
    match hs with
    | c :: e :: args => if sx ≤ 24 ∧ e = 0 then some (.call h m16 c (BitVec.ofNat 5 sx) (args.map ref)) else none
    | _ => none
  | 0x09, vs => if 1 ≤ sx ∧ sx ≤ 6 then some (.args vs) else none
  | 0x10, [a, c] => (SatMode.ofCode sx).bind fun m => if h.ty == .ptr && m != .wrap then none else some (.add h m a c)
  | 0x11, [a, c] => (SatMode.ofCode sx).bind fun m => if h.ty == .ptr && m != .wrap then none else some (.sub h m a c)
  | 0x12, [a, c] => (MulMode.ofCode sx).map fun m => .mul h m a c
  | 0x13, [a, c, d] => z (.mad h a c d)
  | 0x14, [a, c] => b fun m => .div h m a c
  | 0x15, [a, c] => b fun m => .divrem h m a c
  | 0x16, [a, c] => b fun m => .rem h m a c
  | 0x17, [a] => b fun m => .neg h m a
  | 0x18, [a] => b fun m => .abs h m a
  | 0x19, [a, c] => b fun m => .min h m a c
  | 0x1A, [a, c] => b fun m => .max h m a c
  | 0x1B, [a, c, d] => z (.addc h a c d)
  | 0x1C, [a, c, d] => z (.subb h a c d)
  | 0x20, [a, c] => z (.and h a c)
  | 0x21, [a, c] => z (.or h a c)
  | 0x22, [a, c] => z (.xor h a c)
  | 0x23, [a, c] => z (.andn h a c)
  | 0x24, [a] => z (.not h a)
  | 0x25, [a, c] => z (.shl h a c)
  | 0x26, [a, c] => b fun m => .shr h m a c
  | 0x27, [a, c] => b fun m => .rot h m a c
  | 0x28, [a] => z (.popc h a)
  | 0x29, [a] => z (.clz h a)
  | 0x2A, [a] => z (.ctz h a)
  | 0x2B, [a] => z (.brev h a)
  | 0x2C, [v, p, l] => b fun m => .bfx h m v p l
  | 0x2D, [v, i, p, l] => z (.bfi h v i p l)
  | 0x30, [a, c] => (ICmp.ofCode sx).map fun m => .cmp h m a c
  | 0x31, [c, a, d] => z (.sel h c a d)
  | 0x32, _ =>
    match lits with
    | [l] => if l.toNat < 2 ^ h.ty.bits then z (.const h (l.setWidth 64)) else none
    | [l, u] => if (u ++ l : W64).toNat < 2 ^ h.ty.bits then z (.const h (u ++ l)) else none
    | _ => none
  | 0x33, [a] => b fun m => .ext h m a
  | 0x34, [a] => z (.trunc h a)
  | 0x35, [a] => z (.ptoi h a)
  | 0x36, [a] => z (.itop h a)
  | 0x37, [p, x] => if sx < 8 then some (.ptrIdx h (4 ≤ sx) (BitVec.ofNat 2 sx) p x) else none
  | 0x40, [a, c] => (Round.ofCode sx).map fun r => .addFloat h r a c
  | 0x41, [a, c] => (Round.ofCode sx).map fun r => .subFloat h r a c
  | 0x42, [a, c] => (Round.ofCode sx).map fun r => .mulFloat h r a c
  | 0x43, [a, c, d] => (Round.ofCode sx).map fun r => .fma h r a c d
  | 0x44, [a, c] => (Round.ofCode sx).map fun r => .divFloat h r a c
  | 0x45, [a] => (Round.ofCode sx).map fun r => .sqrt h r a
  | 0x46, [a] => z (.rcp h a)
  | 0x47, [a] => z (.rsqrt h a)
  | 0x48, [a, c] => z (.minFloat h a c)
  | 0x49, [a, c] => z (.maxFloat h a c)
  | 0x4A, [a] => z (.negFloat h a)
  | 0x4B, [a] => z (.absFloat h a)
  | 0x4C, [a, c] => z (.copysign h a c)
  | 0x4D, [a, c] => (FCmp.ofCode sx).map fun m => .cmpFloat h m a c
  | 0x4E, [a] => some (.class h (BitVec.ofNat 10 sx) a)
  | 0x4F, [a] => (Round.ofCode sx).map fun r => .rint h r a
  | 0x50, [a] => z (.exp2 h a)
  | 0x51, [a] => z (.log2 h a)
  | 0x52, [a] => z (.sin h a)
  | 0x53, [a] => z (.cos h a)
  | 0x54, [a] => z (.tanh h a)
  | 0x55, [a] => z (.sigm h a)
  | 0x56, [a, ia, c, ic] => z (.amax h a ia c ic)
  | 0x57, [a, ia, c, ic] => z (.amin h a ia c ic)
  | 0x60, [a] =>
    if sx < 16 then (Round.ofCode (sx % 4)).map fun r => .cvt h r (sx / 4 % 2 == 1) (8 ≤ sx) a else none
  | 0x61, [a] => b fun m => .cvtSlot h ac m a
  | 0x62, [x] => some (.q4Pack h ac x none)
  | 0x62, [x, k] => some (.q4Pack h ac x (some k))
  | 0x63, [q, k] => some (.q4Unpack h ac q k none)
  | 0x63, [q, k, d] => some (.q4Unpack h ac q k (some d))
  | 0x64, [w, s] => z (.q4Make h w s)
  | 0x65, [q] => z (.q4Elem h q)
  | 0x66, [q] => z (.q4Scale h q)
  | 0x67, [a] => z (.bitcast h a)
  | 0x70, [v, n] => (ShflMode.ofCode sx).map fun m => .shfl h m v n
  | 0x71, [p] =>
    (VoteMode.ofCode sx).bind fun m => if h.ty == (if m == .ballot then .i32 else .i1) then some (.vote h m p) else none
  | 0x72, [v] =>
    if sx < 16 then (Combine.ofCode (sx / 2)).bind fun c => if !c.bitwise || h.ty.isI then some (.scan h (sx % 2 == 1) c v) else none
    else none
  | 0x73, [v] => (Combine.ofCode sx).bind fun c => if !c.bitwise || h.ty.isI then some (.xred h c v) else none
  | 0x74, [x, i] => b fun m => .xamax h m x i
  | 0x75, [v] => z (.first h v)
  | 0x76, [] => z (.active h)
  | 0x77, [v] => if sx < 32 ∧ sx ≠ 0 then some (.emit h (BitVec.ofNat 5 sx) v none) else none
  | 0x77, [v, s] => if sx < 32 then some (.emit h (BitVec.ofNat 5 sx) v (some s)) else none
  | 0x80, [p] => (accSx sx).map fun as => .ld h ac as.1 as.2 p
  | 0x81, [p, v] => (accSx sx).map fun as => .st h ac as.1 as.2 p v
  | 0x82, [p] =>
    match lits with
    | [l] => (accSx sx).map fun as => .ldk h ac as.1 as.2 p l
    | _ => none
  | 0x83, [p, v] =>
    match lits with
    | [l] => (accSx sx).map fun as => .stk h ac as.1 as.2 p v l
    | _ => none
  | 0x84, [p, i] =>
    if sx < 64 then (GScale.ofCode (sx / 8)).map fun s => .gather h ac (BitVec.ofNat 2 sx) (sx / 4 % 2 == 1) s p i else none
  | 0x85, [p, i, v] =>
    if sx < 64 then (GScale.ofCode (sx / 8)).map fun s => .scatter h ac (BitVec.ofNat 2 sx) (sx / 4 % 2 == 1) s p i v else none
  | 0x86, [p] => (PfForm.ofCode sx).map fun f => .prefetch h ac f p
  | 0x87, [p] => z (.ptrExport h ac p)
  | 0x88, [p] => (Win.ofCode sx).map fun w => .ptrCast h ac w p
  | 0x90, [p, x] =>
    if sx < 512 then (AtomOp.ofCode (sx % 16)).bind fun o => (ordSx sx).map fun q => .atom h ac o q.1 q.2 p x else none
  | 0x91, [p, e, n] =>
    if sx < 512 ∧ sx % 16 = 0 then (ordSx sx).map fun q => .cas h ac q.1 q.2 p e n else none
  | 0x92, [p, x] =>
    if sx < 512 then
      (AtomOp.ofCode (sx % 16)).bind fun o => if o == .xchg then none else (ordSx sx).bind fun q => if redOrd q.1 then some (.red h ac o q.1 q.2 p x) else none
    else none
  | 0x98, [] =>
    if sx < 32 then
      match Order.ofCode (sx % 4), Scope.ofCode (sx / 4) with
      | some o, some s => if o == .relaxed then none else some (.fence h o s)
      | _, _ => none
    else none
  | 0xA0, [l, g] => if sx < 16 then some (.bar h (BitVec.ofNat 4 sx) l g) else none
  | 0xA1, [l, g] => if sx < 16 then some (.barArrive h (BitVec.ofNat 4 sx) l g) else none
  | 0xA2, [p] => if sx < 16 ∧ h.ty = .void then some (.barWait (BitVec.ofNat 4 sx) p) else none
  | 0xA2, [p, l] => if 512 ≤ sx ∧ sx < 528 ∧ h.ty = .i1 then some (.barWaitTimed h (BitVec.ofNat 4 sx) p l) else none
  | 0xA4, [p, n] => z (.xbInit h p n)
  | 0xA5, [p, n] => z (.xbExpect h p n)
  | 0xA6, [p] => if sx = 0 ∧ h.ty = .void then some (.xbWait p) else none
  | 0xA6, [p, l] => if sx = 512 ∧ h.ty = .i1 then some (.xbWaitTimed h p l) else none
  | 0xA8, [s] => z (.spoolClaim h s)
  | 0xA9, [s, p] => z (.spoolCommit h s p)
  | 0xAA, [s] => z (.spoolWaitfilled h s)
  | 0xAB, [s, p] => z (.spoolRelease h s p)
  | 0xAC, [s] => z (.spoolWaitfree s)
  | 0xB0, [n] => if sx < 2 then some (.hodKick h (BitVec.ofNat 1 sx) n) else none
  | 0xB1, [r] => if sx < 2 then some (.hodBind h (BitVec.ofNat 1 sx) r) else none
  | 0xB2, [s] => z (.sread h s)
  | 0xB3, [r] => if sx < 2 then some (.hodPut h (BitVec.ofNat 1 sx) r) else none
  | 0xB4, [r] => if sx < 2 then some (.hodGet h (BitVec.ofNat 1 sx) r) else none
  | 0xB8, [k, p] => z (.reelBoard h k p)
  | 0xB9, [k, n, d, c] => z (.reelAlight h k n d c)
  | 0xBA, [k, n, x, y] =>
    if sx < 512 then
      match ReelOp.ofCode (sx % 16), Order.ofCode (sx / 128) with
      | some o, some q => some (.reelCapture h o (BitVec.ofNat 3 (sx / 16)) q k n x y)
      | _, _ => none
    else none
  | 0xBB, [] => z .reelFence
  | 0xC0, [p] => z (.mxLdst h ac p)
  | 0xC1, [] => z (.mxSwap h.ce)
  | 0xC2, [p] => some (.mxStream h ac p)
  | 0xC2, [p, s] => some (.mxStreamBound h ac p s)
  | 0xC3, [p] => z (.mxSpgather h ac p)
  | 0xC4, [p] => z (.mxCompress h ac p)
  | 0xC5, [p] => if sx < 2 then some (if sx = 0 then .mxDrain h ac p else .mxDrainAdd h ac p) else none
  | 0xC6, [t] => z (.mxWait t)
  | 0xE0, [] => z .ctxDrain
  | 0xE1, [p] => z (.ctxSpill p)
  | 0xE2, [p] => z (.ctxFill p)
  | 0xE3, [p] => z (.ctxBank p)
  | 0xE4, [p] => if sx < 2 then some (if sx = 0 then .ctxDivSave h.ce p else .ctxDivRestore h.ce p) else none
  | 0xE5, [p] => if sx < 2 then some (if sx = 0 then .ctxBarSave h.ce p else .ctxBarRestore h.ce p) else none
  | 0xE6, [] => z .tret
  | 0xE7, [j, a] => z (.doffIssue h j a)
  | 0xE8, [] => some (.trap (BitVec.ofNat 10 sx))
  | 0xE8, [d] => some (.trapDetail (BitVec.ofNat 10 sx) d)
  | 0xE9, [] => some (.rdctr h (BitVec.ofNat 10 sx))
  | 0xEA, [o] => z (.rdcap h o)
  | 0xEB, [] => if sx < 16 then some (.phaseDecl (BitVec.ofNat 4 sx)) else none
  | _, _ => none

/-- SX values that fix an operand count, in range before the shape is taken (R87). -/
def sxOk (op sx : Nat) : Bool :=
  match op with
  | 0x05 => decide (sx ≤ 2)
  | 0x09 => decide (1 ≤ sx ∧ sx ≤ 6)
  | 0x62 | 0x63 | 0xC2 => decide (sx ≤ 1)
  | _ => true

/-- What a decoded word gives: the instruction, its length in words, its row's flags, and whether TY is in the row's set. -/
structure Decoded where
  instr : Instr
  len : Nat
  ce : Bool
  row : Row
  tyOk : Bool

/-- Decodes the instruction at the head of a word list: the checks of R87 that a word alone decides with XL_OPCODE. A TY outside the row's set is noted only, since a check of the whole function may still report XL_OPCODE (R88). -/
def decodeLoose (ws : List W32) : Except XlCode Decoded :=
  match ws with
  | [] => .error .opcode
  | w :: rest =>
    let f := Word0.ofWord w
    match Ty.ofCode f.ty, rowOf f.op f.sx f.xw with
    | some ty, some row =>
      let lit := row.k && f.md % 2 == 1
      let mdMax := (if row.u then 8 else 0) + (if row.k || row.m16 then 1 else 0)
      let nx := xwOf row.shape f.sx ty lit
      let ext := rest.take nx
      if !sxOk f.op f.sx || f.xw != nx || ext.length != nx then .error .opcode
      else if (f.md ||| mdMax) != mdMax then .error .opcode
      else if row.ac == .zero && f.ac != 0 then .error .opcode
      else
        let nlit := match row.shape with
          | .lit => nx
          | .off _ => 1
          | .refs _ => if lit then 1 else 0
          | _ => 0
        let refW := ext.take (nx - nlit)
        let lits := ext.drop (nx - nlit)
        let n := ownHalves row.shape f.sx - (match row.shape with | .refs _ => nlit | _ => 0)
        let hs := halves refW
        let used := hs.take n
        let litOk := !lit || lits.all (fun l => decide (l.toNat < 2 ^ (litTy f.op ty).bits))
        let h : Hd := { dst := .flinal, dst2 := .flinal, ty := ty, u := decide (8 ≤ f.md), ce := f.ce }
        let ops := used.map ref ++ (if lit then lits.map Opnd.lit else [])
        let i :=
          if row.shape == .list then (if f.op = 1 then decodeBlk f.sx ext else none)
          else if !(hs.drop n).all (fun x => x == 0) || !litOk then none
          else build f.op f.sx h f.ac ops used (row.m16 && f.md % 2 == 1) lits
        match i with
        | none => .error .opcode
        | some i =>
          let tyOk := row.tys ty && (match i with
            | .atom _ _ o _ _ _ _ => atomTy o ty
            | .red _ _ o _ _ _ _ => atomTy o ty
            | _ => true)
          .ok ⟨i, nx + 1, f.ce, row, tyOk⟩
    | _, _ => .error .opcode

/-- Decodes the instruction at the head of a word list: the checks of R87 that a word alone decides, but for CE, in the order of R88. -/
def decodeCore (ws : List W32) : Except XlCode Decoded :=
  match decodeLoose ws with
  | .ok d => if d.tyOk then .ok d else .error .type
  | .error e => .error e

/-- Whether CE is as R73 requires: set where E, clear on blk and args. -/
def ceOk (d : Decoded) : Bool :=
  (!d.row.e || d.ce) && !(d.ce && (match d.instr with | .blk _ => true | .args _ => true | _ => false))

/-- Decodes one instruction, refusing by name (R87, R88). -/
def decode (ws : List W32) : Except XlCode (Instr × Nat) :=
  match decodeCore ws with
  | .error e => .error e
  | .ok d => if ceOk d then .ok (d.instr, d.len) else .error .course

/-- What an encoding is made of: word 0's fields but XW, half-words, literal words. -/
structure Parts where
  op : BitVec 8
  ty : Ty
  md : BitVec 4
  ac : BitVec 3
  ce : Bool
  sx : Nat
  halves : List (BitVec 16)
  lits : List W32

/-- The half-words of reference operands. -/
def refHalves : List Opnd → List (BitVec 16)
  | [] => []
  | .ref n :: t => n :: refHalves t
  | _ :: t => refHalves t
/-- The literal words of literal operands. -/
def opLits : List Opnd → List W32
  | [] => []
  | .lit w :: t => w :: opLits t
  | _ :: t => opLits t

/-- MD of a row with U and K (R71). -/
def mdOf (u : Bool) (k : Bool) : BitVec 4 := BitVec.ofBool u ++ (0 : BitVec 2) ++ BitVec.ofBool k

/-- Parts of a row with a head. -/
def hp (op : BitVec 8) (h : Hd) (ac : BitVec 3) (sx : Nat) (ops : List Opnd) : Parts :=
  ⟨op, h.ty, mdOf h.u (!(opLits ops).isEmpty), ac, h.ce, sx, refHalves ops, opLits ops⟩
/-- Parts of a row without one: TY void and CE set where the row is flagged E. -/
def vp (op : BitVec 8) (ce : Bool) (sx : Nat) (hs : List (BitVec 16)) : Parts := ⟨op, .void, 0, 0, ce, sx, hs, []⟩

/-- The nibbles of a list word (R29). -/
def packTys : List Ty → Nat
  | [] => 0
  | t :: ts => t.code.toNat + 16 * packTys ts
/-- The list words of a blk (R29). -/
def listWords : Nat → List Ty → List W32
  | 0, _ => []
  | n + 1, ts => BitVec.ofNat 32 (packTys (ts.take 8)) :: listWords n (ts.drop 8)

def b2n (b : Bool) : Nat := if b then 1 else 0
/-- SX of ld and st (R82). -/
def accCode (a : Bool) (s : Scope) : Nat := b2n a + 2 * s.code
/-- SX of atom, cas and red (R82). -/
def ordCode (op : Nat) (o : Order) (s : Scope) : Nat := op + 16 * o.code + 64 * s.code

/-- The parts of an instruction's words, from the tables of R76-R85; none for events and native-only ops. -/
def parts : Instr → Option Parts
  | .blk tys => some ⟨0x01, .void, 0, 0, false, tys.length, [], listWords ((tys.length + 7) / 8) tys⟩
  | .br t n args => some (vp 0x02 true n.toNat (t :: refHalves args))
  | .cbr c bt bf t f args => some (vp 0x03 true (t.toNat + 32 * f.toNat) (refHalves [c] ++ bt :: bf :: refHalves args))
  | .switch sel d b n => some (vp 0x04 true n.toNat (refHalves [sel] ++ [d, b]))
  | .ret => some (vp 0x05 true 0 [])
  | .retValues v none => some (vp 0x05 true 1 (refHalves [v]))
  | .retValues v (some w) => some (vp 0x05 true 2 (refHalves [v, w]))
  | .exit => some (vp 0x06 true 0 [])
  | .unreachable => some (vp 0x07 true 0 [])
  | .call h two c n args => some ⟨0x08, h.ty, mdOf false two, 0, h.ce, n.toNat, c :: 0 :: refHalves args, []⟩
  | .args vs => some (vp 0x09 false vs.length (refHalves vs))
  | .add h m a b => some (hp 0x10 h 0 m.code [a, b])
  | .sub h m a b => some (hp 0x11 h 0 m.code [a, b])
  | .mul h m a b => some (hp 0x12 h 0 m.code [a, b])
  | .mad h a b c => some (hp 0x13 h 0 0 [a, b, c])
  | .div h u a b => some (hp 0x14 h 0 (b2n u) [a, b])
  | .divrem h u a b => some (hp 0x15 h 0 (b2n u) [a, b])
  | .rem h u a b => some (hp 0x16 h 0 (b2n u) [a, b])
  | .neg h s a => some (hp 0x17 h 0 (b2n s) [a])
  | .abs h s a => some (hp 0x18 h 0 (b2n s) [a])
  | .min h u a b => some (hp 0x19 h 0 (b2n u) [a, b])
  | .max h u a b => some (hp 0x1A h 0 (b2n u) [a, b])
  | .addc h a b c => some (hp 0x1B h 0 0 [a, b, c])
  | .subb h a b c => some (hp 0x1C h 0 0 [a, b, c])
  | .and h a b => some (hp 0x20 h 0 0 [a, b])
  | .or h a b => some (hp 0x21 h 0 0 [a, b])
  | .xor h a b => some (hp 0x22 h 0 0 [a, b])
  | .andn h a b => some (hp 0x23 h 0 0 [a, b])
  | .not h a => some (hp 0x24 h 0 0 [a])
  | .shl h a b => some (hp 0x25 h 0 0 [a, b])
  | .shr h s a b => some (hp 0x26 h 0 (b2n s) [a, b])
  | .rot h r a b => some (hp 0x27 h 0 (b2n r) [a, b])
  | .popc h a => some (hp 0x28 h 0 0 [a])
  | .clz h a => some (hp 0x29 h 0 0 [a])
  | .ctz h a => some (hp 0x2A h 0 0 [a])
  | .brev h a => some (hp 0x2B h 0 0 [a])
  | .bfx h s v p l => some (hp 0x2C h 0 (b2n s) [v, p, l])
  | .bfi h b i p l => some (hp 0x2D h 0 0 [b, i, p, l])
  | .cmp h c a b => some (hp 0x30 h 0 c.code [a, b])
  | .sel h c a b => some (hp 0x31 h 0 0 [c, a, b])
  | .const h bits =>
    some ⟨0x32, h.ty, mdOf h.u false, 0, h.ce, 0, [],
      if h.ty.isWide then [bits.extractLsb' 0 32, bits.extractLsb' 32 32] else [bits.extractLsb' 0 32]⟩
  | .ext h s a => some (hp 0x33 h 0 (b2n s) [a])
  | .trunc h a => some (hp 0x34 h 0 0 [a])
  | .ptoi h a => some (hp 0x35 h 0 0 [a])
  | .itop h a => some (hp 0x36 h 0 0 [a])
  | .ptrIdx h s k p x => some (hp 0x37 h 0 (k.toNat + 4 * b2n s) [p, x])
  | .addFloat h r a b => some (hp 0x40 h 0 r.code [a, b])
  | .subFloat h r a b => some (hp 0x41 h 0 r.code [a, b])
  | .mulFloat h r a b => some (hp 0x42 h 0 r.code [a, b])
  | .fma h r a b c => some (hp 0x43 h 0 r.code [a, b, c])
  | .divFloat h r a b => some (hp 0x44 h 0 r.code [a, b])
  | .sqrt h r a => some (hp 0x45 h 0 r.code [a])
  | .rcp h a => some (hp 0x46 h 0 0 [a])
  | .rsqrt h a => some (hp 0x47 h 0 0 [a])
  | .minFloat h a b => some (hp 0x48 h 0 0 [a, b])
  | .maxFloat h a b => some (hp 0x49 h 0 0 [a, b])
  | .negFloat h a => some (hp 0x4A h 0 0 [a])
  | .absFloat h a => some (hp 0x4B h 0 0 [a])
  | .copysign h a b => some (hp 0x4C h 0 0 [a, b])
  | .cmpFloat h c a b => some (hp 0x4D h 0 c.code [a, b])
  | .class h m a => some (hp 0x4E h 0 m.toNat [a])
  | .rint h r a => some (hp 0x4F h 0 r.code [a])
  | .exp2 h a => some (hp 0x50 h 0 0 [a])
  | .log2 h a => some (hp 0x51 h 0 0 [a])
  | .sin h a => some (hp 0x52 h 0 0 [a])
  | .cos h a => some (hp 0x53 h 0 0 [a])
  | .tanh h a => some (hp 0x54 h 0 0 [a])
  | .sigm h a => some (hp 0x55 h 0 0 [a])
  | .amax h a ia b ib => some (hp 0x56 h 0 0 [a, ia, b, ib])
  | .amin h a ia b ib => some (hp 0x57 h 0 0 [a, ia, b, ib])
  | .cvt h r sat sgn a => some (hp 0x60 h 0 (r.code + 4 * b2n sat + 8 * b2n sgn) [a])
  | .cvtSlot h sl sgn a => some (hp 0x61 h sl (b2n sgn) [a])
  | .q4Pack h sl x none => some (hp 0x62 h sl 0 [x])
  | .q4Pack h sl x (some k) => some (hp 0x62 h sl 1 [x, k])
  | .q4Unpack h sl q k none => some (hp 0x63 h sl 0 [q, k])
  | .q4Unpack h sl q k (some d) => some (hp 0x63 h sl 1 [q, k, d])
  | .q4Make h w s => some (hp 0x64 h 0 0 [w, s])
  | .q4Elem h q => some (hp 0x65 h 0 0 [q])
  | .q4Scale h q => some (hp 0x66 h 0 0 [q])
  | .bitcast h a => some (hp 0x67 h 0 0 [a])
  | .shfl h m v n => some (hp 0x70 h 0 m.code [v, n])
  | .vote h m p => some (hp 0x71 h 0 m.code [p])
  | .scan h e c v => some (hp 0x72 h 0 (b2n e + 2 * c.code) [v])
  | .xred h c v => some (hp 0x73 h 0 c.code [v])
  | .xamax h m x i => some (hp 0x74 h 0 (b2n m) [x, i])
  | .first h v => some (hp 0x75 h 0 0 [v])
  | .active h => some (hp 0x76 h 0 0 [])
  | .emit h m v none => some (hp 0x77 h 0 m.toNat [v])
  | .emit h m v (some s) => some (hp 0x77 h 0 m.toNat [v, s])
  | .ld h ac a s p => some (hp 0x80 h ac (accCode a s) [p])
  | .st h ac a s p v => some (hp 0x81 h ac (accCode a s) [p, v])
  | .ldk h ac a s p o => some ⟨0x82, h.ty, 0, ac, h.ce, accCode a s, refHalves [p], [o]⟩
  | .stk h ac a s p v o => some ⟨0x83, h.ty, 0, ac, h.ce, accCode a s, refHalves [p, v], [o]⟩
  | .gather h ac w g sc b i => some (hp 0x84 h ac (w.toNat + 4 * b2n g + 8 * sc.code) [b, i])
  | .scatter h ac w g sc b i v => some (hp 0x85 h ac (w.toNat + 4 * b2n g + 8 * sc.code) [b, i, v])
  | .prefetch h ac f p => some (hp 0x86 h ac f.code [p])
  | .ptrExport h ac p => some (hp 0x87 h ac 0 [p])
  | .ptrCast h ac w p => some (hp 0x88 h ac w.code [p])
  | .atom h ac op o s p x => some (hp 0x90 h ac (ordCode op.code o s) [p, x])
  | .cas h ac o s p e n => some (hp 0x91 h ac (ordCode 0 o s) [p, e, n])
  | .red h ac op o s p x => some (hp 0x92 h ac (ordCode op.code o s) [p, x])
  | .fence h o s => some (hp 0x98 h 0 (o.code + 4 * s.code) [])
  | .bar h b l g => some (hp 0xA0 h 0 b.toNat [l, g])
  | .barArrive h b l g => some (hp 0xA1 h 0 b.toNat [l, g])
  | .barWait b p => some (vp 0xA2 true b.toNat (refHalves [p]))
  | .barWaitTimed h b p l => some (hp 0xA2 h 0 (512 + b.toNat) [p, l])
  | .xbInit h p n => some (hp 0xA4 h 0 0 [p, n])
  | .xbExpect h p n => some (hp 0xA5 h 0 0 [p, n])
  | .xbWait p => some (vp 0xA6 true 0 (refHalves [p]))
  | .xbWaitTimed h p l => some (hp 0xA6 h 0 512 [p, l])
  | .spoolClaim h s => some (hp 0xA8 h 0 0 [s])
  | .spoolCommit h s p => some (hp 0xA9 h 0 0 [s, p])
  | .spoolWaitfilled h s => some (hp 0xAA h 0 0 [s])
  | .spoolRelease h s p => some (hp 0xAB h 0 0 [s, p])
  | .spoolWaitfree s => some (vp 0xAC true 0 (refHalves [s]))
  | .hodKick h e n => some (hp 0xB0 h 0 e.toNat [n])
  | .hodBind h e r => some (hp 0xB1 h 0 e.toNat [r])
  | .sread h s => some (hp 0xB2 h 0 0 [s])
  | .hodPut h e r => some (hp 0xB3 h 0 e.toNat [r])
  | .hodGet h e r => some (hp 0xB4 h 0 e.toNat [r])
  | .reelBoard h k p => some (hp 0xB8 h 0 0 [k, p])
  | .reelAlight h k n d c => some (hp 0xB9 h 0 0 [k, n, d, c])
  | .reelCapture h op f o k n x y => some (hp 0xBA h 0 (op.code + 16 * f.toNat + 128 * o.code) [k, n, x, y])
  | .reelFence => some (vp 0xBB true 0 [])
  | .mxLdst h sl p => some (hp 0xC0 h sl 0 [p])
  | .mxSwap ce => some (vp 0xC1 ce 0 [])
  | .mxStream h sl p => some (hp 0xC2 h sl 0 [p])
  | .mxStreamBound h sl p s => some (hp 0xC2 h sl 1 [p, s])
  | .mxSpgather h sl p => some (hp 0xC3 h sl 0 [p])
  | .mxCompress h sl p => some (hp 0xC4 h sl 0 [p])
  | .mxDrain h sl p => some (hp 0xC5 h sl 0 [p])
  | .mxDrainAdd h sl p => some (hp 0xC5 h sl 1 [p])
  | .mxWait t => some (vp 0xC6 true 0 (refHalves [t]))
  | .ctxDrain => some (vp 0xE0 true 0 [])
  | .ctxSpill p => some (vp 0xE1 true 0 (refHalves [p]))
  | .ctxFill p => some (vp 0xE2 true 0 (refHalves [p]))
  | .ctxBank p => some (vp 0xE3 true 0 (refHalves [p]))
  | .ctxDivSave ce p => some (vp 0xE4 ce 0 (refHalves [p]))
  | .ctxDivRestore ce p => some (vp 0xE4 ce 1 (refHalves [p]))
  | .ctxBarSave ce p => some (vp 0xE5 ce 0 (refHalves [p]))
  | .ctxBarRestore ce p => some (vp 0xE5 ce 1 (refHalves [p]))
  | .tret => some (vp 0xE6 true 0 [])
  | .doffIssue h j a => some (hp 0xE7 h 0 0 [j, a])
  | .trap c => some (vp 0xE8 true c.toNat [])
  | .trapDetail c d => some (vp 0xE8 true c.toNat (refHalves [d]))
  | .rdctr h n => some (hp 0xE9 h 0 n.toNat [])
  | .rdcap h o => some (hp 0xEA h 0 0 [o])
  | .phaseDecl p => some (vp 0xEB true p.toNat [])
  | _ => none

/-- Assembles the words (R38, R39). -/
def Parts.words (p : Parts) : List W32 :=
  let ext := packHalves p.halves ++ p.lits
  mkWord0 p.op p.ty p.md p.ac ext.length p.ce p.sx :: ext

/-- The words of a well-formed Flinal instruction; no words for an event or a native-only op, which have no Flinal encoding. -/
def encode (i : Instr) : List W32 :=
  match parts i with
  | none => []
  | some p => p.words

/-- The words of an instruction given as one number, least significant word first. -/
def wordsOfNat : Nat → Nat → List W32
  | 0, _ => []
  | n + 1, w => BitVec.ofNat 32 w :: wordsOfNat n (w / 4294967296)

/-- The instruction read from the bits w, numbered as the opcode table numbers them: four words, those above nbits zero (R38). -/
def decodeTableWord (nbits w : Nat) : Option Instr :=
  match decode (wordsOfNat 4 (w % 2 ^ nbits)) with
  | .ok r => some r.1
  | .error _ => none

end Sys2Proof
end

