-- ==== Sys2Proof/Machine/Num.lean ====
section
/-! DEFINITION. Numbers: formats (R48-R50), exact values, rounding (R57), events (R67), the total order (R65, R66). A finite value is an exact rational, so every operation is exact until the one rounding its entry names. -/

namespace Sys2Proof.Machine

/-- Numeric events of R67 raised by one operation: bit n for class n. -/
abbrev Ev := BitVec 8
def Ev.none : Ev := 0
def Ev.invalid : Ev := 1
def Ev.divzero : Ev := 2
def Ev.overflow : Ev := 4
def Ev.underflow : Ev := 8
def Ev.saturate : Ev := 16
def Ev.flush : Ev := 32
def Ev.scalenan : Ev := 64
def Ev.intdiv : Ev := 128

/-- The event ev when b holds. -/
def Ev.when (b : Bool) (ev : Ev) : Ev := if b then ev else 0

/-- A floating format (R48): total, exponent and significand bits, and whether the all-ones exponent is infinity and NaN. -/
structure Fmt where
  bits : Nat
  ebits : Nat
  mbits : Nat
  ieee : Bool
  deriving DecidableEq, Repr

def Fmt.f64 : Fmt := ⟨64, 11, 52, true⟩
def Fmt.f32 : Fmt := ⟨32, 8, 23, true⟩
def Fmt.f16 : Fmt := ⟨16, 5, 10, true⟩
def Fmt.bf16 : Fmt := ⟨16, 8, 7, true⟩
def Fmt.f8e5 : Fmt := ⟨8, 5, 2, true⟩
def Fmt.f8e4 : Fmt := ⟨8, 4, 3, false⟩
/-- The FP4 element format of R48, with no infinity and no NaN. -/
def Fmt.e2m1 : Fmt := ⟨4, 2, 1, false⟩

/-- The exponent bias of R48. -/
def Fmt.bias (f : Fmt) : Nat := 2 ^ (f.ebits - 1) - 1

/-- The format of a floating type (R31). -/
def Fmt.ofTy : Ty → Option Fmt
  | .f16 => some .f16
  | .bf16 => some .bf16
  | .f32 => some .f32
  | .f64 => some .f64
  | .f8e4 => some .f8e4
  | .f8e5 => some .f8e5
  | _ => none

/-- The value of an operand: a NaN (signalling or quiet), an infinity, or an exact rational num / den with its sign. -/
inductive FVal where
  | nan (signalling : Bool)
  | inf (neg : Bool)
  | fin (neg : Bool) (num den : Nat)
  deriving DecidableEq, Repr

/-- The canonical quiet NaN of R50. -/
def Fmt.canonNan (f : Fmt) : Nat :=
  if f.ieee then (2 ^ f.ebits - 1) * 2 ^ f.mbits + 2 ^ (f.mbits - 1)
  else 2 ^ (f.bits - 1) - 1

/-- The bits of an infinity of a format that has one (R49). -/
def Fmt.infBits (f : Fmt) (neg : Bool) : Nat :=
  (if neg then 2 ^ (f.bits - 1) else 0) + (2 ^ f.ebits - 1) * 2 ^ f.mbits

/-- The magnitude bits of the largest finite value (R48). -/
def Fmt.maxMag (f : Fmt) : Nat :=
  if f.ieee then (2 ^ f.ebits - 1) * 2 ^ f.mbits - 1
  else if f.bits = 4 then 7 else 2 ^ (f.bits - 1) - 2

/-- The sign of bits, added to a magnitude. -/
def Fmt.signed (f : Fmt) (neg : Bool) (mag : Nat) : Nat := (if neg then 2 ^ (f.bits - 1) else 0) + mag

/-- The rational m times 2 to the power e - off. -/
def dyadic (neg : Bool) (m e off : Nat) : FVal :=
  if off ≤ e then .fin neg (m * 2 ^ (e - off)) 1 else .fin neg m (2 ^ (off - e))

/-- The value that the bits x denote in a format (R48, R49). -/
def Fmt.decode (f : Fmt) (x : Nat) : FVal :=
  let neg := x / 2 ^ (f.bits - 1) % 2 == 1
  let e := x / 2 ^ f.mbits % 2 ^ f.ebits
  let m := x % 2 ^ f.mbits
  if f.ieee && e == 2 ^ f.ebits - 1 then
    if m = 0 then .inf neg else .nan (m / 2 ^ (f.mbits - 1) % 2 == 0)
  else if !f.ieee && f.bits == 8 && x % 128 == 127 then .nan false
  else if e = 0 then dyadic neg m 1 (f.bias + f.mbits)
  else dyadic neg (2 ^ f.mbits + m) e (f.bias + f.mbits)

/-- Whether bits denote a subnormal of the format: exponent field zero, significand not zero (R48). -/
def Fmt.isSub (f : Fmt) (x : Nat) : Bool :=
  x / 2 ^ f.mbits % 2 ^ f.ebits == 0 && x % 2 ^ f.mbits != 0

def FVal.isNan : FVal → Bool
  | .nan _ => true
  | _ => false
def FVal.isSNan : FVal → Bool
  | .nan true => true
  | _ => false
def FVal.isInf : FVal → Bool
  | .inf _ => true
  | _ => false
def FVal.isZero : FVal → Bool
  | .fin _ n _ => n == 0
  | _ => false
def FVal.neg : FVal → Bool
  | .nan _ => false
  | .inf n => n
  | .fin n _ _ => n
def FVal.negate : FVal → FVal
  | .nan s => .nan s
  | .inf n => .inf (!n)
  | .fin n a b => .fin (!n) a b

/-- Floor of the base-2 logarithm of num / den, for num and den not zero. -/
def log2Rat (num den : Nat) : Int :=
  let l : Int := (Nat.log2 num : Int) - (Nat.log2 den : Int)
  if 0 ≤ l then (if num < den * 2 ^ l.toNat then l - 1 else l)
  else (if num * 2 ^ (-l).toNat < den then l - 1 else l)

/-- num / den divided by 2 to the q, as floor, remainder and divisor. -/
def scaleRat (num den : Nat) (q : Int) : Nat × Nat × Nat :=
  let n := if 0 ≤ q then num else num * 2 ^ (-q).toNat
  let d := if 0 ≤ q then den * 2 ^ q.toNat else den
  (n / d, n % d, d)

/-- Whether a mode moves floor n with remainder r of d away from zero (R57). -/
def roundUp (mode : Round) (neg : Bool) (n r d : Nat) : Bool :=
  match mode with
  | .rne => decide (d < 2 * r) || (decide (2 * r = d) && n % 2 == 1)
  | .rtz => false
  | .rup => !neg && r != 0
  | .rdn => neg && r != 0

/-- A rounded magnitude: its bits, and whether it overflowed or underflowed (R57, R67). -/
structure Rounded where
  mag : Nat
  ovr : Bool
  under : Bool
  inexact : Bool
  deriving DecidableEq, Repr

/-- Rounds the positive rational num / den into a format with the in-range rule of R57, the exponent unbounded above. -/
def roundMag (f : Fmt) (mode : Round) (neg : Bool) (num den : Nat) : Rounded :=
  let e := log2Rat num den
  let emin : Int := 1 - (f.bias : Int)
  let q : Int := (if e < emin then emin else e) - (f.mbits : Int)
  let (n, r, d) := scaleRat num den q
  let n' := if roundUp mode neg n r d then n + 1 else n
  let ef : Int := q - (emin - (f.mbits : Int)) + 1
  let mag := if n' < 2 ^ f.mbits then n' else ef.toNat * 2 ^ f.mbits + (n' - 2 ^ f.mbits)
  let (n2, r2, d2) := scaleRat num den (e - (f.mbits : Int))
  let n2' := if roundUp mode neg n2 r2 d2 then n2 + 1 else n2
  let tiny := decide (e < emin) && !(decide (e = emin - 1) && n2' == 2 ^ (f.mbits + 1))
  { mag := mag, ovr := decide (f.maxMag < mag), under := tiny && r != 0, inexact := r != 0 }

/-- What an overflow delivers under R57, or under saturation (R59). -/
def overflowBits (f : Fmt) (mode : Round) (neg sat : Bool) : Nat :=
  let toInf := match mode with
    | .rne => true
    | .rtz => false
    | .rup => !neg
    | .rdn => neg
  if sat || !toInf || f.bits == 4 then f.signed neg f.maxMag
  else if f.ieee then f.infBits neg
  else f.canonNan

/-- How a result is delivered: rounding, saturation and flushing (R57, R59, R60). -/
structure Mode where
  round : Round
  sat : Bool
  ftz : Bool
  deriving DecidableEq, Repr

/-- Rounding alone: no saturation, subnormals honoured (R58). -/
def Mode.plain (r : Round) : Mode := ⟨r, false, false⟩

/-- The one rounding of an exact value into a format, with the events of R67 and the slot rules of R59 and R60.
f8e4 delivers a NaN for an infinity or an overflow to one, which counts INVALID under R67 (a NaN from operands that are not). -/
def deliver (f : Fmt) (m : Mode) (v : FVal) : Nat × Ev :=
  match v with
  | .nan s => (f.canonNan, Ev.when s Ev.invalid)
  | .inf neg =>
    if m.sat then (f.signed neg f.maxMag, Ev.saturate)
    else if f.ieee then (f.infBits neg, 0)
    else (f.canonNan, Ev.invalid)
  | .fin neg num den =>
    if num = 0 then (f.signed neg 0, 0)
    else
      let r := roundMag f m.round neg num den
      if r.ovr then
        let b := overflowBits f m.round neg m.sat
        (b, Ev.overflow ||| Ev.when m.sat Ev.saturate ||| Ev.when (f.decode b).isNan Ev.invalid)
      else
        let flush := m.ftz && r.mag != 0 && decide (r.mag < 2 ^ f.mbits)
        if flush then (f.signed neg 0, Ev.when true Ev.flush ||| Ev.when true Ev.underflow)
        else (f.signed neg r.mag, Ev.when r.under Ev.underflow)

/-- The sign of an exact zero sum of two terms (R57). -/
def zeroSumNeg (mode : Round) (an bn : Bool) : Bool := (an && bn) || decide (mode = .rdn)

/-- The exact sum of two values (R57, R106). The second component is INVALID for infinities of opposite signs or a signalling NaN. -/
def addVal (mode : Round) (a b : FVal) : FVal × Ev :=
  match a, b with
  | .nan s, .nan t => (.nan false, Ev.when (s || t) Ev.invalid)
  | .nan s, _ => (.nan false, Ev.when s Ev.invalid)
  | _, .nan t => (.nan false, Ev.when t Ev.invalid)
  | .inf x, .inf y => if x = y then (.inf x, 0) else (.nan false, Ev.invalid)
  | .inf x, _ => (.inf x, 0)
  | _, .inf y => (.inf y, 0)
  | .fin an x dx, .fin bn y dy =>
    let l := x * dy
    let r := y * dx
    if an = bn then
      (if l + r = 0 then .fin (zeroSumNeg mode an bn) 0 1
       else .fin an (l + r) (dx * dy), 0)
    else if l = r then (.fin (zeroSumNeg mode an bn) 0 1, 0)
    else if r < l then (.fin an (l - r) (dx * dy), 0)
    else (.fin bn (r - l) (dx * dy), 0)

/-- The exact product of two values (R57, R106). -/
def mulVal (a b : FVal) : FVal × Ev :=
  match a, b with
  | .nan s, .nan t => (.nan false, Ev.when (s || t) Ev.invalid)
  | .nan s, _ => (.nan false, Ev.when s Ev.invalid)
  | _, .nan t => (.nan false, Ev.when t Ev.invalid)
  | .inf x, .inf y => (.inf (x != y), 0)
  | .inf x, .fin y n _ => if n = 0 then (.nan false, Ev.invalid) else (.inf (x != y), 0)
  | .fin x n _, .inf y => if n = 0 then (.nan false, Ev.invalid) else (.inf (x != y), 0)
  | .fin x n d, .fin y m e => (.fin (x != y) (n * m) (d * e), 0)

/-- The exact quotient of two values (R106). -/
def divVal (a b : FVal) : FVal × Ev :=
  match a, b with
  | .nan s, .nan t => (.nan false, Ev.when (s || t) Ev.invalid)
  | .nan s, _ => (.nan false, Ev.when s Ev.invalid)
  | _, .nan t => (.nan false, Ev.when t Ev.invalid)
  | .inf _, .inf _ => (.nan false, Ev.invalid)
  | .inf x, .fin y _ _ => (.inf (x != y), 0)
  | .fin x _ _, .inf y => (.fin (x != y) 0 1, 0)
  | .fin x n d, .fin y m e =>
    if m = 0 then (if n = 0 then (.nan false, Ev.invalid) else (.inf (x != y), Ev.divzero))
    else (.fin (x != y) (n * e) (d * m), 0)

/-- The exact fused a × b + c (R107): 0 × ∞ is INVALID even with a quiet NaN addend. -/
def fmaVal (mode : Round) (a b c : FVal) : FVal × Ev :=
  let (p, e) := mulVal a b
  let (s, e') := addVal mode p c
  (s, e ||| e')

/-- Integer square root of n by bits, highest first, with k bits to settle. -/
def isqrtGo (n : Nat) : Nat → Nat → Nat
  | 0, r => r
  | k + 1, r =>
    let r' := r + 2 ^ k
    isqrtGo n k (if r' * r' ≤ n then r' else r)

/-- The largest r with r × r ≤ n. -/
def isqrt (n : Nat) : Nat := isqrtGo n (Nat.log2 n / 2 + 1) 0

/-- The square root of num / den as a rational: exact when it is one, else a neighbour no representable value or tie lies between (R108). -/
def sqrtRat (num den : Nat) : Nat × Nat :=
  let p := num * den * 4 ^ 256
  let r := isqrt p
  if r * r = p then (r, den * 2 ^ 256) else (2 * r + 1, den * 2 ^ 257)

/-- The square root of a value (R108). -/
def sqrtVal : FVal → FVal × Ev
  | .nan s => (.nan false, Ev.when s Ev.invalid)
  | .inf true => (.nan false, Ev.invalid)
  | .inf false => (.inf false, 0)
  | .fin neg n d =>
    if n = 0 then (.fin neg 0 1, 0)
    else if neg then (.nan false, Ev.invalid)
    else let (x, y) := sqrtRat n d; (.fin false x y, 0)

/-- Delivers a computed value and joins its events. -/
def deliver2 (f : Fmt) (m : Mode) (r : FVal × Ev) : Nat × Ev :=
  let (b, e) := deliver f m r.1
  (b, e ||| r.2)

/-- Order of magnitude of two rationals: less than. -/
def ratLt (a da b db : Nat) : Bool := decide (a * db < b * da)

/-- Strictly lower in the total order of R65: NaN highest, then +∞, positives, +0, −0, negatives, −∞. -/
def totalLt (a b : FVal) : Bool :=
  match a, b with
  | .nan _, _ => false
  | _, .nan _ => true
  | .inf x, .inf y => x && !y
  | .inf x, .fin _ _ _ => x
  | .fin _ _ _, .inf y => !y
  | .fin an x dx, .fin bn y dy =>
    match an, bn with
    | true, false => true
    | false, true => false
    | false, false => ratLt x dx y dy
    | true, true => ratLt y dy x dx

/-- The higher (or, with isMin, the lower) of two operands by bits (R65, R109); a NaN winner is canonical. -/
def pickFloat (f : Fmt) (isMin : Bool) (a b : Nat) : Nat :=
  let va := f.decode a
  let vb := f.decode b
  let bWins := if isMin then totalLt vb va else totalLt va vb
  let w := if bWins then b else a
  if (f.decode w).isNan then f.canonNan else w

/-- The winning (value, index) pair of two (R66): index order settles equal values; a NaN winner is canonical. -/
def pickPair (f : Fmt) (isMin : Bool) (a ia b ib : Nat) : Nat × Nat :=
  let va := f.decode a
  let vb := f.decode b
  let bWins :=
    if isMin then totalLt vb va || (!totalLt va vb && decide (ib < ia))
    else totalLt va vb || (!totalLt vb va && decide (ib < ia))
  let (w, i) := if bWins then (b, ib) else (a, ia)
  (if (f.decode w).isNan then f.canonNan else w, i)

/-- INVALID for a signalling NaN among the operands (R50). -/
def snanEv (vs : List FVal) : Ev := Ev.when (vs.any FVal.isSNan) Ev.invalid

/-- IEEE comparison (R111): none when unordered. -/
def ieeeLt (a b : FVal) : Bool :=
  match a, b with
  | .inf x, .inf y => x && !y
  | .inf x, .fin _ _ _ => x
  | .fin _ _ _, .inf y => !y
  | .fin an x dx, .fin bn y dy =>
    if x = 0 && y = 0 then false
    else match an, bn with
      | true, false => true
      | false, true => false
      | false, false => ratLt x dx y dy
      | true, true => ratLt y dy x dx
  | _, _ => false

/-- Float compare codes (R111). -/
def fcmp (c : FCmp) (a b : FVal) : Bool :=
  let un := a.isNan || b.isNan
  let lt := ieeeLt a b
  let gt := ieeeLt b a
  match c with
  | .eq => !un && !lt && !gt
  | .ne => un || lt || gt
  | .lt => !un && lt
  | .le => !un && !gt
  | .gt => !un && gt
  | .ge => !un && !lt
  | .ord => !un
  | .uno => un

/-- The class bit of R79 for an operand: −∞, −normal, −subnormal, −0, +0, +subnormal, +normal, +∞, quiet NaN, signalling NaN. -/
def classBit (f : Fmt) (x : Nat) : Nat :=
  match f.decode x with
  | .nan true => 9
  | .nan false => 8
  | .inf true => 0
  | .inf false => 7
  | .fin neg n _ =>
    if n = 0 then (if neg then 3 else 4)
    else if f.isSub x then (if neg then 2 else 5)
    else (if neg then 1 else 6)

/-- Rounds an exact value to an integer by a mode: its magnitude (R59, R113). -/
def roundInt (mode : Round) (neg : Bool) (num den : Nat) : Nat :=
  let n := num / den
  let r := num % den
  if roundUp mode neg n r den then n + 1 else n

/-- rint (R113): zeros and infinities unchanged, a negative operand that rounds to zero gives −0. -/
def rintBits (f : Fmt) (mode : Round) (x : Nat) : Nat × Ev :=
  match f.decode x with
  | .nan s => (f.canonNan, Ev.when s Ev.invalid)
  | .inf _ => (x, 0)
  | .fin neg n d =>
    if n = 0 then (x, 0)
    else ((deliver f (.plain .rne) (.fin neg (roundInt mode neg n d) 1)).1, 0)

/-- The value of an integer operand: its bits read signed or unsigned (R117). -/
def intVal (w : Nat) (sgn : Bool) (x : Nat) : FVal :=
  if sgn && x / 2 ^ (w - 1) % 2 == 1 then .fin true (2 ^ w - x % 2 ^ w) 1 else .fin false (x % 2 ^ w) 1

/-- Float to integer (R59, R117): rounded by the mode, clamped to the range, NaN gives 0. -/
def toInt (w : Nat) (sgn : Bool) (mode : Round) (v : FVal) : Nat × Ev :=
  let hi := if sgn then 2 ^ (w - 1) - 1 else 2 ^ w - 1
  let lo := if sgn then 2 ^ (w - 1) else 0
  match v with
  | .nan _ => (0, Ev.invalid)
  | .inf true => ((2 ^ w - lo) % 2 ^ w, Ev.saturate)
  | .inf false => (hi, Ev.saturate)
  | .fin neg n d =>
    let k := roundInt mode neg n d
    if neg then
      if lo < k then ((2 ^ w - lo) % 2 ^ w, Ev.saturate) else ((2 ^ w - k) % 2 ^ w, 0)
    else if hi < k then (hi, Ev.saturate) else (k, 0)

/-- Reads an operand, flushing a subnormal to zero of its sign when the slot says so (R60). -/
def Fmt.decodeFtz (f : Fmt) (ftz : Bool) (x : Nat) : FVal × Ev :=
  if ftz && f.isSub x then (.fin (x / 2 ^ (f.bits - 1) % 2 == 1) 0 1, Ev.flush) else (f.decode x, 0)

end Sys2Proof.Machine
end

