-- ==== Sys2Proof/Machine/Block.lean ====
section
/-! DEFINITION. Block scales and format slots: UE5M7 scales (R51), the planes of a block-scaled tensor (R52), decoding (R53), encoding (R54), slot records and their checks (R55, R56). -/

namespace Sys2Proof.Machine

/-- A UE5M7 scale as an exact rational; none for the NaN scale (R51). -/
def scaleVal (x : Nat) : Option (Nat × Nat) :=
  let e := x / 128 % 32
  let m := x % 128
  if e = 31 then none
  else if e = 0 then some (m, 2 ^ 21)
  else some ((128 + m) * 2 ^ e, 2 ^ 22)

/-- A format slot's record (R55), unpacked. -/
structure Slot where
  elem : Nat
  block : Nat
  scale : Nat
  round : Round
  ftz : Bool
  sat : Bool
  band : Bool
  accum : Nat
  deriving DecidableEq, Repr

def Round.ofNat (n : Nat) : Round :=
  match n % 4 with
  | 0 => .rne
  | 1 => .rtz
  | 2 => .rup
  | _ => .rdn

/-- Byte i of a record, zero beyond its end. -/
def byteAt (r : List Byte) (i : Nat) : Nat := (r.getD i 0).toNat

/-- Unpacks the 16 bytes of a slot record (R55). -/
def Slot.ofBytes (r : List Byte) : Slot :=
  let b3 := byteAt r 3
  { elem := byteAt r 0, block := byteAt r 1, scale := byteAt r 2,
    round := .ofNat (b3 / 16), ftz := b3 / 4 % 2 == 1, sat := b3 / 2 % 2 == 1, band := b3 % 2 == 1,
    accum := byteAt r 4 }

/-- Whether the slot is empty (R55). -/
def Slot.isEmpty (s : Slot) : Bool := s.elem == 0

/-- The checks of R56 on one 16-byte record: true when it may be bound. BLOCK above 2 and SCALE above 1, to which R55 gives no meaning, may not (DESIGN CHOICE, log 39). -/
def slotOk (r : List Byte) : Bool :=
  let s := Slot.ofBytes r
  let b3 := byteAt r 3
  if r.all (· == 0) then true
  else
    [2, 6, 7, 8, 11, 12, 13].contains s.elem
    && (s.elem != 13 || (s.block == 1 && s.scale == 1))
    && (s.block != 1 || s.elem == 13)
    && (s.block != 2 || [2, 11, 12].contains s.elem)
    && decide (s.block ≤ 2) && decide (s.scale ≤ 1)
    && ((s.block == 0) == (s.scale == 0))
    && !(s.band && s.scale == 0)
    && s.accum == (if s.elem == 2 && s.block == 0 then 4 else 8)
    && b3 / 64 == 0 && b3 / 8 % 2 == 0
    && (r.drop 5).all (· == 0)

/-- The element type a slot names, by its code (R31). -/
def tyOfCode : Nat → Option Ty
  | 0 => some .void
  | 1 => some .i1
  | 2 => some .i8
  | 3 => some .i16
  | 4 => some .i32
  | 5 => some .i64
  | 6 => some .f16
  | 7 => some .bf16
  | 8 => some .f32
  | 9 => some .f64
  | 10 => some .ptr
  | 11 => some .f8e4
  | 12 => some .f8e5
  | 13 => some .q4
  | 14 => some .hnd
  | _ => none

/-- A slot's rounding mode with its saturation and flushing (R58-R60). -/
def Slot.mode (s : Slot) : Mode := ⟨s.round, s.sat, s.ftz⟩

/-- The exact product of element, scale and band with the cases of R53 in their order. A NaN element, which only the formats of R56 have, stays that NaN (log 12); a signalling NaN that a case overrides counts INVALID here (R50). -/
def scaledVal (el : FVal) (scale : Nat) (band : FVal) : FVal × Ev :=
  match scaleVal scale with
  | none => (.nan false, Ev.scalenan ||| snanEv [el, band])
  | some (sn, sd) =>
    match band, el with
    | .nan _, _ => (.nan false, snanEv [el, band])
    | _, .nan s => (.nan s, 0)
    | .inf bn, e => if e.isZero || sn == 0 then (.nan false, Ev.invalid) else (.inf (e.neg != bn), 0)
    | .fin bn n d, e =>
      if sn = 0 || n = 0 then (.fin (e.neg != bn) 0 1, 0)
      else match e with
        | .inf en => (.inf (en != bn), 0)
        | .fin en m k => (.fin (en != bn) (m * sn * n) (k * sd * d), 0)
        | .nan s => (.nan s, 0)

/-- Band 1, where band scales are off (R53). -/
def bandOne : FVal := .fin false 1 1

/-- The value of a bf16 band scale. -/
def bandVal (x : Nat) : FVal := Fmt.bf16.decode x

/-- Element k of a q4 block (R52, R53). -/
def q4Elem (word scale k : Nat) (band : FVal) : FVal × Ev :=
  scaledVal (Fmt.e2m1.decode (word / 16 ^ (k % 8) % 16)) scale band

/-- Whether the scale code's value is at least num / den (den not zero). -/
def scaleGe (code num den : Nat) : Bool :=
  match scaleVal code with
  | none => false
  | some (n, d) => decide (num * d ≤ n * den)

/-- Bisection for the least code c in [lo, lo + 2^k) with scaleGe, when the top one has it. -/
def scaleSearch (num den : Nat) : Nat → Nat → Nat
  | 0, lo => lo
  | k + 1, lo => if scaleGe (lo + 2 ^ k - 1) num den then scaleSearch num den k lo
                 else scaleSearch num den k (lo + 2 ^ k)

/-- The smallest finite UE5M7 code at or above num / den, or 0xF7F if none exists (R54 step 2). -/
def scaleFor (num den : Nat) : Nat :=
  if scaleGe 0xF7F num den then scaleSearch num den 12 0 else 0xF7F

/-- The largest finite magnitude of an element code (R54, R56): 6, 448, 57344, or 127 for i8. -/
def elemTop (elem : Nat) : Nat :=
  match elem with
  | 2 => 127
  | 11 => 448
  | 12 => 57344
  | _ => 6

/-- The floating format of an element code; i8 has none. -/
def elemFmt (elem : Nat) : Option Fmt :=
  match elem with
  | 6 => some .f16
  | 7 => some .bf16
  | 8 => some .f32
  | 11 => some .f8e4
  | 12 => some .f8e5
  | 13 => some .e2m1
  | _ => none

/-- One element of R54 step 3: magnitude num / den (none for infinity) under the slot's mode, a magnitude above the largest set to it. With ftz a subnormal result is flushed (R60), but never an E2M1 element. -/
def encodeElem (elem : Nat) (mode : Round) (ftz neg : Bool) (x : Option (Nat × Nat)) : Nat × Ev :=
  match elemFmt elem with
  | some f =>
    match x with
    | none => (f.signed neg f.maxMag, Ev.saturate)
    | some (n, d) =>
      if n = 0 then (f.signed neg 0, 0)
      else
        let r := roundMag f mode neg n d
        if r.ovr then (f.signed neg f.maxMag, Ev.saturate ||| Ev.overflow)
        else if ftz && f.bits != 4 && r.mag != 0 && decide (r.mag < 2 ^ f.mbits) then (f.signed neg 0, Ev.flush ||| Ev.underflow)
        else (f.signed neg r.mag, Ev.when r.under Ev.underflow)
  | none =>
    let clamp (k : Nat) : Nat := if neg then (256 - k) % 256 else k
    match x with
    | none => (clamp 127, Ev.saturate)
    | some (n, d) =>
      let k := roundInt mode neg n d
      if 127 < k then (clamp 127, Ev.saturate ||| Ev.overflow) else (clamp k, 0)

/-- A block of values as it is encoded (R54): element codes, scale, events. -/
structure Encoded where
  codes : List Nat
  scale : Nat
  ev : Ev
  deriving DecidableEq, Repr

/-- The exact quotient of a value by a finite band that is not zero: sign and magnitude, none for infinity. -/
def bandQuot (bn : Bool) (n d : Nat) : FVal → Bool × Option (Nat × Nat)
  | .nan _ => (false, none)
  | .inf x => (x != bn, none)
  | .fin x a b => (x != bn, some (a * d, b * n))

/-- The largest magnitude of a list: none when one is infinite. -/
def maxMagOf : List (Bool × Option (Nat × Nat)) → Option (Nat × Nat)
  | [] => some (0, 1)
  | (_, none) :: _ => none
  | (_, some (n, d)) :: t =>
    match maxMagOf t with
    | none => none
    | some (a, b) => if a * d < n * b then some (n, d) else some (a, b)

/-- Encodes values into one block (R54), for elements of the given code, under a band. A signalling NaN among them counts INVALID (R50). -/
def encodeBlock (elem : Nat) (mode : Round) (ftz : Bool) (band : FVal) (xs : List FVal) : Encoded :=
  let bad : Encoded := ⟨xs.map fun _ => 0, 0xF80, Ev.scalenan ||| snanEv (band :: xs)⟩
  match band with
  | .nan _ => bad
  | .inf _ => bad
  | .fin bn bnum bden =>
    if bnum = 0 || xs.any FVal.isNan then bad
    else
      let qs := xs.map (bandQuot bn bnum bden)
      let s := match maxMagOf qs with
        | none => 0xF7F
        | some (n, d) => if n = 0 then 0 else scaleFor n (d * elemTop elem)
      if s = 0 then ⟨qs.map fun q => (encodeElem elem mode ftz q.1 (some (0, 1))).1, 0, 0⟩
      else match scaleVal s with
        | none => bad
        | some (sn, sd) =>
          let es := qs.map fun q => encodeElem elem mode ftz q.1 (q.2.map fun nd => (nd.1 * sd, nd.2 * sn))
          ⟨es.map (·.1), s, es.foldl (fun a e => a ||| e.2) 0⟩

/-- The element word of eight FP4 codes (R52). -/
def packNibbles : List Nat → Nat
  | [] => 0
  | c :: cs => c % 16 + 16 * packNibbles cs

/-- Scale j of a scale plane row held as a little-endian number (R52). -/
def scaleAt (row j : Nat) : Nat := row / 2 ^ (12 * j) % 4096

end Sys2Proof.Machine
end

