-- ==== Sys2Proof/Machine/Codes.lean ====
section
/-! DEFINITION. The 16-bit codes of faults, traps and stops (R404). -/

namespace Sys2Proof.Machine.Code

def xlOpcode : Nat := 0x0001
def xcFull : Nat := 0x000A
def nativeUndef : Nat := 0x000B
def spillOverflow : Nat := 0x000C
def addrWindow : Nat := 0x0101
def addrRange : Nat := 0x0102
def addrAlign : Nat := 0x0103
def addrWrite : Nat := 0x0104
def spillAccess : Nat := 0x0105
def pageMiss : Nat := 0x0106
def pagePerm : Nat := 0x0107
def peerAccess : Nat := 0x0108
def exportDenied : Nat := 0x0109
def fmtEmpty : Nat := 0x0201
def fmtMismatch : Nat := 0x0202
def divDepth : Nat := 0x0203
def unreachable : Nat := 0x0204
def lockstepMismatch : Nat := 0x0205
def hndKind : Nat := 0x0206
def hndStale : Nat := 0x0207
def emitUnbound : Nat := 0x0208
def emitSize : Nat := 0x0209
def mode : Nat := 0x020A
def mxParam : Nat := 0x020B
def mxShape : Nat := 0x020C
def mxPlane : Nat := 0x020D
def mxAcc : Nat := 0x020E
def mxSparse : Nat := 0x020F
def mxCredit : Nat := 0x0210
def tsrForm : Nat := 0x0211
def tsrRange : Nat := 0x0212
def tsrAlign : Nat := 0x0213
def tsrOverlap : Nat := 0x0214
def tsrReadonly : Nat := 0x0215
def hodForm : Nat := 0x0216
def hodOverlap : Nat := 0x0217
def hodRing : Nat := 0x0218
def hodFull : Nat := 0x0219
def peerLink : Nat := 0x021A
def stageRange : Nat := 0x021B
def xbWindow : Nat := 0x021C
def spoolSlot : Nat := 0x021D
def streamEnd : Nat := 0x021E
def streamBusy : Nat := 0x021F
def barrierMask : Nat := 0x0220
def barrierAgain : Nat := 0x0221
def rwsetOverlap : Nat := 0x0222
def rwsetOutside : Nat := 0x0223
def reelKey : Nat := 0x0224
def reelQuota : Nat := 0x0225
def reelForm : Nat := 0x0226
def reelNokey : Nat := 0x0227
def ctxState : Nat := 0x0228
def ctxFormat : Nat := 0x0229
def redAsync : Nat := 0x0301
def hodAsync : Nat := 0x0302
def reelAsync : Nat := 0x0303
def dataLoss : Nat := 0x0401
def trap : Nat := 0x0501
def numThreshold : Nat := 0x0502
def preempt : Nat := 0x0601
def restore : Nat := 0x0602
def lateStray : Nat := 0x0701
def lateOverflow : Nat := 0x0702
def teamFormat : Nat := 0x0703

/-- The number of a translation refusal (R227). -/
def ofXl : XlCode → Nat
  | .opcode => 1
  | .ref => 2
  | .type => 3
  | .block => 4
  | .course => 5
  | .uniform => 6
  | .limit => 7
  | .recurse => 8
  | .container => 9

/-- The class of a code (R404): its high byte. -/
def cls (c : Nat) : Nat := c / 256

end Sys2Proof.Machine.Code
end

