-- ==== Sys2Proof/Machine/Units.lean ====
section
/-! DEFINITION. The parts of the state below the package: values, frames, groups, teams (R203), engine operations (R348), cores (R4), dies (R3), launches (R190), the translation cache (R220), the Reel's slots (R380). All plain data. -/

namespace Sys2Proof.Machine

/-- A Flinal value of a frame: its type, 32 lane copies, and, when it is lost, the physical line of the error (R407). -/
structure Val where
  ty : Ty
  lanes : List Lane
  lost : Option Nat
  deriving DecidableEq, Repr
/-- The default of a value map: a value nothing has defined. -/
def Val.undef : Val := ⟨.void, [], none⟩

/-- A call frame (R26, R139): function, next word, its block, values by number, where a pending call's results go, and the values its own ret instructions have returned so far. -/
structure Frame where
  func : Nat
  word : Nat
  block : Nat
  vals : SMap Val
  dest : Nat
  rets : List Val
  deriving DecidableEq, Repr

/-- A divergence entry (R135, R269): P (0xFFFF for the exit; on the native level a bundle, 0xFFFFF for the exit), call depth, arrived mask, pending paths. -/
structure DivEntry where
  p : Nat
  depth : Nat
  arrived : Mask
  pending : List (Nat × Mask)
  deriving DecidableEq, Repr

/-- A native result of variable latency, outstanding until written (R257, R259). -/
structure Pend where
  file : RegFile
  reg : Nat
  lanes : List (BitVec 32)
  mask : Mask
  lost : Option Nat
  deriving DecidableEq, Repr

/-- RESUME of a function entry (R219). -/
def noResume : BitVec 24 := 0xFFFFFF

/-- The native register window and position of a group (R249, R283): registers not listed hold zero. -/
structure NatWin where
  v : SMap (List (BitVec 32))
  s : SMap W64
  q : SMap Mask
  on : Bool              -- the group runs native code
  entry : Nat
  bundle : Nat
  spill : SMap Byte      -- the group's 256 KiB spill stack
  pend : List Pend       -- oldest first
  lost : List (RegFile × Nat × Nat)  -- registers that are lost, with the physical line (R407)
  retried : Bool         -- the entry was translated again once under R286
  resume : BitVec 24     -- RESUME of the entry the innermost frame runs in (R219, R247)
  poison : List (Nat × Nat)  -- poisoned slots of the spill stack: offset and physical line (R407)
  met : Bool             -- its quad met for the lock-step bundle it stands at (R294)
  deriving DecidableEq, Repr
def NatWin.clear : NatWin := ⟨[], [], [], false, 0, 0, [], [], [], false, noResume, [], false⟩

/-- What stopped a group, as its trap record reports it (R408). -/
structure Trap where
  code : Nat
  reason : Nat
  lane : W32
  d0 : W64
  d1 : W32
  word : Nat
  func : Nat
  double : Bool
  opn : Bool
  deriving DecidableEq, Repr

/-- A pending bar arrival (R364, R418): barrier, phase, whether its keystone is decided (R367), the group's flag. -/
structure BarWait where
  bar : Nat
  phase : W32
  done : Bool
  key : Bool
  deriving DecidableEq, Repr

/-- What the instruction at a group's point has already begun: an applied bar arrival (R364), a timed wait's start and limit (R371), an accepted Reel request and its delivered result (R384). -/
structure Waits where
  bar : Option BarWait
  tstart : Option (Nat × Nat)
  reelReq : Option Nat
  reelRes : Option W64
  pay : Option (List Byte)      -- the emitted payload of a withdrawn board (R394)
  deriving DecidableEq, Repr
def Waits.clear : Waits := ⟨.none, .none, .none, .none, .none⟩

/-- The interrupted context a handler works on (R410). hasPoint is false for a restored group before its ctx.fill. -/
structure Ctx where
  frames : List Frame
  div : List DivEntry
  active : Mask
  trap : Trap
  hasPoint : Bool
  nat : NatWin
  waits : Waits
  filled : Bool            -- made by ctx.fill: its functions are looked up before it resumes (R247)
  begun : Bool             -- it stands inside a course it has begun (R69)
  deriving DecidableEq, Repr

/-- Why a group issues or does not (R287). -/
inductive GStatus where
  | out        -- not placed, or retired
  | ready
  | wait       -- parked at a WAIT or FAULT point (R279)
  | stall      -- an alight that finds the stop's port full: the group holds its cluster (R384)
  | wmark      -- parked at a W bundle (R259)
  | xlat       -- waits for a translation (R221)
  | stopping   -- a stop is raised and drains (R406)
  | held       -- held for the host (R412)
  | lock       -- waits for its quad (R293)
  | loading    -- its team is being set up or filled
  deriving DecidableEq, Repr

/-- A key of the translation cache (R219). -/
structure XKey where
  module : W64
  func : BitVec 16
  cls : BitVec 2
  eff : BitVec 8
  resume : BitVec 24
  ver : BitVec 8
  deriving DecidableEq, Repr

/-- A group's state (R203). -/
structure Group where
  status : GStatus
  active : Mask
  ended : Mask
  frames : List Frame           -- innermost first
  div : List DivEntry           -- top first
  nat : NatWin
  credits : Nat                 -- free matrix credits (R172)
  arb : Nat                     -- arbitration credit (R289)
  phase : Option Nat            -- current phase (R372)
  trap : Option Trap            -- the stop being delivered or held
  saved : Option Ctx            -- in a handler: the interrupted context
  waits : Waits
  begun : Bool                  -- it has begun the course it stands in (R69)
  courses : Nat                 -- courses retired (R426)
  evs : List Nat                -- events of the running course by class (R68)
  reelSince : List (Nat × Nat)  -- slots the group's requests acted on since its last reel.fence, with the seam count to pass (R390)
  numTrap : List Nat            -- classes of the NUM_THRESHOLDs to take before the next course, oldest first (R69)
  pos : Nat                     -- position k in its bank (R408)
  bankDone : Bool               -- it has executed ctx.bank (R423)
  preStop : Bool                -- it stops at its next point with reason 3 (R416, R417)
  drained : Bool                -- its team passed ctx.drain in this handler (R417)
  stops : List Nat              -- while its ctx.drain runs: 16, the groups it has seen stopped, and its own when it has passed the fence (R417)
  noPoint : Bool                -- a restored group before its ctx.fill (R411)
  look : Nat                    -- the frames, innermost first, that it still looks up before it issues (R218, R247)
  got : Option XKey             -- the key whose entry it waited for (R221): using that entry counts no second lookup
  deriving DecidableEq, Repr

/-- A barrier (R361). -/
structure Bar where
  c : W32
  opn : Bool
  m : BitVec 16
  arrived : BitVec 16
  d : Bool
  sent : Bool               -- the open phase was sent to the die barrier
  last : List (Nat × W32)   -- the phase each group last arrived in
  order : List Nat          -- arrivals of the open phase, latest first
  deriving DecidableEq, Repr
def Bar.reset : Bar := ⟨0, false, 0, 0, false, false, [], []⟩

/-- A spool's counts and marks (R345): marks name counts. -/
structure Spool where
  n : Nat
  b : Nat
  base : Nat
  claim : W32
  tail : W32
  take : W32
  head : W32
  filled : List W32
  freed : List W32
  deriving DecidableEq, Repr

/-- A kicked entry not yet fetched: the kicking group, its phase, and the job whose tables translate it. -/
structure Kick where
  g : Nat
  phase : Option Nat
  job : Nat
  deriving DecidableEq, Repr

/-- A request ring's counts (R334); kicks has one element for each entry from F to K. -/
structure HodRing where
  k : W32
  f : W32
  kicks : List Kick
  deriving DecidableEq, Repr
def HodRing.reset : HodRing := ⟨0, 0, []⟩

/-- Where a copy's bytes go. -/
inductive CopyKind where
  | kicked | put | get | stream (idx : Nat)
  deriving DecidableEq, Repr

/-- A Hod request fetched or issued (R335): its bytes and records as read, engine, issuing group, job and phase, the destination chunks still to write, the emitted bytes it has taken (R341), whether it is held (R340), in flight, or joined (R372), and its generation (R417). -/
structure Copy where
  req : List Byte
  ptr : W64                -- where the request was read (R415)
  recS : List Byte
  recD : List Byte
  engine : Nat
  kind : CopyKind
  g : Nat
  job : Nat
  phase : Option Nat
  left : List Nat          -- destination chunks not yet written, in order
  emitted : List Byte
  held : Bool
  live : Bool
  joined : Bool
  gen : Nat
  deriving DecidableEq, Repr

/-- A stream value (R342): its length, bytes arrived and taken, hold and failure code. -/
structure Stream where
  len : Nat
  buf : List Byte          -- arrived and not yet taken
  taken : Nat
  arrived : Nat
  busy : Bool              -- held by an accepted mx.stream.bound (R179)
  fail : Nat
  bank : Nat               -- FIFO bank whose granule it holds (R302)
  deriving DecidableEq, Repr

/-- A matrix command token (R172). -/
structure Tok where
  done : Bool
  retired : Bool
  lost : Option Nat        -- the physical line of an uncorrectable error it met (R407)
  xb : W64                 -- byte-count barrier it counts on (R172), 0 for none
  g : Nat
  phase : Option Nat
  joined : Bool
  deriving DecidableEq, Repr

/-- An engine operation that is no copy and no matrix command and holds its phase (R372): an alight by its request and its completion object, or one that only the team's completion event joins. -/
structure PhasedOp where
  req : Option Nat         -- the Reel request, until it has counted on its object
  xb : W64                 -- its completion object, 0 for none
  phase : Nat
  deriving DecidableEq, Repr

/-- A reduction passed at issue and not yet performed (R159). -/
structure Red where
  addr : W64
  lane : Nat
  g : Nat
  op : AtomOp
  ty : Ty
  x : Lane
  ac : BitVec 3
  job : Nat                -- whose page table translates it (0 in a handler)
  seq : Nat                -- its instruction, among the team's pending ones: the lanes count a class once together (R67)
  deriving DecidableEq, Repr

/-- A team's place in its life (R197). -/
inductive TState where
  | loading | resident | draining | saved | done
  deriving DecidableEq, Repr

/-- A team (R203). -/
structure Team where
  lid : Nat
  idx : Nat
  job : BitVec 12
  module : W64
  sock : Nat
  core : Nat
  bank : Nat
  row : Nat
  state : TState
  groups : List Group
  scratch : SMap Byte
  priv : SMap Byte         -- private memory with EXPORT = 0, by (group × 32 + lane) × PRIVATE + offset
  bars : List Bar          -- barriers 0-15
  spools : List Spool
  hod0 : HodRing
  hod1 : HodRing
  copies : List Copy
  streams : List Stream
  toks : List Tok
  phased : List PhasedOp   -- Reel requests and emits that hold their phase (R372)
  emitHod : List (Bool × List Byte)  -- what is left of records emitted to the Hods, oldest first; true: for Hod 0 alone (R305)
  emitMx : List Byte
  emitBanks : List Nat     -- the FIFO banks whose granules its waiting records hold (R302), oldest first
  grans : List (Nat × Nat) -- scratch granules: store bank, count (R210)
  reds : List Red          -- oldest first
  redEvs : SMap (BitVec 8) -- classes that the performed lanes of a pending instruction have counted, by its seq (R67)
  reelPay : Option (List Byte)
  accBase : Nat
  acct : Nat
  waitRestore : Bool       -- saved team being placed by DSP_RESTORE
  restoreLive : BitVec 16  -- the groups to recreate (R424)
  fenced : Bool            -- past the generation fence of ctx.drain: no ring entry is fetched (R417)
  expMap : SMap Nat        -- with EXPORT = 1: translations fixed at setup (R211), by 64 KiB page: physical page × 4 + permutation
  deriving DecidableEq, Repr

/-- An accumulator tile (R168): its type, cells by row × 64 + column, and its marks (R407, R416). -/
structure Tile where
  int : Bool
  cells : SMap W32
  opn : Bool
  lost : Option Nat
  deriving DecidableEq, Repr
def Tile.reset : Tile := ⟨false, [], false, none⟩

/-- A stationary plane (R174): present cells by n × 128 + k, each as R420 saves it: the exact f64 of its value, or an i8 cell's integer. -/
structure Plane where
  loaded : Bool
  k : Nat
  n : Nat
  slot : Nat
  sgn : Bool
  int : Bool
  tid : Nat
  cells : SMap (Option W64)
  deriving DecidableEq, Repr
def Plane.reset : Plane := ⟨false, 0, 0, 0, false, false, 0, []⟩

/-- A matrix operation of the queue. -/
inductive MxOp where
  | ldst | swap | stream | bound (st : Nat) | spgather | compress | drain | drainAdd
  deriving DecidableEq, Repr

/-- An accepted matrix command (R170, R173): its parameter block, records and slot as read at acceptance. -/
structure MxCmd where
  op : MxOp
  pb : List Byte
  rec0 : List Byte
  rec1 : List Byte
  slot : Nat
  tid : Nat
  g : Nat
  tok : Nat
  job : Nat                -- whose page table translates it
  data : List Byte         -- bound or emitted operand bytes taken so far
  rowptr : List Nat
  colidx : List Nat
  map : SMap Nat           -- the translations of its pages, kept from acceptance (R171): physical page × 4 + permutation + 1
  deriving DecidableEq, Repr

/-- An asynchronous log entry (R415). -/
structure LogEntry where
  addr : W64
  operand : W64
  code : Nat
  sx : Nat
  lane : Nat
  group : Nat
  team : Nat
  deriving DecidableEq, Repr
structure ALog where
  entries : List LogEntry
  ovr : BitVec 15
  deriving DecidableEq, Repr
def ALog.reset : ALog := ⟨[], 0⟩

/-- A context bank (R4): numeric registers (R68), tiles and planes (R168, R174), the engine's queue, the logs (R415). -/
structure Bank where
  window : W32
  limits : SMap W32        -- NUM_LIMIT_n
  counts : SMap W32        -- NUM_COUNT_n
  hit : BitVec 8
  retired : W32
  tiles : SMap Tile
  act : Plane
  shd : Plane
  queue : List MxCmd       -- oldest first
  log0 : ALog
  log1 : ALog
  log2 : ALog
  deriving DecidableEq, Repr
def Bank.reset : Bank :=
  ⟨0, [], [], 0, 0, [], .reset, .reset, [], .reset, .reset, .reset⟩

/-- A core-store bank's mode registers (R302). -/
structure StoreBank where
  pend : Bool
  cur : BitVec 2
  mode : BitVec 2
  deriving DecidableEq, Repr

/-- What a Reel request asks (R384). -/
inductive ReelKind where
  | board (payload : List (BitVec 64))
  | alight (dst done : W64)
  | capture (op : ReelOp) (field : BitVec 3) (x y : W64)
  | fence
  deriving DecidableEq, Repr

/-- A request in a stop's port (R280, R385). -/
structure ReelReq where
  kind : ReelKind
  id : Nat
  tid : Nat
  g : Nat
  job : BitVec 12
  key : BitVec 52
  hint : Option (BitVec 9)
  passes : Nat             -- passages searched without a match
  since : Nat              -- time of acceptance
  cohort : Bool            -- member of the cohort its slot's stop holds (R392)
  applied : Bool           -- an alight on its way to the seam
  wjob : Nat               -- whose page table translates its pointers
  sx : Nat                 -- the SX field of its instruction (R415)
  lost : Option Nat        -- the line in error that a board's payload met (R407)
  deriving DecidableEq, Repr

/-- A lock-step meeting of a quad (R293). -/
structure Meeting where
  tid : Nat
  quad : Nat
  entry : Nat
  word : Nat
  arrived : List Nat
  issued : List Nat        -- members that completed an issue since it opened
  deriving DecidableEq, Repr

/-- A quarantined Hod read (R417, R420). -/
structure Quar where
  tid : Nat
  off : W32
  xb : W32
  data : List Byte
  deriving DecidableEq, Repr

/-- A core (R4). -/
structure Core where
  b0 : Bank
  b1 : Bank
  cfg : SMap StoreBank     -- banks that differ from their reset (R302)
  qbind : W32              -- CST_QBIND
  gap : BitVec 8
  ballast : Bool
  trapbase : W64
  traperr : W32
  preempt : W32
  preOut : List GId        -- groups that have stopped for the pre-emption in progress (R416)
  port : List ReelReq      -- oldest first
  ptrs : List (Nat × Nat)  -- by cluster: the place in the rotation of the group issued last (R289)
  meetings : List Meeting
  quar : List Quar
  gen : Nat                -- generation fences passed (R417)
  deriving DecidableEq, Repr
def Core.reset : Core :=
  { b0 := .reset, b1 := .reset, cfg := [], qbind := 0, gap := 1, ballast := false,
    trapbase := 0, traperr := 0, preempt := 0, preOut := [], port := [], ptrs := [], meetings := [], quar := [], gen := 0 }

/-- A staging window's register, and whether it is being zeroed (R310). -/
structure StageWin where
  reg : W64
  zeroing : Bool
  deriving DecidableEq, Repr
def StageWin.reset : StageWin := ⟨0, false⟩

/-- An L2 slice's split (R306). -/
structure Split where
  stage : BitVec 5
  pend : Bool
  want : BitVec 5
  deriving DecidableEq, Repr
def Split.reset : Split := ⟨4, false, 4⟩

/-- A bay: its FLL (R300), sag sensor (R301) and Spindle counters (R228). -/
structure Bay where
  fll : W32
  sag : W32
  sagging : Bool
  evts : SMap W32
  cycles : W64             -- bay cycles since the die's last reset (R426)
  deriving DecidableEq, Repr

/-- A bay at reset: PWR_SAG has RECOV 4, DROP 16, TRIP 620 (R301). -/
def Bay.reset : Bay := ⟨0, 0x0410026C, false, [], 0⟩

/-- A group of die-barrier arrivals (R369): grid, team, the barrier that carried it. -/
structure DieArr where
  lid : Nat
  tid : Nat
  bar : Nat
  deriving DecidableEq, Repr

/-- A compute die. -/
structure Die where
  present : Bool
  skipped : Bool
  leftOut : Bool
  inReset : Bool
  splits : SMap Split
  wins : SMap StageWin
  staging : SMap Byte      -- by slice × 2^23 + offset
  slope : W32
  rows : W32               -- rows of the last complete window
  dieHold : Bool
  ovr : Bool
  yielded : Bool
  conflict : Nat           -- conflict windows counted (R299)
  stopBallast : Bool
  bays : SMap Bay
  arrivals : List DieArr
  cycles : W64             -- die cycles since the die's last reset (R426)
  xlkey : SMap W32         -- SPN_XLKEY0-3
  xlmap : Option XKey      -- the key that SPN_XLMAP.GO maps (R230)
  spnver : BitVec 8
  throttled : Bool         -- above 105 °C and not yet below 102 °C (R460)
  width : BitVec 2         -- its Plinth link's width (R329)
  lowWins : Nat
  deriving DecidableEq, Repr
def Die.reset : Die :=
  { present := false, skipped := false, leftOut := false, inReset := false, splits := [], wins := [],
    staging := [], slope := 0x400, rows := 0, dieHold := false, ovr := false, yielded := false,
    conflict := 0, stopBallast := false, bays := [], arrivals := [], cycles := 0, xlkey := [],
    xlmap := .none, spnver := 0, throttled := false, width := 0, lowWins := 0 }

/-- An entry of a translation cache (R220, R242): key, refusal, granule run, last lookup. Its body is what translate makes of the key and the module's words (R222). -/
structure XEntry where
  key : XKey
  id : Nat                 -- directory index
  refused : Nat            -- code of R227, 0 for none
  refoff : Nat
  spills : Bool
  start : Nat
  grans : Nat
  last : Nat
  deriving DecidableEq, Repr

/-- A claim on a key (R221). -/
structure Claim where
  key : XKey
  sock : Nat
  bay : Nat
  waiting : List GId
  again : Option Nat     -- the directory index of the discarded entry that it makes again (R225, R283)
  deriving DecidableEq, Repr

/-- A launch's outcome as the DONE word gives it (R196): none while it is live. -/
structure Launch where
  queue : BitVec 6
  seq : W32
  job : BitVec 12
  part : Nat
  prio : Nat
  order : Nat              -- order of acceptance
  record : List Byte       -- 1024 bytes
  dies : List Nat          -- sockets of R204
  logical : Nat            -- L of R214
  started : List Nat       -- teams started, by index
  events : List Nat        -- teams whose completion event is published
  status : Option Nat      -- DONE status once decided
  failed : Bool            -- a dependence failed (R196)
  reelHeld : Nat           -- slots counted against its quota (R382)
  passed : SMap Nat        -- by team index: the row offers at which a ready team was passed over (R201)
  deps : List Nat          -- launch ids of its producers, in order; 2^40 + code for a producer in the outcome window
  vfy : Bool
  vfyReg : W64
  vfyPages : Nat
  vfyOut : W64
  live : Bool
  deriving DecidableEq, Repr

/-- The outcome window of a queue (R195): (sequence, launch id or refusal status). -/
structure Outcome where
  seq : W32
  lid : Option Nat
  status : Nat
  deriving DecidableEq, Repr

/-- A launch queue (R187). -/
structure Queue where
  en : Bool
  log2n : BitVec 4
  pceil : BitVec 8
  part : BitVec 4
  job : BitVec 12
  base : W64
  tail : W32
  head : W32
  stat : BitVec 6
  window : List Outcome    -- latest first, at most 256
  vfyctl : W32
  vfyreg : W64
  vfyout : W64
  deriving DecidableEq, Repr
def Queue.reset : Queue := ⟨false, 0, 0, 0, 0, 0, 0, 0, 0, [], 0, 0, 0⟩

/-- A registered function (R43). -/
structure Func where
  words : List W32
  kind : Nat
  nvals : Nat
  nblocks : Nat
  nparam : Nat
  nspool : Nat
  attrs : List (List Byte) -- 16-byte items
  refused : Nat            -- code of a refusal at registration, 0 for none
  deriving DecidableEq, Repr

/-- A registered module (R41). -/
structure Module where
  handle : W64
  job : BitVec 12
  funcs : List Func
  consts : List Byte
  deriving DecidableEq, Repr

/-- A job's registers (R316, R409, R470). -/
structure JobRegs where
  root : W64
  hmod : W64
  hfunc : W32
  route : BitVec 8
  cnts : SMap W64
  deriving DecidableEq, Repr
def JobRegs.reset : JobRegs := ⟨0, 0, 0, 0xFF, []⟩

/-- Where a Reel slot stands in its life (R381). -/
inductive SlotState where
  | empty | boarding | live | alighting
  deriving DecidableEq, Repr

/-- A Reel slot (R380), with an alight's destination while it alights. -/
structure ReelSlot where
  st : SlotState
  job : BitVec 12
  key : BitVec 52
  version : BitVec 16
  grid : Nat
  fields : List W64
  dst : W64
  done : W64
  dtid : Nat               -- team whose scratch the pointers may name
  wjob : Nat               -- whose page table translates dst
  own : Option (Nat × Nat) -- port entry of the alight: core key, request
  lost : Option Nat        -- its payload holds an error (R407)
  seams : Nat              -- seam passages counted, for reel.fence
  deriving DecidableEq, Repr
def ReelSlot.reset : ReelSlot := ⟨.empty, 0, 0, 0, 0, [0, 0, 0, 0, 0, 0, 0, 0], 0, 0, 0, 0, .none, .none, 0⟩

/-- A host interrupt raised. -/
inductive Irq where
  | doorbell                              -- R13 stage 10
  | launch (queue : BitVec 6) (seq : W32)   -- R188, R196
  | numeric (sock core bank : Nat)        -- R69
  | trapRecord (sock core : Nat) (idx : Nat)  -- R408
  | linkDown (a b : BitVec 4)             -- R327
  | doff                                  -- R430
  | dieEvent                              -- R453
  | peerLink (n : BitVec 4)               -- R333
  | hodMiss (sock core tid : Nat) (va : W64)  -- the asynchronous Hod fault of R340
  deriving DecidableEq, Repr

end Sys2Proof.Machine
end

