-- ==== Sys2Proof/Machine/State.lean ====
section
/-! DEFINITION. The machine's state, all plain data, and State.reset: the machine right after reset, before boot stage 1. -/

namespace Sys2Proof.Machine

/-- The package's bring-up, modes and trust (R13-R23). -/
structure Boot where
  mode : BitVec 2            -- PLN_MODE (R19)
  last : BitVec 8            -- PLN_BOOTREC (R14)
  fail : BitVec 8
  sock : BitVec 4
  cause : BitVec 4
  tries : BitVec 4
  valid : Bool
  ukind : BitVec 2           -- PLN_BOOTUNIT
  unit : BitVec 5
  stage : Nat                -- boot stage running; 0 when none is
  doubled : Bool             -- the stage runs with its limit doubled (R15)
  slotB : Bool               -- stage 2 loads image slot B
  pcieStep : Nat             -- lower rate or width stage 3 trains at
  imgA : Option (BitVec 256 × W32)  -- image slots: digest and version; none is the image of manufacture, version 0 (log 5)
  imgB : Option (BitVec 256 × W32)
  skips : List BootFail      -- parts this start skips
  capbase : W32
  caps : List W32            -- capability list words (R16, R474); empty before stage 10
  rollback : W32
  passes : Nat               -- passes of stage 10 by an image newer than the counter (R20)
  pkgver : W32
  romver : W32
  vers : SMap W32            -- running firmware version by socket
  digests : List (Nat × BitVec 256)  -- running image digests that differ from Config.imageDigest
  nonce : BitVec 256         -- of the last attestation request
  report : List Byte
  testReq : Bool             -- a test-mode command was accepted during the start
  exitReq : Bool             -- an accepted exit command waits for live launches to end
  recovery : Option (BitVec 256 × W32)   -- accepted recovery image
  hbmStacks : BitVec 8          -- trained HBM stacks
  tier : List Nat            -- mapped GiB of each trained tier port
  peersPresent : BitVec 16
  peersUp : BitVec 16
  io1 : Bool                 -- IO1 trained
  latSeq : W32               -- publication count of capability 0x0008 (R311)
  deriving DecidableEq, Repr

/-- A staged update of a part (R22), with the digest of its image. -/
structure Update where
  part : Part
  work : UpdWork
  digest : BitVec 256
  deriving DecidableEq, Repr

/-- An update command's completion status as the host sees it (R23). -/
inductive UpdOut where
  | refused | committed | restored | leftOut
  deriving DecidableEq, Repr

/-- A running update: whether the previous image is being retried (R22). -/
structure Updating where
  upd : Update
  retried : Bool
  deriving DecidableEq, Repr

/-- The dispatcher (R186-R216, R424, R470). -/
structure Dsp where
  mode : BitVec 2            -- DSP_PARTCFG.MODE
  queues : SMap Queue
  rrNext : Nat               -- queue at which the next round starts (R189)
  heads : SMap (BitVec 16)   -- DSP_HEADROOM_n
  working : SMap W32         -- working headroom, signed (R216)
  steer : W32
  reserve : List (Nat × Nat × Nat × Nat × Nat)  -- reservations: partition, launch, team, socket, core (R201)
  freed : List (Nat × Nat × Nat × Nat × Nat)  -- rows that became FREE since the last placement pass: socket, core, bank, row, job (R199)
  jobsel : BitVec 12
  jobs : SMap JobRegs
  restore : W64
  modules : List Module
  nextHandle : Nat
  nextLid : Nat
  nextTid : Nat
  nextOrder : Nat
  deriving DecidableEq, Repr

/-- One translation cache per class (R220): class 0 N1, 1 W2. -/
structure Cache where
  inuse : Bool
  entries : List XEntry
  claims : List Claim
  nextId : Nat
  stamp : Nat
  deriving DecidableEq, Repr
def Cache.reset : Cache := ⟨false, [], [], 0, 0⟩

/-- A removed link and the packets its table-routed flows hold (R327). -/
structure DeadLink where
  a : BitVec 4
  b : BitVec 4
  held : List Packet
  deriving DecidableEq, Repr

/-- A replica (R308) of a line in a die's slice. -/
structure Replica where
  line : Nat
  sock : Nat
  deriving DecidableEq, Repr

/-- A TLB entry (R319): job, page, die, and the core of a control-pipe L1 TLB; none for the die's L2 TLB. -/
structure TlbEntry where
  job : BitVec 12
  page : Nat
  sock : Nat
  core : Option Nat
  deriving DecidableEq, Repr

/-- A request sent and unanswered (R456). -/
structure Sent where
  sock : Nat
  core : Nat
  dest : Nat
  line : Nat
  deriving DecidableEq, Repr

/-- The Plinth (R306-R329). -/
structure Pln where
  shootva : W64
  shootctl : W32
  routes : SMap W32
  wmax : BitVec 9
  thresh : BitVec 8
  pmEn : Bool
  pmLow : BitVec 8
  pmWin : BitVec 8
  dead : List DeadLink
  packets : List Packet
  replicas : List Replica
  tlb : List TlbEntry
  sent : List Sent
  poison : List Nat          -- physical lines that hold an uncorrectable error (R407); no event of the table makes one (log 13)
  deriving DecidableEq, Repr

/-- A migration ring (R322). -/
structure MigRing where
  en : Bool
  bad : Bool
  log2n : BitVec 4
  base : W64
  head : W32
  tail : W32
  deriving DecidableEq, Repr
def MigRing.reset : MigRing := ⟨false, false, 0, 0, 0, 0⟩

/-- A migration request taken and not yet answered (R321): its ring, fields, and the bytes of the page. -/
structure MigReq where
  ring : Nat
  va : W64
  job : BitVec 12
  dest : Nat
  pa : W64
  done : W64
  size : Nat
  deriving DecidableEq, Repr

/-- A moved page whose requests are answered HELD (R324): job, address, winning side (0 device, 1 host), where it lies now, and its size. -/
structure HeldPage where
  job : BitVec 12
  va : W64
  side : Nat
  pa : Nat
  size : Nat
  deriving DecidableEq, Repr

/-- The migration arbiter (R321-R324). -/
structure Mig where
  r0 : MigRing
  r1 : MigRing
  moves : List MigReq         -- taken and not yet answered, by arrival
  held : List HeldPage
  deriving DecidableEq, Repr

/-- The Reel (R377-R397). -/
structure Reel where
  slots : SMap ReelSlot
  byp : BitVec 4
  empty : BitVec 10
  sweep : Option (BitVec 12)   -- job being swept (R396)
  blocked : List (BitVec 12)   -- jobs whose requests are not accepted
  swept : List (BitVec 8 × ReelSlot × Nat)  -- quota index, slot, old index: taken off and not yet saved
  boards : List (ReelSlot × Nat)  -- records to board again at the seam, by OLDSLOT (R397)
  nextReq : Nat
  deriving DecidableEq, Repr

/-- A job whose packets the routers divert (R436, R437): its area, where the late bin lies, the records binned and dropped, whether it is Doffed or a discard drains it, the launches by quota index (R396), and the peer copies held at IO1 by team (R441). -/
structure Doffed where
  job : BitVec 12
  area : W64
  lateOff : Nat
  nlate : Nat
  lateDrop : W32
  lateCap : Nat
  state2 : Bool
  draining : Bool
  grids : List Nat
  peers : List (Nat × List Copy)
  deriving DecidableEq, Repr

/-- The Doff engine (R430-R440). -/
structure Doff where
  ctl : W32                  -- PLN_DOFFCTL without GO
  area : W64                 -- PLN_DOFFAREA
  runArea : W64              -- the area of the operation that runs, or ran last
  busy : Bool
  phase : BitVec 3
  status : BitVec 8
  code : BitVec 16
  jobs : List Doffed
  nreel : Nat
  nnet : Nat
  teams : List Nat           -- tids of the directory, in order
  need : Nat                 -- the layout of the area (R435)
  netOff : Nat
  reelOff : Nat
  lateOff : Nat
  lateCap : Nat
  filled : Bool              -- a restore has filled its teams and boards the Reel records
  deriving DecidableEq, Repr

/-- Die warm reset (R453-R457). -/
structure DieRst where
  kind : Bool
  sock : BitVec 4
  go : Bool
  phase : BitVec 4
  dsock : BitVec 4
  status : BitVec 8
  cause : BitVec 8
  count : BitVec 8
  waiting : List (BitVec 4 × Nat × Bool)  -- socket, cause, forced
  retried : Bool
  failed : Bool
  deriving DecidableEq, Repr

/-- Coolant, tables and measured power (R459-R462). -/
structure Thm where
  kind : BitVec 2
  inlet : BitVec 8
  flow : BitVec 16
  forceAir : Bool
  table : BitVec 2
  row : BitVec 4
  raise : Option (BitVec 2 × BitVec 4 × Nat)  -- a selection that raises the cap and its evaluations held
  lost : Nat                 -- evaluations without a coolant report
  power : SMap Nat           -- measured watts of dies 0-3, 4 the package
  deriving DecidableEq, Repr

/-- An energy accumulator (R468). -/
structure Energy where
  acc : BitVec 40
  wraps : W32
  deriving DecidableEq, Repr
def Energy.reset : Energy := ⟨0, 0⟩

/-- A held energy shadow (R469). -/
structure EShadow where
  req : Requester
  sock : Nat
  high : BitVec 8
  wraps : W32
  deriving DecidableEq, Repr

/-- A held job counter shadow (R470). -/
structure JShadow where
  req : Requester
  k : Nat
  high : W32
  deriving DecidableEq, Repr

/-- What the last read of a counter register delivered, for each requester (R469, R470): the read's result. -/
structure ReadOut where
  req : Requester
  val : W32
  deriving DecidableEq, Repr

/-- The machine. -/
structure State where
  boot : Boot
  updates : List Update
  updating : Option Updating
  updLog : List (Part × UpdOut)  -- completion status of the update commands that ended, latest first (R23)
  dsp : Dsp
  cache0 : Cache             -- N1
  cache1 : Cache             -- W2
  cores : SMap Core          -- by socket × 64 + core; unlisted cores are at reset
  dies : SMap Die            -- compute dies by socket
  pln : Pln
  mem : SMap Byte            -- physical memory (R312): Host.Cell entries
  mig : Mig
  reel : Reel
  doff : Doff
  rst : DieRst
  thm : Thm
  energy : SMap Energy       -- sockets 0-5
  eshadows : List EShadow
  jshadows : List JShadow
  reads : List ReadOut
  teams : SMap Team          -- by team number
  launches : SMap Launch     -- by launch number
  irqs : List Irq            -- host interrupts raised, latest first
  agenda : List Instr        -- MODEL: the events that come next (log 1)
  cur : Option GId           -- MODEL: the group that issues (log 1)
  npc : Nat                  -- MODEL: the word after the instruction in execution
  time : Nat                 -- T of R378
  fresh : Nat                -- MODEL: free-value counter (log 4)
  deriving DecidableEq, Repr

/-- Why the model stops with a fault. -/
inductive Fault where
  /-- exec of a Flinal or native-only instruction while no group issues, or the group named is not placed: raised by every such meaning. Safe: no program can reach it, step runs such an instruction only for the group in cur. -/
  | noGroup
  deriving DecidableEq, Repr

/-- Why the model refuses. -/
inductive Refusal where
  /-- exec of an instruction that has no meaning yet, by its mnemonic. Safe. -/
  | notModelled (mnemonic : String)
  deriving DecidableEq, Repr

/-- An empty team map entry: what an unlisted team number reads as. -/
def Team.none : Team :=
  { lid := 0, idx := 0, job := 0, module := 0, sock := 0, core := 0, bank := 0, row := 0, state := .done,
    groups := [], scratch := [], priv := [], bars := [], spools := [], hod0 := .reset, hod1 := .reset,
    copies := [], streams := [], toks := [], phased := [], emitHod := [], emitMx := [], emitBanks := [], grans := [], reds := [], reelPay := .none,
    accBase := 0, acct := 0, waitRestore := false, restoreLive := 0, fenced := false, expMap := [], redEvs := [] }
/-- What an unlisted launch number reads as. -/
def Launch.none : Launch :=
  { queue := 0, seq := 0, job := 0, part := 0, prio := 0, order := 0, record := [], dies := [], logical := 0,
    started := [], events := [], status := .none, failed := false, reelHeld := 0, passed := [], deps := [],
    vfy := false, vfyReg := 0, vfyPages := 0, vfyOut := 0, live := false }

def Boot.reset : Boot :=
  { mode := 1, last := 0, fail := 0xFF, sock := 0xF, cause := 0, tries := 0, valid := false, ukind := 0, unit := 0,
    stage := 0, doubled := false, slotB := false, pcieStep := 0, imgA := none, imgB := none, skips := [], capbase := 0, caps := [],
    rollback := 0, passes := 0, pkgver := 0, romver := 0, vers := [], digests := [], nonce := 0, report := [],
    testReq := false, exitReq := false, recovery := none, hbmStacks := 0, tier := [], peersPresent := 0, peersUp := 0,
    io1 := false, latSeq := 0 }

def Dsp.reset : Dsp :=
  { mode := 0, queues := [], rrNext := 0, heads := [], working := [], steer := 4, reserve := [], freed := [], jobsel := 0,
    jobs := [], restore := 0, modules := [], nextHandle := 1, nextLid := 0, nextTid := 0, nextOrder := 0 }

def Pln.reset : Pln :=
  { shootva := 0, shootctl := 0, routes := [], wmax := 256, thresh := 48, pmEn := true, pmLow := 20, pmWin := 16,
    dead := [], packets := [], replicas := [], tlb := [], sent := [], poison := [] }

def Reel.reset : Reel := ⟨[], 0, 0, none, [], [], [], 0⟩

def Doff.reset : Doff :=
  { ctl := 0, area := 0, runArea := 0, busy := false, phase := 0, status := 0, code := 0, jobs := [], nreel := 0, nnet := 0, teams := [],
    need := 0, netOff := 0, reelOff := 0, lateOff := 0, lateCap := 0, filled := false }

def DieRst.reset : DieRst := ⟨false, 0, false, 0, 0, 0, 0, 0, [], false, false⟩

def Thm.reset : Thm := ⟨0, 0, 0, false, 0, 0, none, 0, []⟩

/-- The machine right after reset, at power-on before stage 1 of R13: start-up mode (R19), every register at its reset value, no part trained, no memory listed; values the spec does not give are those of log 5. -/
def State.reset : State :=
  { boot := .reset, updates := [], updating := none, updLog := [], dsp := .reset, cache0 := .reset, cache1 := .reset, cores := [],
    dies := [], pln := .reset, mem := [], mig := ⟨.reset, .reset, [], []⟩, reel := .reset, doff := .reset,
    rst := .reset, thm := .reset, energy := [], eshadows := [], jshadows := [], reads := [], teams := [],
    launches := [], irqs := [], agenda := [], cur := none, npc := 0, time := 0, fresh := 0 }

end Sys2Proof.Machine
end

