-- ==== Sys2Proof/Machine/Mem.lean ====
section
/-! DEFINITION. Memory: state accessors, launch record fields, the physical map (R312), the page walk (R316-R318), windows and the checks of R147, and reads and writes of bytes. The model performs every access at home at once (log 8). -/

namespace Sys2Proof.Machine

-- state accessors ------------------------------------------------------------

def State.team (s : State) (tid : Nat) : Team := SMap.get Team.none s.teams tid
def State.setTeam (s : State) (tid : Nat) (t : Team) : State := { s with teams := SMap.put Team.none s.teams tid t }
def State.launch (s : State) (lid : Nat) : Launch := SMap.get Launch.none s.launches lid
def State.setLaunch (s : State) (lid : Nat) (l : Launch) : State := { s with launches := SMap.put Launch.none s.launches lid l }
/-- The key of a core in State.cores. -/
def coreKey (sock core : Nat) : Nat := sock * 64 + core
def State.core (s : State) (sock core : Nat) : Core := SMap.get Core.reset s.cores (coreKey sock core)
def State.setCore (s : State) (sock core : Nat) (c : Core) : State :=
  { s with cores := SMap.put Core.reset s.cores (coreKey sock core) c }
def State.die (s : State) (sock : Nat) : Die := SMap.get Die.reset s.dies sock
def State.setDie (s : State) (sock : Nat) (d : Die) : State := { s with dies := SMap.put Die.reset s.dies sock d }
def State.bay (s : State) (sock bay : Nat) : Bay :=
  SMap.get Bay.reset (s.die sock).bays bay
def State.setBay (s : State) (sock bay : Nat) (b : Bay) : State :=
  let d := s.die sock
  s.setDie sock { d with bays := SMap.put Bay.reset d.bays bay b }
def Core.bank (c : Core) (b : Nat) : Bank := if b = 0 then c.b0 else c.b1
def Core.setBank (c : Core) (b : Nat) (k : Bank) : Core := if b = 0 then { c with b0 := k } else { c with b1 := k }
def State.queue (s : State) (n : Nat) : Queue := SMap.get Queue.reset s.dsp.queues n
def State.setQueue (s : State) (n : Nat) (q : Queue) : State :=
  { s with dsp := { s.dsp with queues := SMap.put Queue.reset s.dsp.queues n q } }
def State.job (s : State) (j : Nat) : JobRegs := SMap.get JobRegs.reset s.dsp.jobs j
def State.setJob (s : State) (j : Nat) (r : JobRegs) : State :=
  { s with dsp := { s.dsp with jobs := SMap.put JobRegs.reset s.dsp.jobs j r } }
/-- Counts n in counter k of a job (R470). -/
def State.jobCount (s : State) (j k n : Nat) : State :=
  let r := s.job j
  s.setJob j { r with cnts := SMap.put 0 r.cnts k (SMap.get 0 r.cnts k + BitVec.ofNat 64 n) }
def State.irq (s : State) (i : Irq) : State := { s with irqs := i :: s.irqs }
def State.module (s : State) (h : W64) : Option Module := s.dsp.modules.find? fun m => m.handle == h

/-- Replaces element n of a list. -/
def setAt {α : Type} (l : List α) (n : Nat) (x : α) : List α := l.set n x

/-- A group of the package, if its team holds it. -/
def State.group (s : State) (gid : GId) : Option Group := (s.team gid.tid).groups[gid.g]?
def State.setGroup (s : State) (gid : GId) (g : Group) : State :=
  let t := s.team gid.tid
  s.setTeam gid.tid { t with groups := setAt t.groups gid.g g }

/-- Whether a job is away: an operation of the Doff engine acts on it, or it is Doffed (R436, R440). -/
def State.away (s : State) (job : BitVec 12) : Bool := (s.doff.busy && s.doff.ctl.setWidth 12 == job) || s.doff.jobs.any fun d => d.job == job
/-- Whether a Doff of a job runs: its groups stop with no handler entry (R436). -/
def State.halting (s : State) (job : BitVec 12) : Bool := s.doff.busy && fieldNat s.doff.ctl.toNat 30 28 == 1 && s.doff.ctl.setWidth 12 == job

-- little-endian fields -------------------------------------------------------

/-- n bytes at offset o of a record, as a number (R8). -/
def fld (r : List Byte) (o n : Nat) : Nat := leNat ((r.drop o).take n)
/-- Writes x as n bytes at offset o of a record. -/
def setFld (r : List Byte) (o n x : Nat) : List Byte := r.take o ++ natLe x n ++ r.drop (o + n)
/-- Whether n bytes at offset o are zero. -/
def zeroAt (r : List Byte) (o n : Nat) : Bool := ((r.drop o).take n).all (· == 0)

-- the launch record (R190) ---------------------------------------------------

def Launch.flags (l : Launch) : Nat := fld l.record 2 2
def Launch.det (l : Launch) : Bool := l.flags % 2 == 1
def Launch.exportOk (l : Launch) : Bool := l.flags / 2 % 2 == 1
def Launch.acct (l : Launch) : Nat := fld l.record 6 1
def Launch.module (l : Launch) : W64 := BitVec.ofNat 64 (fld l.record 8 8)
def Launch.kernel (l : Launch) : Nat := fld l.record 16 4
def Launch.gx (l : Launch) : Nat := fld l.record 24 4
def Launch.gy (l : Launch) : Nat := fld l.record 28 4
def Launch.gz (l : Launch) : Nat := fld l.record 32 4
def Launch.teams (l : Launch) : Nat := l.gx * l.gy * l.gz
def Launch.expBase (l : Launch) : Nat := fld l.record 40 8
def Launch.done (l : Launch) : Nat := fld l.record 48 8
def Launch.slot (l : Launch) (n : Nat) : Slot := Slot.ofBytes ((l.record.drop (320 + 16 * n)).take 16)
def Launch.groups (l : Launch) : Nat := fld l.record 448 1
def Launch.nroles (l : Launch) : Nat := fld l.record 449 1
def Launch.nspool (l : Launch) : Nat := fld l.record 450 1
def Launch.nparam (l : Launch) : Nat := fld l.record 451 1
def Launch.scratch (l : Launch) : Nat := fld l.record 452 4
def Launch.priv (l : Launch) : Nat := fld l.record 456 4
def Launch.reelq (l : Launch) : Nat := fld l.record 460 4
def Launch.rwset (l : Launch) : Nat := fld l.record 464 8

-- the physical map (R312) ----------------------------------------------------

/-- How many of eight bits are set. -/
def popc8 (x : BitVec 8) : Nat := ((List.range 8).filter fun i => x.getLsbD i).length
def gib : Nat := 2 ^ 30
/-- Bytes of HBM present: 64 GiB a stack. -/
def State.hbmSize (s : State) : Nat := popc8 s.boot.hbmStacks * (64 * gib)
/-- The reserved range (R36): the top 32 GiB of present HBM. -/
def State.reserved (s : State) (pa : Nat) : Bool := decide (s.hbmSize ≤ pa + 32 * gib ∧ pa < s.hbmSize)
def tierBase : Nat := 0x080000000000
/-- Bytes of tier memory mapped, at most 4 TiB. -/
def State.tierSize (s : State) : Nat := min (s.boot.tier.foldl (· + ·) 0) 4096 * gib
def hostBase : Nat := 0x100000000000
def hostEnd : Nat := 0x200000000000
def State.isHbm (s : State) (pa : Nat) : Bool := decide (pa < s.hbmSize)
def State.isTier (s : State) (pa : Nat) : Bool := decide (tierBase ≤ pa ∧ pa < tierBase + s.tierSize)
def isHost (pa : Nat) : Bool := decide (hostBase ≤ pa ∧ pa < hostEnd)
/-- Whether an address lies in the ranges of R312. -/
def State.paOk (s : State) (pa : Nat) : Bool := s.isHbm pa || s.isTier pa || isHost pa

-- the page walk (R316-R318) --------------------------------------------------

/-- What an access does (R147). -/
inductive Acc where
  | read | write | rw
  deriving DecidableEq, Repr
def Acc.writes : Acc → Bool
  | .read => false
  | _ => true

/-- The outcome of a walk: a final address (R317), a wait on a page being moved (R318), a peer page, or the fault of checks 5-8. -/
inductive Walk where
  | ok (fa : Nat) | wait | peer (pa link : Nat) | fault (code : Nat)
  deriving DecidableEq, Repr

/-- The permutation of SWZ[1:0] (R317). -/
def swizzle (swz pa : Nat) : Nat :=
  match swz % 4 with
  | 0 => pa
  | 1 => pa ^^^ (fieldNat pa 14 12 <<< 7)
  | 2 => pa ^^^ (fieldNat pa 15 12 <<< 7)
  | _ => pa ^^^ (fieldNat pa 20 16 <<< 7)

/-- The levels of R316: highest and lowest VA bit, and the alignment of the next table (log 2 of its bytes). -/
def levels : List (Nat × Nat × Nat) := [(51, 42, 15), (41, 30, 12), (29, 21, 8), (20, 16, 0)]

/-- Bits [hi:lo] of an entry. -/
def entryAddr (e : Nat) : Nat := fieldNat e 51 8 * 256

/-- Whether a leaf entry for a page of 2^k bytes is valid (R317). -/
def State.leafOk (s : State) (e k : Nat) : Bool :=
  let peer := fieldNat e 4 4 == 1
  let swz := fieldNat e 59 56
  let addr := entryAddr e
  fieldNat e 55 52 == 0 && fieldNat e 6 5 != 3 && addr % 2 ^ k == 0
  && (peer || fieldNat e 63 60 == 0)
  && (if peer then swz == 0
      else s.paOk addr && s.paOk (addr + 2 ^ k - 1) && (swz == 0 || s.isHbm addr))

/-- Walks the remaining levels from table tbl. found is called on a valid leaf: its entry and page size. -/
def State.walkGo (s : State) (va : Nat) (found : Nat → Nat → Walk) : List (Nat × Nat × Nat) → Nat → Walk
  | [], _ => .fault Code.pageMiss
  | (hi, lo, next) :: rest, tbl =>
    let e := leNat (SMap.bytes s.mem (tbl + 8 * fieldNat va hi lo) 8)
    let leaf := fieldNat e 1 1 == 1
    let peer := leaf && fieldNat e 4 4 == 1
    if fieldNat e 0 0 = 0 then .fault Code.pageMiss
    else if !peer && s.reserved (entryAddr e) then .fault Code.spillAccess
    else if leaf then
      (if next = 15 || !s.leafOk e lo then .fault Code.pageMiss else found e lo)
    else if next = 0 || fieldNat e 7 2 != 0 || fieldNat e 63 52 != 0 || entryAddr e % 2 ^ next != 0 || !s.paOk (entryAddr e) then
      .fault Code.pageMiss
    else State.walkGo s va found rest (entryAddr e)

/-- What a valid leaf gives an access: wait while it moves, then checks 7 and 8, then the final address. -/
def leafAccess (acc : Acc) (va e k : Nat) : Walk :=
  let r := fieldNat e 2 2 == 1
  let w := fieldNat e 3 3 == 1
  let permitted := r && (!acc.writes || w)
  if fieldNat e 7 7 = 1 then .wait
  else if !permitted then .fault Code.pagePerm
  else if fieldNat e 4 4 = 1 then .peer (entryAddr e + va % 2 ^ k) (fieldNat e 63 60)
  else .ok (swizzle (fieldNat e 59 56) (entryAddr e + va % 2 ^ k))

/-- The walk of a job's tables for one address (R316-R318). -/
def State.walk (s : State) (job : Nat) (acc : Acc) (va : Nat) : Walk :=
  let root := (s.job job).root.toNat
  if root / 2 ^ 63 = 0 then .fault Code.pageMiss
  else s.walkGo (va % 2 ^ 52) (leafAccess acc (va % 2 ^ 52)) levels (fieldNat root 51 13 * 8192)

/-- What a leaf gives that is kept for a page: its physical 64 KiB page and permutation. -/
def pageLeaf (acc : Acc) (va e k : Nat) : Walk :=
  match leafAccess acc va e k with
  | .ok _ => .ok ((entryAddr e + va % 2 ^ k) / 65536 * 4 + fieldNat e 59 56 % 4)
  | w => w
/-- A walk whose translation is kept: fixed at setup (R211), or from a command's acceptance (R171). -/
def State.pageWalk (s : State) (job : Nat) (acc : Acc) (va : Nat) : Walk :=
  let root := (s.job job).root.toNat
  if root / 2 ^ 63 = 0 then .fault Code.pageMiss
  else s.walkGo (va % 2 ^ 52) (pageLeaf acc (va % 2 ^ 52)) levels (fieldNat root 51 13 * 8192)
/-- The final address that a kept translation gives (R317). -/
def keptAddr (kept va : Nat) : Nat := swizzle (kept % 4) (kept / 4 * 65536 + va % 65536)

-- windows and checks (R34, R147) ---------------------------------------------

/-- Who accesses memory: the job whose tables translate, the team, the group and lane, the private bytes a lane has, and the translations it keeps, by 64 KiB page, each plus 1 (R171). -/
structure Who where
  job : Nat
  tid : Nat
  g : Nat
  lane : Nat
  privSize : Nat
  map : SMap Nat
  deriving DecidableEq, Repr

/-- The window of an address (R34). -/
inductive WinKind where
  | global | const | scratch | priv | none
  deriving DecidableEq, Repr
def winOf (a : W64) : WinKind :=
  match a.toNat / 2 ^ 56 with
  | 0x00 => if a.toNat / 2 ^ 52 = 0 then .global else .none
  | 0xFD => .const
  | 0xFE => .scratch
  | 0xFF => .priv
  | _ => .none
/-- The offset of an address in its window: bits [55:0]. -/
def offOf (a : W64) : Nat := a.toNat % 2 ^ 56

/-- The constants an accessor sees, at most 16 MiB (R34): its team's module's, or, for a group's own accesses in its handler, those of the handler's module (R409, R410). -/
def State.consts (s : State) (w : Who) : List Byte :=
  let t := s.team w.tid
  let handling := w.job == 0 && (match t.groups[w.g]? with | some g => g.saved.isSome | none => false)
  match s.module (if handling then (s.job t.job.toNat).hmod else t.module) with
  | none => []
  | some m => m.consts.take (16 * 2 ^ 20)

/-- The size of a window for an accessor (R34). -/
def State.winSize (s : State) (w : Who) : WinKind → Nat
  | .global => 2 ^ 52
  | .const => (s.consts w).length
  | .scratch => (s.launch (s.team w.tid).lid).scratch
  | .priv => w.privSize
  | .none => 0

/-- The outcome of the checks of R147. -/
inductive Chk where
  | ok | wait | fault (code : Nat)
  deriving DecidableEq, Repr

/-- The first page of a list at which a walk does not give an address (R475). -/
def State.checkPages (s : State) (job : Nat) (acc : Acc) (peerOk : Bool) : List Nat → Chk
  | [] => .ok
  | va :: rest =>
    match s.walk job acc va with
    | .ok _ => State.checkPages s job acc peerOk rest
    | .wait => .wait
    | .peer _ _ => if peerOk then State.checkPages s job acc peerOk rest else .fault Code.peerAccess
    | .fault c => .fault c

/-- One address in each 64 KiB page that n bytes from va touch, in ascending order. -/
def pagesOf (va n : Nat) : List Nat :=
  if n = 0 then []
  else va :: ((List.range ((va + n - 1) / 65536 - va / 65536)).map fun i => (va / 65536 + i + 1) * 65536)

/-- Checks 1-4 of R147 for n bytes with the given alignment. -/
def State.check14 (s : State) (w : Who) (acc : Acc) (a : W64) (n align : Nat) : Option Nat :=
  let k := winOf a
  if k = .none then some Code.addrWindow
  else if s.winSize w k < offOf a + n ∨ s.winSize w k ≤ offOf a then some Code.addrRange
  else if a.toNat % align ≠ 0 then some Code.addrAlign
  else if k = .const && acc.writes then some Code.addrWrite
  else none

/-- The checks of R147 for n bytes as one object (R475). -/
def State.check (s : State) (w : Who) (acc : Acc) (a : W64) (n align : Nat) : Chk :=
  match s.check14 w acc a n align with
  | some c => .fault c
  | none => if winOf a = .global then s.checkPages w.job acc false (pagesOf a.toNat n) else .ok

-- bytes ----------------------------------------------------------------------

/-- The address in the job's global memory of a private byte with EXPORT = 1, by the translation fixed at setup (R211). -/
def State.expAddr (s : State) (w : Who) (off : Nat) : Nat :=
  let t := s.team w.tid
  let l := s.launch t.lid
  let va := l.expBase + ((t.idx * l.groups + w.g) * 32 + w.lane) * l.priv + off
  keptAddr (SMap.get 0 t.expMap (va / 65536)) va

/-- The translation an accessor uses for a global address: one it keeps, else the walk of its job's tables. -/
def State.walkAs (s : State) (w : Who) (acc : Acc) (va : Nat) : Walk :=
  match SMap.get 0 w.map (va / 65536) with
  | 0 => s.walk w.job acc va
  | n + 1 => .ok (keptAddr n va)

/-- The byte at an address that passed its checks; a byte that no page maps reads as zero and is never asked for. -/
def State.byteAt (s : State) (w : Who) (a : W64) : Byte :=
  match winOf a with
  | .global =>
    match s.walkAs w .read a.toNat with
    | .ok fa => SMap.get 0 s.mem fa
    | _ => 0
  | .const => (s.consts w).getD (offOf a) 0
  | .scratch => SMap.get 0 (s.team w.tid).scratch (offOf a)
  | .priv =>
    if (s.launch (s.team w.tid).lid).exportOk then SMap.get 0 s.mem (s.expAddr w (offOf a))
    else SMap.get 0 (s.team w.tid).priv ((w.g * 32 + w.lane) * (s.launch (s.team w.tid).lid).priv + offOf a)
  | .none => 0

/-- Writes one byte at physical address fa, dropping the line's replicas (R308). -/
def State.putPhys (s : State) (fa : Nat) (b : Byte) : State :=
  { s with mem := SMap.put 0 s.mem fa b,
           pln := { s.pln with replicas := s.pln.replicas.filter fun r => r.line != fa / 128 } }

/-- Writes the byte at an address that passed its checks. -/
def State.putByte (s : State) (w : Who) (a : W64) (b : Byte) : State :=
  match winOf a with
  | .global =>
    match s.walkAs w .write a.toNat with
    | .ok fa => s.putPhys fa b
    | _ => s
  | .const => s
  | .scratch => let t := s.team w.tid; s.setTeam w.tid { t with scratch := SMap.put 0 t.scratch (offOf a) b }
  | .priv =>
    if (s.launch (s.team w.tid).lid).exportOk then s.putPhys (s.expAddr w (offOf a)) b
    else
      let t := s.team w.tid
      s.setTeam w.tid { t with priv := SMap.put 0 t.priv ((w.g * 32 + w.lane) * (s.launch t.lid).priv + offOf a) b }
  | .none => s

/-- n bytes from an address. -/
def State.getBytes (s : State) (w : Who) (a : W64) : Nat → List Byte
  | 0 => []
  | n + 1 => s.byteAt w a :: State.getBytes s w (a + 1) n

/-- Writes bytes from an address. -/
def State.putBytes (s : State) (w : Who) (a : W64) : List Byte → State
  | [] => s
  | b :: bs => State.putBytes (s.putByte w a b) w (a + 1) bs

/-- The size of a type in memory (R145). -/
def Ty.memSize : Ty → Nat
  | .void => 0
  | .i1 => 1
  | .i8 => 1
  | .f8e4 => 1
  | .f8e5 => 1
  | .i16 => 2
  | .f16 => 2
  | .bf16 => 2
  | .i32 => 4
  | .f32 => 4
  | .i64 => 8
  | .f64 => 8
  | .ptr => 8
  | .hnd => 8
  | .q4 => 8

/-- The value that bytes of memory give a type: bit 0 of an i1's byte (R47), the low 44 bits of a q4 (R145). -/
def ofMem (t : Ty) (bs : List Byte) : Lane := BitVec.ofNat 64 (leNat bs % 2 ^ t.bits)
/-- The bytes a value stores (R145). -/
def toMem (t : Ty) (v : Lane) : List Byte := natLe (v.toNat % 2 ^ t.bits) (Ty.memSize t)

/-- Whether an accepted matrix command still uses its translation of a page of a job from page number lo on (R320): n pages, or with all every one. -/
def State.inUse (s : State) (job : Nat) (all : Bool) (lo n : Nat) : Bool :=
  s.cores.any fun p => [p.2.b0, p.2.b1].any fun b => b.queue.any fun c =>
    c.job == job && c.map.any fun e => all || decide (lo ≤ e.1 ∧ e.1 < lo + n)

-- home slices (R307, R308) ---------------------------------------------------

/-- L2 slices of a compute die (R3). -/
def slicesOf (sock : Nat) : Nat := if sock < 2 then 16 else if sock < 4 then 8 else 0
/-- Whether a compute die is in service. -/
def State.inService (s : State) (sock : Nat) : Bool := (s.die sock).present && !(s.die sock).inReset
/-- Whether a die's slices are in S (R307): they leave it in phase 3 of its warm reset and come back at re-admission (R455). -/
def State.inS (s : State) (sock : Nat) : Bool :=
  (s.die sock).present && !((s.die sock).inReset && s.rst.dsock.toNat == sock && decide (3 ≤ s.rst.phase.toNat ∧ s.rst.phase.toNat ≤ 6))
/-- A write in a compute die's management window (R2, R456): an absent die, and one from phase 3 to phase 6 of its warm reset, gives an error completion and does nothing (log 28). -/
def State.atDie (s : State) (sock : Nat) (t : State) : State := if s.inS sock then t else s
/-- What a host command leaves (R15): recovery mode accepts a signed package image only, and no other command, module or queue (DEDUCED, log 40). -/
def State.atHost (s : State) (t : State) : State := if s.boot.mode = 3 then s else t
/-- Whether the host's kernels run through the launch queues (R19): in normal and test mode. -/
def State.hostRuns (s : State) : Bool := s.boot.mode == 0 || s.boot.mode == 2
/-- The list S of R307: socket and slice. -/
def State.slices (s : State) : List (Nat × Nat) :=
  [0, 1, 2, 3].flatMap fun k => if s.inS k then (List.range (slicesOf k)).map fun i => (k, i) else []
/-- The home slice of a physical line. -/
def State.home (s : State) (pa : Nat) : Option (Nat × Nat) := s.slices[(pa / 128) % s.slices.length]?

end Sys2Proof.Machine
end

