-- ==== Sys2Proof/Machine/Ops.lean ====
section
/-! DEFINITION. Named operations over a group: values and functions, ends of instructions and courses, stops and the taking of an exception (R404-R411), divergence (R135-R137), retirement (R466), barrier phases (R364-R369), numeric counts (R68, R69). -/

namespace Sys2Proof.Machine

-- functions and value numbers (R24-R28, R43) ---------------------------------

/-- The types of the values an instruction defines (R26); a call's second result takes the callee's type and is counted as void here. -/
def defTys : Instr → List Ty
  | .blk tys => tys
  | .call h two _ _ _ => if h.ty = .void then [] else if two then [h.ty, .void] else [h.ty]
  | .add h _ _ _ | .sub h _ _ _ | .mul h _ _ _ | .mad h _ _ _ | .div h _ _ _ | .rem h _ _ _ | .neg h _ _ | .abs h _ _ => [h.ty]
  | .min h _ _ _ | .max h _ _ _ | .and h _ _ | .or h _ _ | .xor h _ _ | .andn h _ _ | .not h _ | .shl h _ _ | .shr h _ _ _ => [h.ty]
  | .rot h _ _ _ | .popc h _ | .clz h _ | .ctz h _ | .brev h _ | .bfx h _ _ _ _ | .bfi h _ _ _ _ | .sel h _ _ _ | .const h _ => [h.ty]
  | .ext h _ _ | .trunc h _ | .ptoi h _ | .itop h _ | .ptrIdx h _ _ _ _ => [h.ty]
  | .divrem h _ _ _ => [h.ty, h.ty]
  | .addc h _ _ _ | .subb h _ _ _ => [h.ty, .i1]
  | .cmp _ _ _ _ | .cmpFloat _ _ _ _ | .class _ _ _ => [.i1]
  | .addFloat h _ _ _ | .subFloat h _ _ _ | .mulFloat h _ _ _ | .fma h _ _ _ _ | .divFloat h _ _ _ | .sqrt h _ _ | .rcp h _ => [h.ty]
  | .rsqrt h _ | .minFloat h _ _ | .maxFloat h _ _ | .negFloat h _ | .absFloat h _ | .copysign h _ _ | .rint h _ _ => [h.ty]
  | .exp2 h _ | .log2 h _ | .sin h _ | .cos h _ | .tanh h _ | .sigm h _ => [h.ty]
  | .amax h _ _ _ _ | .amin h _ _ _ _ | .xamax h _ _ _ => [h.ty, .i32]
  | .cvt h _ _ _ _ | .cvtSlot h _ _ _ | .q4Pack h _ _ _ | .q4Unpack h _ _ _ _ | .q4Make h _ _ | .q4Elem h _ | .q4Scale h _ => [h.ty]
  | .bitcast h _ | .shfl h _ _ _ | .vote h _ _ | .scan h _ _ _ | .xred h _ _ | .first h _ | .active h => [h.ty]
  | .ld h _ _ _ _ | .ldk h _ _ _ _ _ | .gather h _ _ _ _ _ _ | .ptrExport h _ _ | .ptrCast h _ _ _ => [h.ty]
  | .atom h _ _ _ _ _ _ | .cas h _ _ _ _ _ _ | .bar h _ _ _ | .barArrive h _ _ _ | .barWaitTimed h _ _ _ | .xbWaitTimed h _ _ => [h.ty]
  | .spoolClaim h _ | .spoolWaitfilled h _ | .hodBind h _ _ | .sread h _ | .reelBoard h _ _ | .reelCapture h _ _ _ _ _ _ _ => [h.ty]
  | .mxLdst h _ _ | .mxStream h _ _ | .mxStreamBound h _ _ _ | .mxSpgather h _ _ | .mxCompress h _ _ | .mxDrain h _ _ | .mxDrainAdd h _ _ => [h.ty]
  | .doffIssue h _ _ | .rdctr h _ | .rdcap h _ => [h.ty]
  | _ => []

/-- The type that a special has of itself (R30); none for the reserved ones; void for %zero and %ones. -/
def specialTy (n : Nat) : Option Ty :=
  if n < 0xFFE8 then some .i32
  else if n < 0xFFEB then some .ptr
  else if 0xFFFE ≤ n then some .void
  else none

/-- An instruction of a function: word offset, length, and the number its first result takes (R26). -/
structure Item where
  word : Nat
  len : Nat
  instr : Instr
  val : Nat

/-- The instructions of a function's words, to the first word that does not decode. -/
def itemsGo : Nat → List W32 → Nat → Nat → List Item
  | 0, _, _, _ => []
  | n + 1, ws, pos, val =>
    match decodeCore ws with
    | .ok d => ⟨pos, d.len, d.instr, val⟩ :: itemsGo n (ws.drop d.len) (pos + d.len) (val + (defTys d.instr).length)
    | .error _ => []
def items (ws : List W32) : List Item := itemsGo ws.length ws 0 0

/-- A block (R28): its blk's word, the first argument's number, the argument types. -/
structure BlockInfo where
  word : Nat
  val : Nat
  tys : List Ty

def blocksOf : List Item → List BlockInfo
  | [] => []
  | it :: rest =>
    match it.instr with
    | .blk tys => ⟨it.word, it.val, tys⟩ :: blocksOf rest
    | _ => blocksOf rest

/-- A function of a module by index. -/
def State.func (s : State) (h : W64) (i : Nat) : Option Func :=
  match s.module h with
  | none => none
  | some m => m.funcs[i]?

/-- The module a group runs: its team's, or the handler module of its job while its handler runs (R409, R410). -/
def State.modOf (s : State) (gid : GId) (g : Group) : W64 :=
  let t := s.team gid.tid
  if g.saved.isSome then (s.job t.job.toNat).hmod else t.module

/-- The words of a frame's function. -/
def State.wordsOf (s : State) (gid : GId) (g : Group) (f : Nat) : List W32 :=
  match s.func (s.modOf gid g) f with
  | none => []
  | some fn => fn.words

/-- The number the instruction at a word gives its first result (R26). -/
def valueAt (ws : List W32) (word : Nat) : Nat :=
  if word = 0 then 0
  else match (items ws).find? fun it => it.word == word with
    | some it => it.val
    | none => 0

/-- The innermost frame. -/
def Group.frame (g : Group) : Frame := g.frames.headD ⟨0, 0, 0, [], 0, []⟩
def Group.setFrame (g : Group) (f : Frame) : Group := { g with frames := f :: g.frames.drop 1 }
/-- The call depth: frames above the kernel's (or the handler's). -/
def Group.depth (g : Group) : Nat := g.frames.length - 1
/-- Whether the group is in its handler. -/
def Group.inHandler (g : Group) : Bool := g.saved.isSome

-- lanes ----------------------------------------------------------------------

def lanes32 : List Nat := List.range 32
/-- The active lanes in ascending order. -/
def lanesOf (m : Mask) : List Nat := lanes32.filter fun l => m.getLsbD l
/-- lowest(m) of R89's helpers; 0 for an empty mask. -/
def lowest (m : Mask) : Nat := (lanesOf m).headD 0
/-- The mask of a list of lanes. -/
def maskOf : List Nat → Mask
  | [] => 0
  | l :: ls => maskOf ls ||| ((1 : Mask) <<< l)
/-- A lane's copy. -/
def laneAt (v : List Lane) (l : Nat) : Lane := v.getD l 0
/-- New copies in the lanes of m, the old ones elsewhere (R89). -/
def mergeLanes (m : Mask) (old new : List Lane) : List Lane :=
  lanes32.map fun l => if m.getLsbD l then laneAt new l else laneAt old l

/-- Writes value n of the innermost frame in the lanes of m. -/
def Group.setVal (g : Group) (n : Nat) (t : Ty) (m : Mask) (new : List Lane) : Group :=
  let f := g.frame
  let old := SMap.get Val.undef f.vals n
  g.setFrame { f with vals := SMap.put Val.undef f.vals n ⟨t, mergeLanes m old.lanes new, none⟩ }

/-- Adds the events of an instruction to the running course's counts, one a class (R67). -/
def addEvs (evs : List Nat) (e : Ev) : List Nat :=
  (List.range 8).map fun n => evs.getD n 0 + (if e.getLsbD n then 1 else 0)

-- the running group ----------------------------------------------------------

/-- Runs a meaning for the group that issues. -/
def withCur (s : State) (f : GId → Group → State) : Host.Outcome State Fault Refusal :=
  match s.cur with
  | none => .fault .noGroup
  | some gid =>
    match s.group gid with
    | none => .fault .noGroup
    | some g => .next (f gid g)

/-- Who a lane of a group is to memory: in a handler, job 0's tables and no private memory (R410). -/
def State.who (s : State) (gid : GId) (g : Group) (lane : Nat) : Who :=
  let t := s.team gid.tid
  if g.inHandler then ⟨0, gid.tid, gid.g, lane, 0, []⟩
  else ⟨t.job.toNat, gid.tid, gid.g, lane, (s.launch t.lid).priv, []⟩

/-- The issuing group stops issuing; its end of course follows (R37, R260). -/
def State.endCourse (s : State) (gid : GId) : State :=
  { s with cur := none, agenda := .courseEnd gid :: s.agenda }

/-- An instruction is done: the point moves to the next word, and with CE the course ends. On the native level the bundle moves the point. -/
def State.advance (s : State) (gid : GId) (g : Group) (ce : Bool) : State :=
  if g.nat.on then s.setGroup gid g
  else
    let s' := s.setGroup gid (g.setFrame { g.frame with word := s.npc })
    if ce then s'.endCourse gid else s'

/-- An issue of a group ends (R288): it is settled for its quad's open meeting, the first, unless it arrived there (R293). -/
def State.issueDone (s : State) (gid : GId) : State :=
  let t := s.team gid.tid
  let c := s.core t.sock t.core
  match c.meetings.findIdx? fun m => m.tid == gid.tid && m.quad == gid.g / 4 with
  | none => s
  | some k =>
    let one (p : Nat × Meeting) : Meeting := if p.1 == k && !(p.2.arrived.contains gid.g) then { p.2 with issued := gid.g :: p.2.issued } else p.2
    s.setCore t.sock t.core { c with meetings := ((List.range c.meetings.length).zip c.meetings).map one }
/-- A waiting instruction whose condition is not met: the group parks at its point (R279), and its issue ends. -/
def State.park (s : State) (gid : GId) (g : Group) : State :=
  { (s.setGroup gid { g with status := .wait }).issueDone gid with cur := none }

-- stops (R404-R411) ----------------------------------------------------------

/-- No lane (R408). -/
def noLane : W32 := 0xFFFFFFFF

/-- Stops a group with a trap at its point: the stop drains, then is reported (R405, R406). A running lane mask and every value stay as they were. -/
def State.stopGroup (s : State) (gid : GId) (g : Group) (t : Trap) : State :=
  let s' := s.setGroup gid { g with status := .stopping, trap := some t }
  { s' with cur := if s.cur = some gid then none else s.cur, agenda := .faultDrainDone gid :: s.agenda }

/-- Raises a fault for a group at its point: code, lane, DETAIL0, DETAIL1. -/
def State.raise (s : State) (gid : GId) (g : Group) (code : Nat) (lane : W32) (d0 : W64) (d1 : W32) : State :=
  s.stopGroup gid g
    { code := code, reason := if Code.cls code = 5 then 2 else if Code.cls code = 6 then 3 else 1, lane := lane, d0 := d0,
      d1 := d1, word := g.frame.word, func := g.frame.func, double := g.inHandler, opn := false }

/-- The word of a group's point (R240, R241): the first instruction of a course that begins at a block's header stands after it. -/
def State.pointWord (s : State) (gid : GId) (g : Group) : Nat :=
  if g.nat.on then g.frame.word
  else match decodeCore ((s.wordsOf gid g g.frame.func).drop g.frame.word) with
    | .ok d => (match d.instr with | .blk _ => g.frame.word + d.len | _ => g.frame.word)
    | .error _ => g.frame.word

/-- Raises a fault that arises before a course begins, at the group's point. -/
def State.raisePoint (s : State) (gid : GId) (g : Group) (code : Nat) (lane : W32) (d0 : W64) (d1 : W32) : State :=
  s.stopGroup gid g
    { code := code, reason := if Code.cls code = 5 then 2 else if Code.cls code = 6 then 3 else 1, lane := lane, d0 := d0,
      d1 := d1, word := s.pointWord gid g, func := g.frame.func, double := g.inHandler, opn := false }

/-- Raises a fault that names no lane and no detail. -/
def State.fail (s : State) (gid : GId) (g : Group) (code : Nat) : State := s.raise gid g code noLane 0 0

/-- A vector register's elements (R249). -/
def NatWin.vec (w : NatWin) (n : Nat) : List (BitVec 32) := SMap.get (List.replicate 32 (0 : BitVec 32)) w.v n
/-- A scalar register. -/
def NatWin.scalar (w : NatWin) (n : Nat) : W64 := SMap.get 0 w.s n
/-- A register written is lost no more. -/
def NatWin.found (w : NatWin) (f : RegFile) (n : Nat) : NatWin :=
  { w with lost := w.lost.filter (fun l => !(l.1 == f && l.2.1 == n)) }
/-- Writes vector register n in the lanes of m. -/
def NatWin.putVec (w : NatWin) (n : Nat) (m : Mask) (new : List (BitVec 32)) : NatWin :=
  let old := w.vec n
  { w.found .vec n with v := SMap.put (List.replicate 32 (0 : BitVec 32)) w.v n
                               (lanes32.map (fun l => if m.getLsbD l then new.getD l 0 else old.getD l 0)) }
def NatWin.putScalar (w : NatWin) (n : Nat) (x : W64) : NatWin := { w.found .scalar n with s := SMap.put 0 w.s n x }
/-- Writes a predicate's bits in the lanes of m (R251). -/
def NatWin.putPred (w : NatWin) (n : Nat) (m : Mask) (new : Mask) : NatWin :=
  { w.found .pred n with q := SMap.put 0 w.q n ((SMap.get 0 w.q n &&& ~~~m) ||| (new &&& m)) }

/-- One outstanding result written (R406): a lost one marks its register and writes no bits (R407). A scalar's two words stand in lanes 0 and 1, a predicate's bits in lane 0. -/
def NatWin.land (w : NatWin) (p : Pend) : NatWin :=
  let lane (l : Nat) : BitVec 32 := p.lanes.getD l 0
  match p.lost with
  | some line => { w with lost := (p.file, p.reg, line) :: w.lost }
  | none =>
    match p.file with
    | .vec => w.putVec p.reg p.mask p.lanes
    | .scalar => w.putScalar p.reg (lane 1 ++ lane 0)
    | .pred => w.putPred p.reg p.mask (lane 0)
/-- Outstanding native results written in issue order (R406): vector results first, then scalar and predicate ones. -/
def NatWin.drain (w : NatWin) : NatWin :=
  let ps := w.pend.filter (fun p => p.file == .vec) ++ w.pend.filter (fun p => p.file != .vec)
  { ps.foldl NatWin.land w with pend := [] }

/-- The 64 bytes of a trap record (R408). -/
def trapRecord (s : State) (gid : GId) (t : Trap) (held : Bool) : List Byte :=
  let tm := s.team gid.tid
  let l := s.launch tm.lid
  natLe t.code 2 ++ natLe t.reason 2 ++ natLe t.word 4 ++ natLe tm.module.toNat 8 ++ natLe t.func 2 ++ natLe tm.job.toNat 2
  ++ natLe t.lane.toNat 4 ++ natLe t.d0.toNat 8 ++ natLe t.d1.toNat 4 ++ natLe tm.idx 4 ++ natLe gid.g 1 ++ natLe tm.bank 1
  ++ natLe tm.row 1 ++ natLe ((if t.double then 1 else 0) + (if t.opn then 2 else 0) + (if held then 4 else 0)) 1
  ++ natLe 0 4 ++ natLe l.seq.toNat 4 ++ natLe l.queue.toNat 1 ++ natLe 0 11

/-- The index of a group's trap record (R408). -/
def State.recIndex (s : State) (gid : GId) (g : Group) : Nat := (s.team gid.tid).bank * 32 + g.pos
/-- The address of a group's trap record. -/
def State.recAddr (s : State) (gid : GId) (g : Group) : W64 :=
  let t := s.team gid.tid
  (s.core t.sock t.core).trapbase + BitVec.ofNat 64 (64 * s.recIndex gid g)

/-- The supervisor to memory: job 0's tables (R408). -/
def supervisor (gid : GId) : Who := ⟨0, gid.tid, gid.g, 0, 0, []⟩

/-- The handler of a job, where it can be entered (R409): a supervisor function of a module registered to job 0 with one ptr parameter. -/
def State.handler (s : State) (job : Nat) : Option (W64 × Nat) :=
  let r := s.job job
  if r.hfunc.getLsbD 31 then
    match s.module r.hmod with
    | none => none
    | some m =>
      if m.job != 0 then none
      else match m.funcs[r.hfunc.toNat % 65536]? with
        | none => none
        | some f =>
          let ptrArg := match items f.words with
            | it :: _ => (match it.instr with | .blk [.ptr] => true | _ => false)
            | [] => false
          let returns := (items f.words).any fun it => match it.instr with | .retValues _ _ => true | _ => false
          if f.kind == 2 && ptrArg && !returns then some (r.hmod, r.hfunc.toNat % 65536) else none
  else none

/-- Whether an interruption goes to the host (R409). A fault in a handler does (R413). -/
def State.toHost (s : State) (gid : GId) (t : Trap) : Bool :=
  let job := (s.team gid.tid).job.toNat
  (s.job job).route.getLsbD (Code.cls t.code) || Code.cls t.code == 3 || t.double || (s.handler job).isNone

/-- CTX_TRAPERR after a record that could not be written (R408). -/
def trapErr (r : W32) (idx code : Nat) : W32 :=
  if r.getLsbD 31 then r ||| (1 <<< 30) else BitVec.ofNat 32 (2 ^ 31 + (idx % 64) * 65536 + code % 65536)

/-- Reports a drained stop: the record, the routing, and the group held or on its way into its handler (R406, R408, R409). While the record's page moves, the report waits (R318). -/
def State.reportStop (s : State) (gid : GId) (g : Group) (t : Trap) : State :=
  let tm := s.team gid.tid
  let idx := s.recIndex gid g
  let host := s.toHost gid t
  let addr := s.recAddr gid g
  match s.check (supervisor gid) .write addr 64 64 with
  | .ok =>
    let s1 := s.putBytes (supervisor gid) addr (trapRecord s gid t host)
    if host then
      (s1.setGroup gid { g with status := .held, trap := some t }).irq (.trapRecord tm.sock tm.core idx)
    else
      let s2 := s1.setGroup gid { g with trap := some t }
      { s2 with agenda := .handlerEntry gid :: s2.agenda }
  | .wait => s.setGroup gid { g with trap := some t }
  | .fault _ =>
    let c := s.core tm.sock tm.core
    ((s.setCore tm.sock tm.core { c with traperr := trapErr c.traperr idx t.code }).setGroup gid
      { g with status := .held, trap := some t }).irq (.trapRecord tm.sock tm.core idx)

-- budgets (R205, R206) --------------------------------------------------------

/-- The role index of a group (R205). -/
def roleGo (l : Launch) (g : Nat) : Nat → Nat → Nat
  | 0, i => i
  | n + 1, i =>
    let k := fld l.record (480 + 16 * i + 1) 1
    if g < k then i else roleGo l (g - k) n (i + 1)
def Launch.role (l : Launch) (g : Nat) : Nat := roleGo l g (l.nroles - 1) 0
/-- The window of a class (R206). -/
def windowOf (sock : Nat) : Nat := if sock < 2 then 255 else 127
/-- The effective budget (R206). -/
def Launch.eff (l : Launch) (g sock : Nat) : Nat := min (fld l.record (480 + 16 * l.role g + 2) 1) (windowOf sock)
/-- The allocation (R206). -/
def Launch.alloc (l : Launch) (g sock : Nat) : Nat := 8 * ((l.eff g sock + 7) / 8)
/-- The cache class of a die (R219): 1 W2, 0 N1. -/
def classOf (sock : Nat) : Nat := if sock < 2 then 1 else 0

-- retirement and barriers (R364-R369, R466) ----------------------------------

/-- Groups of a team that have retired, as a mask. -/
def Team.retired (t : Team) : BitVec 16 :=
  ((List.range t.groups.length).filter fun i => match t.groups[i]? with | some g => g.status == .out | .none => false).foldl
    (fun m i => m ||| ((1 : BitVec 16) <<< i)) 0

/-- The keystone group of a completing phase (R367). -/
def keystone (det : Bool) (b : Bar) (retired : BitVec 16) : Nat :=
  if det then ((List.range 16).filter fun g => b.m.getLsbD g && !retired.getLsbD g).headD 16
  else b.order.headD 16

/-- Decides the keystone flag of a pending arrival of phase ph of barrier i. -/
def Waits.settle (w : Waits) (i : Nat) (ph : W32) (isKey : Bool) : Waits :=
  match w.bar with
  | some b => if b.bar = i && b.phase == ph && !b.done then { w with bar := some { b with done := true, key := isKey } } else w
  | none => w

/-- Decides the keystone flags of every group that arrived in phase ph of barrier i (R367). -/
def markDone (gs : List Group) (i : Nat) (ph : W32) (key : Nat) : List Group :=
  (List.range gs.length).zip gs |>.map fun p =>
    { p.2 with waits := p.2.waits.settle i ph (p.1 == key),
               saved := p.2.saved.map fun c => { c with waits := c.waits.settle i ph (p.1 == key) } }

/-- Applies completion to barrier i of a team when its phase has every member (R364). -/
def State.barSettle (s : State) (tid i : Nat) : State :=
  let t := s.team tid
  let b := t.bars.getD i .reset
  let l := s.launch t.lid
  if b.opn && !b.sent && (b.m &&& ~~~(b.arrived ||| t.retired)) == 0 then
    if b.d then
      let d := s.die t.sock
      let s1 := s.setTeam tid { t with bars := setAt t.bars i { b with sent := true },
                                       groups := markDone t.groups i b.c (keystone l.det b t.retired) }
      s1.setDie t.sock { d with arrivals := d.arrivals.filter (· != ⟨t.lid, tid, i⟩) ++ [⟨t.lid, tid, i⟩] }
    else
      s.setTeam tid { t with bars := setAt t.bars i { b with c := b.c + 1, opn := false, arrived := 0, order := [] },
                             groups := markDone t.groups i b.c (keystone l.det b t.retired) }
  else s

/-- Applies completion to every barrier of a list. -/
def State.barSettleAll (s : State) (tid : Nat) : List Nat → State
  | [] => s
  | i :: is => State.barSettleAll (s.barSettle tid i) tid is

/-- The members of a grid's die barrier on a die (R369): its teams there that are set up and have not published. -/
def State.dieMembers (s : State) (lid sock : Nat) : List Nat :=
  (s.teams.filter fun p => p.2.lid == lid && p.2.sock == sock && (p.2.state == .resident || p.2.state == .draining)).map (·.1)

/-- Opens the barriers that carried the arrivals of a completed die phase. -/
def State.dieRelease (s : State) : List DieArr → State
  | [] => s
  | a :: as =>
    let t := s.team a.tid
    let b := t.bars.getD a.bar .reset
    State.dieRelease (s.setTeam a.tid { t with bars := setAt t.bars a.bar { b with c := b.c + 1, opn := false, sent := false, arrived := 0, order := [] } }) as

/-- Completes a grid's die phase when every member has arrived (R369). -/
def State.dieSettle (s : State) (lid sock : Nat) : State :=
  let d := s.die sock
  let mine := d.arrivals.filter fun a => a.lid == lid
  let ms := s.dieMembers lid sock
  if !mine.isEmpty && ms.all (fun tid => mine.any fun a => a.tid == tid) then
    State.dieRelease (s.setDie sock { d with arrivals := d.arrivals.filter fun a => a.lid != lid }) mine
  else s

/-- A group retires (R466): it leaves its cluster, counts as arrived in its team's barriers, and the last one leaves the team draining (R197). -/
def State.retire (s : State) (gid : GId) (g : Group) : State :=
  let s1 := s.setGroup gid { g with status := .out, active := 0, saved := none, trap := none }
  let s2 := s1.barSettleAll gid.tid (List.range 16)
  let t := s2.team gid.tid
  let s3 := s2.dieSettle t.lid t.sock
  let t3 := s3.team gid.tid
  let s4 := if t3.groups.all (fun g => g.status == .out) && t3.state == .resident then
      (if t3.groups.any Group.bankDone then { s3 with agenda := s3.agenda ++ [.completionEvent gid.tid] }
       else { s3.setTeam gid.tid { t3 with state := .draining } with agenda := s3.agenda ++ [.completionEvent gid.tid] })
    else s3
  { s4 with cur := if s4.cur = some gid then none else s4.cur }

-- divergence (R135-R137, R139) -----------------------------------------------

/-- The exit node as a reconvergence point. -/
def exitP : Nat := 0xFFFF

/-- The top entry: the topmost whose depth is the current call depth (R269). -/
def Group.top (g : Group) : Option DivEntry :=
  match g.div with
  | [] => none
  | e :: _ => if e.depth = g.depth then some e else none

/-- The lowest pending path of an entry, the earliest where several have its target (R136, log 18). -/
def lowestPending : List (Nat × Mask) → Option (Nat × Mask)
  | [] => none
  | p :: ps =>
    match lowestPending ps with
    | none => some p
    | some q => if p.1 ≤ q.1 then some p else some q

/-- Control moves to a block with the given lanes. -/
def Group.goto (g : Group) (bs : List BlockInfo) (b : Nat) (m : Mask) : Group :=
  let w := match bs[b]? with | some i => i.word | none => 0
  { g.setFrame { g.frame with word := w, block := b } with active := m }

/-- A call's return with the lanes m: the caller's results take the returned values, and it goes on after its call (R139). -/
def Group.popFrame (g : Group) (m : Mask) : Group :=
  match g.frames with
  | f :: c :: rest =>
    let vals := ((List.range f.rets.length).zip f.rets).foldl
      (fun vs p =>
        let old := SMap.get Val.undef vs (f.dest + p.1)
        SMap.put Val.undef vs (f.dest + p.1) ⟨p.2.ty, mergeLanes m old.lanes p.2.lanes, p.2.lost⟩) c.vals
    { g with frames := { c with vals := vals } :: rest, active := m }
  | _ => { g with active := m }

/-- run_next of R136, with fuel for entries and frames popped. The blocks of each frame's function come from bs. The result says whether the group has lanes to run. -/
def runNextGo (bs : Nat → List BlockInfo) : Nat → Group → Group × Bool
  | 0, g => (g, false)
  | n + 1, g =>
    match g.top with
    | some e =>
      match lowestPending e.pending with
      | some (b, m) =>
        let e' := { e with pending := e.pending.erase (b, m) }
        (({ g with div := e' :: g.div.drop 1 }).goto (bs g.frame.func) b m, true)
      | none =>
        let g' := { g with div := g.div.drop 1 }
        if e.p = exitP then
          if g.depth = 0 then runNextGo bs n g'
          else
            let g2 := g'.popFrame e.arrived
            if e.arrived = 0 then runNextGo bs n g2 else (g2, true)
        else if e.arrived = 0 then runNextGo bs n g'
        else (g'.goto (bs g.frame.func) e.p e.arrived, true)
    | none =>
      if g.depth = 0 then ({ g with active := 0 }, false)
      else runNextGo bs n (g.popFrame 0)

/-- run_next for a group of the state: a group left with nothing to run retires. A handler left by ret at its base has nothing to return to and is held (log 18). -/
def State.runNext (s : State) (gid : GId) (g : Group) : State :=
  let (g', more) := runNextGo (fun f => blocksOf (items (s.wordsOf gid g f))) (g.div.length + g.frames.length + 1) g
  if more then s.setGroup gid g'
  else if g.inHandler && g'.ended != 0xFFFFFFFF then
    let s' := s.setGroup gid { g' with status := .held }
    { s' with cur := if s'.cur = some gid then none else s'.cur }
  else s.retire gid g'

/-- Lanes end, as by exit (R141): they leave every entry. -/
def Group.endLanes (g : Group) (m : Mask) : Group :=
  { g with ended := g.ended ||| m, active := g.active &&& ~~~m,
           div := g.div.map (fun e => DivEntry.mk e.p e.depth (e.arrived &&& ~~~m)
             ((e.pending.map (fun p => (p.1, p.2 &&& ~~~m))).filter (fun p => p.2 != 0))) }

/-- Successor blocks of a block's terminator; exitP for the exit node (R135). -/
def succs : Instr → List Nat
  | .br t _ _ => [t.toNat]
  | .cbr _ bt bf _ _ _ => [bt.toNat, bf.toNat]
  | .switch _ d b n => d.toNat :: (List.range n.toNat).map fun i => b.toNat + i
  | _ => [exitP]

/-- Whether an instruction ends a block (R37), or leaves the handler as tret does; what stands after one in its block is never reached (log 17). -/
def isTerm : Instr → Bool
  | .br _ _ _ | .cbr _ _ _ _ _ _ | .switch _ _ _ _ | .ret | .retValues _ _ | .exit | .unreachable | .trap _ | .trapDetail _ _ | .tret => true
  | _ => false

/-- A block with no terminator goes on into the next one (DEDUCED, log 17): its one successor is the block that begins now. -/
def fallTo (acc : List (List Nat)) : List (List Nat) := if acc.getLast? == some [] then acc.dropLast ++ [[acc.length]] else acc

/-- Successors of each block in order; past the last word the path is at the function's exit. -/
def cfgGo : List Item → List (List Nat) → List (List Nat)
  | [], acc => if acc.getLast? == some [] then acc.dropLast ++ [[exitP]] else acc
  | it :: rest, acc =>
    match it.instr with
    | .blk _ => cfgGo rest (fallTo acc ++ [[]])
    | i => if isTerm i && acc.getLast? == some [] then cfgGo rest (acc.dropLast ++ [succs i]) else cfgGo rest acc
def cfg (its : List Item) : List (List Nat) := cfgGo its []

/-- Blocks from which the exit is reached without passing block avoid, grown n times. -/
def reachExit (g : List (List Nat)) (avoid : Option Nat) : Nat → List Nat → List Nat
  | 0, r => r
  | n + 1, r =>
    let r' := (List.range g.length).filter fun b =>
      some b != avoid && (r.contains b || (g.getD b []).any fun t => t == exitP || r.contains t)
    reachExit g avoid n r'

/-- Whether block p post-dominates block b (R135): b reaches the exit, p is not b, and avoiding p it does not. -/
def postDom (g : List (List Nat)) (b p : Nat) : Bool :=
  let n := g.length
  p != b && (reachExit g none n []).contains b && !(reachExit g (some p) n []).contains b

/-- The immediate post-dominator of a block, or the exit (R135): the post-dominator that every other one post-dominates. -/
def ipdom (g : List (List Nat)) (b : Nat) : Nat :=
  let ps := (List.range g.length).filter fun p => postDom g b p
  match ps.find? fun p => ps.all fun q => q == p || postDom g p q with
  | some p => p
  | none => exitP

/-- Part (t, m) joins an entry (R136): the lanes for P arrive, any other part is a pending path of its own, behind those already there. -/
def DivEntry.add (e : DivEntry) (t : Nat) (m : Mask) : DivEntry :=
  if t = e.p then { e with arrived := e.arrived ||| m } else { e with pending := e.pending ++ [(t, m)] }

/-- Delivers the parts of a branch whose reconvergence point is P (R136, R137): none when the push would pass 32 entries. -/
def deliverParts (bs : List BlockInfo) (g : Group) (parts : List (Nat × Mask)) (p : Nat) : Option (Group × Bool) :=
  let topP := match g.top with | some e => some e.p | none => none
  match parts with
  | [(t, m)] =>
    if topP = some t then
      match g.div with
      | e :: es => some ({ g with div := { e with arrived := e.arrived ||| m } :: es }, false)
      | [] => some (g.goto bs t m, true)
    else some (g.goto bs t m, true)
  | _ =>
    let pushed : Option (List DivEntry) :=
      if topP = some p then some g.div
      else if g.div.length = 32 then none
      else some (⟨p, g.depth, 0, []⟩ :: g.div)
    match pushed with
    | some (e :: es) =>
      let e' := parts.foldl (fun e q => e.add q.1 q.2) e
      some ({ g with div := e' :: es }, false)
    | _ => none

-- numeric counts (R68, R69) --------------------------------------------------

/-- Saturating addition to a 32-bit count. -/
def satAdd (c : W32) (n : Nat) : W32 := if 2 ^ 32 ≤ c.toNat + n then 0xFFFFFFFF else c + BitVec.ofNat 32 n

/-- Applies counts of the classes from n on to a bank: the bank, the classes whose traps are taken, and whether the host interrupt is raised. -/
def applyCounts : List Nat → Nat → Bank → List Nat → Bool → Bank × List Nat × Bool
  | [], _, b, tr, irq => (b, tr, irq)
  | k :: ks, n, b, tr, irq =>
    if k = 0 then applyCounts ks (n + 1) b tr irq
    else
      let c := satAdd (SMap.get 0 b.counts n) k
      let lim := SMap.get 0 b.limits n
      let hitNow := decide (lim.toNat % 2 ^ 30 < c.toNat) && !b.hit.getLsbD n
      let b' := { b with counts := SMap.put 0 b.counts n c, hit := if hitNow then b.hit ||| (1 <<< n) else b.hit }
      let tr' := if hitNow && lim.getLsbD 30 then tr ++ [n] else tr
      applyCounts ks (n + 1) b' tr' (irq || (hitNow && lim.getLsbD 31))

/-- Counts events for the context of a group's bank (R67-R69). -/
def State.count (s : State) (gid : GId) (evs : List Nat) : State :=
  let t := s.team gid.tid
  let c := s.core t.sock t.core
  let (b, tr, irq) := applyCounts evs 0 (c.bank t.bank) [] false
  let s1 := s.setCore t.sock t.core (c.setBank t.bank b)
  let s2 := match s1.group gid with
    | some g => if tr.isEmpty || g.status = .out then s1 else s1.setGroup gid { g with numTrap := g.numTrap ++ tr }
    | none => s1
  if irq then s2.irq (.numeric t.sock t.core t.bank) else s2

/-- Counts the events of one engine operation at its completion, one a class (R67). -/
def State.countEv (s : State) (gid : GId) (e : Ev) : State := s.count gid (addEvs [] e)

-- free values ----------------------------------------------------------------

/-- A free value of R3's kind (log 4), and the state with the counter advanced. -/
def State.free (s : State) : W64 × State := (Config.freeWord s.fresh, { s with fresh := s.fresh + 1 })

end Sys2Proof.Machine
end

