-- ==== Sys2Proof/Machine/Operands.lean ====
section
/-! DEFINITION. Operands and results: references, specials (R30), literals (R71, R91), native registers (R245, R254), and the one operation by which a value-defining instruction reads, computes in its lanes and writes (R33, R89, R251). -/

namespace Sys2Proof.Machine

/-- A read operand: 32 lane copies, and, when the value is lost, its physical line and its number (R407, R408). -/
structure Rd where
  lanes : List Lane
  lost : Option (Nat × Nat)
  deriving DecidableEq, Repr

/-- The same bits in every lane. -/
def Rd.all (x : Lane) : Rd := ⟨List.replicate 32 x, none⟩
/-- The operand in a lane. -/
def Rd.lane (r : Rd) (l : Nat) : Lane := laneAt r.lanes l

/-- Keeps the low bits a type has. -/
def maskTy (t : Ty) (x : Lane) : Lane := BitVec.ofNat 64 (x.toNat % 2 ^ t.bits)

/-- Fields of the group's launch that specials read (R30). -/
structure Place where
  team : Nat
  die : Nat
  tx : Nat
  ty : Nat
  tz : Nat
  role : Nat
  deriving DecidableEq, Repr

/-- The place of a group in its grid: its team's index and coordinates (x fastest, R190), die ordinal and role. -/
def State.place (s : State) (gid : GId) : Place :=
  let t := s.team gid.tid
  let l := s.launch t.lid
  { team := t.idx
    die := (l.dies.filter fun d => decide (d < t.sock)).length
    tx := t.idx % l.gx
    ty := t.idx / l.gx % l.gy
    tz := t.idx / (l.gx * l.gy)
    role := l.role gid.g }

/-- The specials of R30, by reference number, in the type of the position. -/
def special (p : Place) (g : Nat) (ty : Ty) (n : Nat) : Rd :=
  match n with
  | 0xFFE0 => ⟨lanes32.map (fun l => BitVec.ofNat 64 l), none⟩
  | 0xFFE1 => .all (BitVec.ofNat 64 g)
  | 0xFFE2 => .all (BitVec.ofNat 64 p.team)
  | 0xFFE3 => .all (BitVec.ofNat 64 p.die)
  | 0xFFE4 => .all (BitVec.ofNat 64 p.tx)
  | 0xFFE5 => .all (BitVec.ofNat 64 p.ty)
  | 0xFFE6 => .all (BitVec.ofNat 64 p.tz)
  | 0xFFE7 => .all (BitVec.ofNat 64 p.role)
  | 0xFFE8 => .all 0xFD00000000000000
  | 0xFFE9 => .all 0xFE00000000000000
  | 0xFFEA => .all 0xFF00000000000000
  | 0xFFFF => .all (maskTy ty (~~~0))
  | _ => .all 0

/-- An f32's bits widened exactly to f64 (R71, R91): a NaN keeps its payload and kind. -/
def f32ToF64 (w : W32) : W64 :=
  match Fmt.f32.decode w.toNat with
  | .nan _ => BitVec.ofNat 64 (w.toNat / 2 ^ 31 * 2 ^ 63 + 0x7FF * 2 ^ 52 + w.toNat % 2 ^ 23 * 2 ^ 29)
  | v => BitVec.ofNat 64 (deliver .f64 (.plain .rne) v).1

/-- The bits that a literal word gives an operand of a type (R71, R91). -/
def litBits (ty : Ty) (w : W32) : Lane :=
  match ty with
  | .i64 | .ptr => w.signExtend 64
  | .f64 => f32ToF64 w
  | _ => maskTy ty (w.setWidth 64)

/-- A predicate register: q0 is the active mask (R250). -/
def Group.pred (g : Group) (n : Nat) : Mask := if n = 0 then g.active else SMap.get 0 g.nat.q n

/-- Whether values of a type lie in a pair of vector registers (R245). -/
def isPair (t : Ty) : Bool := decide (32 < t.bits)

/-- The physical line of a lost register (R407); the record names the register's number as the value. -/
def NatWin.lostAt (w : NatWin) (f : RegFile) (n : Nat) : Option (Nat × Nat) :=
  (w.lost.find? fun l => l.1 == f && l.2.1 == n).map fun l => (l.2.2, n)

/-- A native register read as an operand of a type (R245, R254). -/
def readReg (g : Group) (f : RegFile) (n : Nat) (ty : Ty) : Rd :=
  match f with
  | .vec =>
    let lo := g.nat.vec n
    let hi := g.nat.vec (n + 1)
    { lanes := lanes32.map (fun l => maskTy ty (if isPair ty then hi.getD l 0 ++ lo.getD l 0 else (lo.getD l 0).setWidth 64))
      lost := (g.nat.lostAt .vec n).or (if isPair ty then g.nat.lostAt .vec (n + 1) else none) }
  | .scalar => ⟨List.replicate 32 (maskTy ty (g.nat.scalar n)), g.nat.lostAt .scalar n⟩
  | .pred => ⟨lanes32.map (fun l => if (g.pred n).getLsbD l then 1 else 0), g.nat.lostAt .pred n⟩

/-- Reads an operand in the type of its position. -/
def State.read (s : State) (gid : GId) (g : Group) (ty : Ty) (o : Opnd) : Rd :=
  match o with
  | .ref n =>
    if 0xFFE0 ≤ n.toNat then special (s.place gid) gid.g ty n.toNat
    else
      let v := SMap.get Val.undef g.frame.vals n.toNat
      ⟨v.lanes, v.lost.map (fun line => (line, n.toNat))⟩
  | .lit w => .all (litBits ty w)
  | .reg f n t => readReg g f n.toNat t

/-- The type of the value that an operand names: for the positions whose type the operand gives (R30); %zero and %ones take dflt. -/
def opndTy (g : Group) (dflt : Ty) : Opnd → Ty
  | .ref n => if 0xFFE0 ≤ n.toNat then (match specialTy n.toNat with | some .void => dflt | some t => t | none => dflt) else (SMap.get Val.undef g.frame.vals n.toNat).ty
  | .lit _ => dflt
  | .reg _ _ t => t

-- results --------------------------------------------------------------------

/-- The element a vector register takes: the value in the low bits, the rest free (R245, log 4). -/
def fillElem (ty : Ty) (free : W64) (x : Lane) : BitVec 32 :=
  BitVec.ofNat 32 (x.toNat % 2 ^ ty.bits + free.toNat % 2 ^ 32 / 2 ^ ty.bits * 2 ^ ty.bits)

/-- Writes a result to a native register in the lanes of m: vector register or pair, scalar, or predicate (R245, R251). free is the first free value taken. -/
def writeReg (w : NatWin) (free : Nat) (f : RegFile) (n : Nat) (ty : Ty) (m : Mask) (xs : List Lane) : NatWin :=
  let lo (l : Nat) : BitVec 32 := (laneAt xs l).setWidth 32
  match f with
  | .pred => w.putPred n m (maskOf (lanes32.filter fun l => (laneAt xs l).getLsbD 0))
  | .scalar =>
    let x := laneAt xs (lowest m)
    w.putScalar n (BitVec.ofNat 64 (x.toNat % 2 ^ ty.bits + (Config.freeWord free).toNat / 2 ^ ty.bits * 2 ^ ty.bits))
  | .vec =>
    if isPair ty then
      let hi (l : Nat) : BitVec 32 :=
        if ty == Ty.q4 then BitVec.ofNat 32 ((laneAt xs l).toNat / 2 ^ 32 % 4096 + (Config.freeWord (free + l)).toNat % 2 ^ 20 * 4096)
        else (laneAt xs l).extractLsb' 32 32
      (w.putVec n m (lanes32.map lo)).putVec (n + 1) m (lanes32.map hi)
    else w.putVec n m (lanes32.map (fun l => fillElem ty (Config.freeWord (free + l)) (laneAt xs l)))

/-- Free values a native write may take. -/
def regFree : Dst → Nat
  | .flinal => 0
  | .reg _ _ => 32

/-- Writes one result: value number num of the frame (R26), or the named register; a predicate takes the bits of active lanes only, of a scalar form too (R251, log 9). -/
def Group.writeDst (g : Group) (free : Nat) (d : Dst) (num : Nat) (ty : Ty) (m : Mask) (xs : List Lane) : Group :=
  match d with
  | .flinal => g.setVal num ty m xs
  | .reg f n => { g with nat := writeReg g.nat free f n.toNat ty (if f = .pred then m &&& g.active else m) xs }

/-- The value number of the first result of the instruction at the group's point (R26). -/
def State.defNum (s : State) (gid : GId) (g : Group) : Nat := valueAt (s.wordsOf gid g g.frame.func) g.frame.word

/-- Writes the results of an instruction: the first to h.dst, the second to h.dst2. -/
def State.writeOuts (s : State) (gid : GId) (g : Group) (h : Hd) (m : Mask) (outs : List (Ty × List Lane)) : Group :=
  let num := s.defNum gid g
  match outs with
  | [] => g
  | [(t, xs)] => g.writeDst s.fresh h.dst num t m xs
  | (t, xs) :: (t2, ys) :: _ => (g.writeDst s.fresh h.dst num t m xs).writeDst (s.fresh + 32) h.dst2 (num + 1) t2 m ys

/-- Counts the instruction's events in its course (R67). -/
def Group.addEv (g : Group) (e : Ev) : Group := if e = 0 then g else { g with evs := addEvs g.evs e }

/-- An instruction that has computed its results: they are written in the lanes of m, the events counted, and the group goes on. -/
def State.finish (s : State) (gid : GId) (g : Group) (h : Hd) (m : Mask) (outs : List (Ty × List Lane)) (e : Ev) : State :=
  let s' := { s with fresh := s.fresh + regFree h.dst + regFree h.dst2 }
  s'.advance gid ((s.writeOuts gid g h m outs).addEv e) h.ce

-- the common shape of a lane instruction --------------------------------------

/-- What one lane computes: its result or results, and the events it raises. -/
structure LaneOut where
  a : Lane
  b : Lane
  ev : Ev
  deriving DecidableEq, Repr
def LaneOut.one (x : Lane) : LaneOut := ⟨x, 0, 0⟩
def LaneOut.ofNat (x : Nat) : LaneOut := ⟨BitVec.ofNat 64 x, 0, 0⟩
/-- A result and its events. -/
def LaneOut.ev1 (r : Nat × Ev) : LaneOut := ⟨BitVec.ofNat 64 r.1, 0, r.2⟩

/-- The operand bits of one lane. -/
def laneIns (rs : List Rd) (l : Nat) : List Lane := rs.map fun r => r.lane l

/-- The events of a list of lane results, each class once. -/
def evOf (os : List LaneOut) : Ev := os.foldl (fun e o => e ||| o.ev) 0

/-- The lanes that compute: every active lane, or with U one lane for the group (R33, R89). -/
def compLanes (h : Hd) (g : Group) : List Nat := if h.u then [lowest g.active] else lanesOf g.active
/-- The lanes that take the result: the active ones, or with U the group's single copy (R33). -/
def resMask (h : Hd) (g : Group) : Mask := if h.u then 0xFFFFFFFF else g.active

/-- The lane results by lane: with U the one result for every lane. -/
def laneOuts (h : Hd) (g : Group) (rs : List Rd) (f : List Lane → LaneOut) : List LaneOut :=
  if h.u then List.replicate 32 (f (laneIns rs (lowest g.active)))
  else lanes32.map fun l => if g.active.getLsbD l then f (laneIns rs l) else ⟨0, 0, 0⟩

/-- The first lost operand of a list: line and value number. -/
def lostOf : List Rd → Option (Nat × Nat)
  | [] => none
  | r :: rs => r.lost.or (lostOf rs)
/-- DATA_LOSS at the consuming instruction, naming the physical line and the value (R407, R408). -/
def State.dataLoss (s : State) (gid : GId) (g : Group) (l : Nat × Nat) : State :=
  s.raise gid g Code.dataLoss noLane (BitVec.ofNat 64 l.1) (BitVec.ofNat 32 l.2)

/-- The common shape of R89: read the operands, compute in each lane, write the results of types tys, count the events, go on. A lost operand raises DATA_LOSS at the instruction (R407). -/
def State.laneOp (s : State) (gid : GId) (g : Group) (h : Hd) (ins : List (Ty × Opnd)) (tys : List Ty) (f : List Lane → LaneOut) : State :=
  let rs := ins.map fun i => s.read gid g i.1 i.2
  match lostOf rs with
  | some l => s.dataLoss gid g l
  | none =>
    let os := laneOuts h g rs f
    let outs := match tys with
      | [t] => [(t, os.map LaneOut.a)]
      | [t, t2] => [(t, os.map LaneOut.a), (t2, os.map LaneOut.b)]
      | _ => []
    s.finish gid g h (resMask h g) outs (evOf os)

/-- One operand of the instruction's type, one result. -/
def valueOp1 (h : Hd) (ta tr : Ty) (a : Opnd) (f : Lane → LaneOut) (s : State) : Host.Outcome State Fault Refusal :=
  withCur s fun gid g => s.laneOp gid g h [(ta, a)] [tr] fun xs => f (xs.getD 0 0)
/-- Two operands, one result. -/
def valueOp2 (h : Hd) (ta tb tr : Ty) (a b : Opnd) (f : Lane → Lane → LaneOut) (s : State) : Host.Outcome State Fault Refusal :=
  withCur s fun gid g => s.laneOp gid g h [(ta, a), (tb, b)] [tr] fun xs => f (xs.getD 0 0) (xs.getD 1 0)
/-- Three operands. -/
def valueOp3 (h : Hd) (ta tb tc : Ty) (trs : List Ty) (a b c : Opnd) (f : Lane → Lane → Lane → LaneOut) (s : State) :
    Host.Outcome State Fault Refusal :=
  withCur s fun gid g => s.laneOp gid g h [(ta, a), (tb, b), (tc, c)] trs fun xs => f (xs.getD 0 0) (xs.getD 1 0) (xs.getD 2 0)
/-- Four operands. -/
def valueOp4 (h : Hd) (ta tb tc td : Ty) (trs : List Ty) (a b c d : Opnd) (f : Lane → Lane → Lane → Lane → LaneOut) (s : State) :
    Host.Outcome State Fault Refusal :=
  withCur s fun gid g =>
    s.laneOp gid g h [(ta, a), (tb, b), (tc, c), (td, d)] trs fun xs => f (xs.getD 0 0) (xs.getD 1 0) (xs.getD 2 0) (xs.getD 3 0)
/-- Two operands, two results. -/
def valueOp22 (h : Hd) (ta tb : Ty) (trs : List Ty) (a b : Opnd) (f : Lane → Lane → LaneOut) (s : State) : Host.Outcome State Fault Refusal :=
  withCur s fun gid g => s.laneOp gid g h [(ta, a), (tb, b)] trs fun xs => f (xs.getD 0 0) (xs.getD 1 0)

/-- The common shape of an instruction that reads across the group and delivers to every active lane (R121): f gives the results by lane, and the events. -/
def State.groupOp (s : State) (gid : GId) (g : Group) (h : Hd) (ins : List (Ty × Opnd))
    (f : List Rd → List (Ty × List Lane) × Ev) : State :=
  let rs := ins.map fun i => s.read gid g i.1 i.2
  match lostOf rs with
  | some l => s.dataLoss gid g l
  | none => s.finish gid g h g.active (f rs).1 (f rs).2

/-- The single value of an operand that is read once for the group: the copy of the lowest active lane. -/
def Rd.elect (r : Rd) (g : Group) : Lane := r.lane (lowest g.active)

end Sys2Proof.Machine
end

