-- ==== Sys2Proof/Machine/Flags.lean ====
section
/-! DEFINITION. Integer results with the numeric events they count (R67, R92-R101): the M9's flags are event counts, and each integer form's events stand here beside its value. -/

namespace Sys2Proof.Machine

/-- uns(x) of R89's helpers: the low w bits. -/
def uns (w : Nat) (x : Lane) : Nat := x.toNat % 2 ^ w
/-- sgn(x): the low w bits as two's complement. -/
def sgn (w : Nat) (x : Lane) : Int :=
  if 2 ^ (w - 1) ≤ uns w x then (uns w x : Int) - (2 ^ w : Nat) else uns w x
/-- bits(v): the w low bits of an integer. -/
def bits (w : Nat) (v : Int) : Nat := (v % (2 ^ w : Nat)).toNat
def maxSgn (w : Nat) : Int := (2 ^ (w - 1) : Nat) - 1
def minSgn (w : Nat) : Int := -((2 ^ (w - 1) : Nat) : Int)
def maxUns (w : Nat) : Int := (2 ^ w : Nat) - 1

/-- Clamps to [lo, hi], counting SATURATE when it clamps. -/
def clampEv (w : Nat) (lo hi v : Int) : LaneOut :=
  if v < lo then .ev1 (bits w lo, Ev.saturate)
  else if hi < v then .ev1 (bits w hi, Ev.saturate)
  else .ev1 (bits w v, 0)

/-- add (R92). -/
def addLane (w : Nat) (m : SatMode) (a b : Lane) : LaneOut :=
  match m with
  | .wrap => .ofNat (bits w (uns w a + uns w b))
  | .satS => clampEv w (minSgn w) (maxSgn w) (sgn w a + sgn w b)
  | .satU => clampEv w 0 (maxUns w) (uns w a + uns w b)
/-- sub (R92). -/
def subLane (w : Nat) (m : SatMode) (a b : Lane) : LaneOut :=
  match m with
  | .wrap => .ofNat (bits w ((uns w a : Int) - uns w b))
  | .satS => clampEv w (minSgn w) (maxSgn w) (sgn w a - sgn w b)
  | .satU => clampEv w 0 (maxUns w) ((uns w a : Int) - uns w b)
/-- mul (R93). -/
def mulLane (w : Nat) (m : MulMode) (a b : Lane) : LaneOut :=
  match m with
  | .low => .ofNat (bits w ((uns w a : Int) * uns w b))
  | .hiS => .ofNat (bits w (sgn w a * sgn w b / (2 ^ w : Nat)))
  | .hiU => .ofNat (bits w ((uns w a : Int) * uns w b / (2 ^ w : Nat)))
  | .satS => clampEv w (minSgn w) (maxSgn w) (sgn w a * sgn w b)
  | .satU => clampEv w 0 (maxUns w) ((uns w a : Int) * uns w b)
/-- mad (R93). -/
def madLane (w : Nat) (a b c : Lane) : LaneOut := .ofNat (bits w ((uns w a : Int) * uns w b + uns w c))

/-- Quotient, remainder and INTDIV of R94. -/
def divRem (w : Nat) (un : Bool) (a b : Lane) : LaneOut :=
  if uns w b = 0 then ⟨BitVec.ofNat 64 (2 ^ w - 1), BitVec.ofNat 64 (uns w a), Ev.intdiv⟩
  else if un then ⟨BitVec.ofNat 64 (uns w a / uns w b), BitVec.ofNat 64 (uns w a % uns w b), 0⟩
  else if sgn w a = minSgn w ∧ sgn w b = -1 then ⟨BitVec.ofNat 64 (uns w a), 0, Ev.intdiv⟩
  else ⟨BitVec.ofNat 64 (bits w ((sgn w a).tdiv (sgn w b))), BitVec.ofNat 64 (bits w ((sgn w a).tmod (sgn w b))), 0⟩
/-- The remainder alone. -/
def LaneOut.snd (o : LaneOut) : LaneOut := ⟨o.b, 0, o.ev⟩

/-- neg (R95). -/
def negLane (w : Nat) (sat : Bool) (a : Lane) : LaneOut :=
  if sat then clampEv w (minSgn w) (maxSgn w) (-sgn w a) else .ofNat (bits w (-sgn w a))
/-- abs (R95). -/
def absLane (w : Nat) (sat : Bool) (a : Lane) : LaneOut :=
  if sat then clampEv w (minSgn w) (maxSgn w) (sgn w a).natAbs else .ofNat (bits w (sgn w a).natAbs)
/-- min and max (R96): b wins only when strictly lower, or higher. -/
def minLane (w : Nat) (un : Bool) (a b : Lane) : LaneOut :=
  .ofNat (if (if un then decide (uns w b < uns w a) else decide (sgn w b < sgn w a)) then uns w b else uns w a)
def maxLane (w : Nat) (un : Bool) (a b : Lane) : LaneOut :=
  .ofNat (if (if un then decide (uns w a < uns w b) else decide (sgn w a < sgn w b)) then uns w b else uns w a)

/-- addc (R97): the sum and the carry. -/
def addcLane (w : Nat) (a b c : Lane) : LaneOut :=
  let t := uns w a + uns w b + uns 1 c
  ⟨BitVec.ofNat 64 (t % 2 ^ w), if 2 ^ w ≤ t then 1 else 0, 0⟩
/-- subb (R97): the difference and the borrow. -/
def subbLane (w : Nat) (a b c : Lane) : LaneOut :=
  let t : Int := (uns w a : Int) - uns w b - uns 1 c
  ⟨BitVec.ofNat 64 (bits w t), if t < 0 then 1 else 0, 0⟩

/-- The bitwise forms (R98), kept to w bits. -/
def bitLane (w : Nat) (x : Lane) : LaneOut := .ofNat (uns w x)

/-- Shifts and rotations (R99): the amount is read unsigned. -/
def shlLane (w : Nat) (a n : Lane) : LaneOut := .ofNat (if w ≤ uns w n then 0 else uns w a * 2 ^ uns w n % 2 ^ w)
def shrLane (w : Nat) (sg : Bool) (a n : Lane) : LaneOut :=
  let k := Nat.min (uns w n) w
  if sg then .ofNat (bits w (sgn w a / (2 ^ k : Nat))) else .ofNat (uns w a / 2 ^ k)
def rotLane (w : Nat) (right : Bool) (a n : Lane) : LaneOut :=
  let k := uns w n % w
  let l := if right then (w - k) % w else k
  .ofNat (uns w a * 2 ^ l % 2 ^ w + uns w a / 2 ^ (w - l))

/-- Counting and reversing (R100). -/
def popcNat (w x : Nat) : Nat := ((List.range w).filter fun i => x.testBit i).length
def clzNat (w x : Nat) : Nat := if x % 2 ^ w = 0 then w else w - 1 - Nat.log2 (x % 2 ^ w)
def ctzNat (w x : Nat) : Nat := ((List.range w).find? fun i => x.testBit i).getD w
def brevNat (w x : Nat) : Nat := (List.range w).foldl (fun r i => if x.testBit i then r + 2 ^ (w - 1 - i) else r) 0

/-- The clipped field length of R101: position and length are i32, read unsigned. -/
def fieldLen (w : Nat) (pos len : Lane) : Nat := if w ≤ uns 32 pos then 0 else Nat.min (uns 32 len) (w - uns 32 pos)
/-- bfx (R101). -/
def bfxLane (w : Nat) (sg : Bool) (v pos len : Lane) : LaneOut :=
  let n := fieldLen w pos len
  if n = 0 then .one 0
  else
    let f := uns w v / 2 ^ uns 32 pos % 2 ^ n
    if sg && f.testBit (n - 1) then .ofNat (f + (2 ^ w - 2 ^ n)) else .ofNat f
/-- bfi (R101). -/
def bfiLane (w : Nat) (base ins pos len : Lane) : LaneOut :=
  let n := fieldLen w pos len
  let p := uns 32 pos
  if n = 0 then .ofNat (uns w base)
  else .ofNat (uns w base % 2 ^ p + uns w ins % 2 ^ n * 2 ^ p + uns w base / 2 ^ (p + n) * 2 ^ (p + n))

/-- Integer comparison (R102). -/
def icmp (w : Nat) (c : ICmp) (a b : Lane) : Bool :=
  match c with
  | .eq => uns w a == uns w b
  | .ne => uns w a != uns w b
  | .ltS => decide (sgn w a < sgn w b)
  | .leS => decide (sgn w a ≤ sgn w b)
  | .gtS => decide (sgn w b < sgn w a)
  | .geS => decide (sgn w b ≤ sgn w a)
  | .ltU => decide (uns w a < uns w b)
  | .leU => decide (uns w a ≤ uns w b)
  | .gtU => decide (uns w b < uns w a)
  | .geU => decide (uns w b ≤ uns w a)
/-- An i1 result. -/
def LaneOut.bool (b : Bool) : LaneOut := .one (if b then 1 else 0)

end Sys2Proof.Machine
end

