-- ==== Sys2Proof/Machine/Integer.lean ====
section
/-! DEFINITION. Integer, logic, compare, constant and width instructions (R92-R105): one meaning each over the common lane shape. -/

namespace Sys2Proof.Machine

abbrev Out := Host.Outcome State Fault Refusal

def execAdd (h : Hd) (m : SatMode) (a b : Opnd) (s : State) : Out :=
  valueOp2 h h.ty (if h.ty = .ptr then .i64 else h.ty) h.ty a b (addLane h.ty.bits m) s
def execSub (h : Hd) (m : SatMode) (a b : Opnd) (s : State) : Out :=
  valueOp2 h h.ty (if h.ty = .ptr then .i64 else h.ty) h.ty a b (subLane h.ty.bits m) s
def execMul (h : Hd) (m : MulMode) (a b : Opnd) (s : State) : Out := valueOp2 h h.ty h.ty h.ty a b (mulLane h.ty.bits m) s
def execMad (h : Hd) (a b c : Opnd) (s : State) : Out := valueOp3 h h.ty h.ty h.ty [h.ty] a b c (madLane h.ty.bits) s
def execDiv (h : Hd) (un : Bool) (a b : Opnd) (s : State) : Out := valueOp2 h h.ty h.ty h.ty a b (divRem h.ty.bits un) s
def execDivrem (h : Hd) (un : Bool) (a b : Opnd) (s : State) : Out :=
  valueOp22 h h.ty h.ty [h.ty, h.ty] a b (divRem h.ty.bits un) s
def execRem (h : Hd) (un : Bool) (a b : Opnd) (s : State) : Out :=
  valueOp2 h h.ty h.ty h.ty a b (fun x y => (divRem h.ty.bits un x y).snd) s
def execNeg (h : Hd) (sat : Bool) (a : Opnd) (s : State) : Out := valueOp1 h h.ty h.ty a (negLane h.ty.bits sat) s
def execAbs (h : Hd) (sat : Bool) (a : Opnd) (s : State) : Out := valueOp1 h h.ty h.ty a (absLane h.ty.bits sat) s
def execMin (h : Hd) (un : Bool) (a b : Opnd) (s : State) : Out := valueOp2 h h.ty h.ty h.ty a b (minLane h.ty.bits un) s
def execMax (h : Hd) (un : Bool) (a b : Opnd) (s : State) : Out := valueOp2 h h.ty h.ty h.ty a b (maxLane h.ty.bits un) s
def execAddc (h : Hd) (a b c : Opnd) (s : State) : Out := valueOp3 h h.ty h.ty .i1 [h.ty, .i1] a b c (addcLane h.ty.bits) s
def execSubb (h : Hd) (a b c : Opnd) (s : State) : Out := valueOp3 h h.ty h.ty .i1 [h.ty, .i1] a b c (subbLane h.ty.bits) s
def execAnd (h : Hd) (a b : Opnd) (s : State) : Out := valueOp2 h h.ty h.ty h.ty a b (fun x y => bitLane h.ty.bits (x &&& y)) s
def execOr (h : Hd) (a b : Opnd) (s : State) : Out := valueOp2 h h.ty h.ty h.ty a b (fun x y => bitLane h.ty.bits (x ||| y)) s
def execXor (h : Hd) (a b : Opnd) (s : State) : Out := valueOp2 h h.ty h.ty h.ty a b (fun x y => bitLane h.ty.bits (x ^^^ y)) s
def execAndn (h : Hd) (a b : Opnd) (s : State) : Out := valueOp2 h h.ty h.ty h.ty a b (fun x y => bitLane h.ty.bits (x &&& ~~~y)) s
def execNot (h : Hd) (a : Opnd) (s : State) : Out := valueOp1 h h.ty h.ty a (fun x => bitLane h.ty.bits (~~~x)) s
def execShl (h : Hd) (a b : Opnd) (s : State) : Out := valueOp2 h h.ty h.ty h.ty a b (shlLane h.ty.bits) s
def execShr (h : Hd) (sg : Bool) (a b : Opnd) (s : State) : Out := valueOp2 h h.ty h.ty h.ty a b (shrLane h.ty.bits sg) s
def execRot (h : Hd) (right : Bool) (a b : Opnd) (s : State) : Out := valueOp2 h h.ty h.ty h.ty a b (rotLane h.ty.bits right) s
def execPopc (h : Hd) (a : Opnd) (s : State) : Out := valueOp1 h h.ty h.ty a (fun x => .ofNat (popcNat h.ty.bits (uns h.ty.bits x))) s
def execClz (h : Hd) (a : Opnd) (s : State) : Out := valueOp1 h h.ty h.ty a (fun x => .ofNat (clzNat h.ty.bits (uns h.ty.bits x))) s
def execCtz (h : Hd) (a : Opnd) (s : State) : Out := valueOp1 h h.ty h.ty a (fun x => .ofNat (ctzNat h.ty.bits (uns h.ty.bits x))) s
def execBrev (h : Hd) (a : Opnd) (s : State) : Out := valueOp1 h h.ty h.ty a (fun x => .ofNat (brevNat h.ty.bits (uns h.ty.bits x))) s
def execBfx (h : Hd) (sg : Bool) (v pos len : Opnd) (s : State) : Out :=
  valueOp3 h h.ty .i32 .i32 [h.ty] v pos len (bfxLane h.ty.bits sg) s
def execBfi (h : Hd) (base ins pos len : Opnd) (s : State) : Out :=
  valueOp4 h h.ty h.ty .i32 .i32 [h.ty] base ins pos len (bfiLane h.ty.bits) s
def execCmp (h : Hd) (c : ICmp) (a b : Opnd) (s : State) : Out :=
  valueOp2 h h.ty h.ty .i1 a b (fun x y => .bool (icmp h.ty.bits c x y)) s
def execSel (h : Hd) (c a b : Opnd) (s : State) : Out :=
  valueOp3 h .i1 h.ty h.ty [h.ty] c a b (fun c x y => .one (if c.getLsbD 0 then x else y)) s
/-- const (R104): the literal's bits. -/
def execConst (h : Hd) (k : W64) (s : State) : Out :=
  withCur s fun gid g => s.laneOp gid g h [] [h.ty] fun _ => .one (maskTy h.ty k)
/-- ext (R105): from the operand's own type. -/
def execExt (h : Hd) (sg : Bool) (a : Opnd) (s : State) : Out :=
  withCur s fun gid g =>
    let t := opndTy g h.ty a
    s.laneOp gid g h [(t, a)] [h.ty] fun xs =>
      .ofNat (if sg then bits h.ty.bits (sgn t.bits (xs.getD 0 0)) else uns t.bits (xs.getD 0 0))
/-- trunc (R105): the low w bits. -/
def execTrunc (h : Hd) (a : Opnd) (s : State) : Out :=
  withCur s fun gid g => s.laneOp gid g h [(opndTy g h.ty a, a)] [h.ty] fun xs => .ofNat (uns h.ty.bits (xs.getD 0 0))
def execPtoi (h : Hd) (a : Opnd) (s : State) : Out := valueOp1 h .ptr .i64 a .one s
def execItop (h : Hd) (a : Opnd) (s : State) : Out := valueOp1 h .i64 .ptr a .one s
/-- ptr.idx (R105): the pointer plus the extended index times 2^k, modulo 2^64. -/
def execPtrIdx (h : Hd) (sg : Bool) (k : BitVec 2) (p x : Opnd) (s : State) : Out :=
  withCur s fun gid g =>
    let t := opndTy g .i64 x
    s.laneOp gid g h [(.ptr, p), (t, x)] [.ptr] fun xs =>
      let i : Int := if sg then sgn t.bits (xs.getD 1 0) else uns t.bits (xs.getD 1 0)
      .ofNat (bits 64 ((uns 64 (xs.getD 0 0) : Int) + i * (2 ^ k.toNat : Nat)))

end Sys2Proof.Machine
end

