-- ==== Sys2Proof/Machine/Special.lean ====
section
/-! DEFINITION. The special functions of R115, correctly rounded. Each is computed in fixed point with 640 fraction bits and a sticky bit below; every non-exact result is irrational, and no f16, bf16 or f32 result comes within 2^-200 of a rounding boundary (log 11). -/

namespace Sys2Proof.Machine

/-- Fraction bits of the fixed-point work. -/
def fxBits : Nat := 640
def fxOne : Nat := 2 ^ fxBits

/-- Σ z^(2k+1) / (2k+1), the series of artanh, n terms: t is the running power. -/
def artanhGo (z2 : Nat) : Nat → Nat → Nat → Nat
  | 0, _, _ => 0
  | n + 1, t, k => t / (2 * k + 1) + artanhGo z2 n (t * z2 / fxOne) (k + 1)

/-- artanh of the rational a / b in fixed point, for a / b at most 1/3. -/
def artanhFx (a b : Nat) : Nat :=
  let z := a * fxOne / b
  artanhGo (z * z / fxOne) 210 z 0

/-- ln 2 = 2 artanh(1/3). -/
def ln2Fx : Nat := 2 * artanhFx 1 3

/-- Σ (−1)^k / ((2k+1) x^(2k+1)), the series of arctan(1/x), n terms. -/
def arctanGo (x2 : Nat) : Nat → Nat → Nat → Int
  | 0, _, _ => 0
  | n + 1, t, k => ((t / (2 * k + 1) : Nat) : Int) - arctanGo x2 n (t / x2) (k + 1)

/-- π by Machin's formula, 16 arctan(1/5) − 4 arctan(1/239). -/
def piFx : Nat := (16 * arctanGo 25 150 (fxOne / 5) 0 - 4 * arctanGo (239 * 239) 50 (fxOne / 239) 0).toNat

/-- Σ r^k / k! from term k on, n terms. -/
def expGo (r : Nat) : Nat → Nat → Nat → Nat
  | 0, _, _ => 0
  | n + 1, t, k => t + expGo r n (t * r / fxOne / (k + 1)) (k + 1)

/-- e^r for 0 ≤ r < 1 in fixed point. -/
def expFrac (r : Nat) : Nat := expGo r 130 fxOne 0

/-- The alternating series of sine (start 1) and cosine (start 0): t − t r²/((k+1)(k+2)) + … -/
def trigGo (r2 : Nat) : Nat → Nat → Nat → Int
  | 0, _, _ => 0
  | n + 1, t, k => (t : Int) - trigGo r2 n (t * r2 / fxOne / ((k + 1) * (k + 2))) (k + 2)

def sinFrac (r : Nat) : Nat := (trigGo (r * r / fxOne) 75 r 1).toNat
def cosFrac (r : Nat) : Nat := (trigGo (r * r / fxOne) 75 fxOne 0).toNat

/-- A fixed-point magnitude as a value with a sticky bit below it: never exact. -/
def fxVal (neg : Bool) (x : Nat) : FVal := .fin neg (2 * x + 1) (2 * fxOne)

/-- e^x as (k, m): e^x = 2^k × m with m in [1, 2) in fixed point. -/
def expParts (neg : Bool) (num den : Nat) : Int × Nat :=
  let x := num * fxOne / den
  let q := x / ln2Fx
  let r := x % ln2Fx
  if neg then
    (if r = 0 then (-(q : Int), fxOne) else (-(q : Int) - 1, expFrac (ln2Fx - r)))
  else (q, expFrac r)

/-- 2^k × m as a value with a sticky bit below it. -/
def scaleFx (neg : Bool) (k : Int) (m : Nat) : FVal :=
  if 0 ≤ k then .fin neg ((2 * m + 1) * 2 ^ k.toNat) (2 * fxOne)
  else .fin neg (2 * m + 1) (2 * fxOne * 2 ^ (-k).toNat)

/-- exp2 (R115): exact for integers, else 2^⌊x⌋ × e^(frac ln 2). Beyond ±512 every H format overflows or rounds to zero or the smallest subnormal alike. -/
def exp2Val : FVal → FVal × Ev
  | .nan s => (.nan false, Ev.when s Ev.invalid)
  | .inf neg => if neg then (.fin false 0 1, 0) else (.inf false, 0)
  | .fin neg n d =>
    if 512 * d ≤ n then (if neg then .fin false 1 (2 ^ 512) else .fin false (2 ^ 512) 1, 0)
    else
      let q := n / d
      let r := n % d
      if r = 0 then (if neg then .fin false 1 (2 ^ q) else .fin false (2 ^ q) 1, 0)
      else
        let k : Int := if neg then -(q : Int) - 1 else q
        let r' := if neg then d - r else r
        (scaleFx false k (expFrac (r' * ln2Fx / d)), 0)

/-- log2 (R115): exact for powers of two. -/
def log2Val : FVal → FVal × Ev
  | .nan s => (.nan false, Ev.when s Ev.invalid)
  | .inf true => (.nan false, Ev.invalid)
  | .inf false => (.inf false, 0)
  | .fin neg n d =>
    if n = 0 then (.inf true, Ev.divzero)
    else if neg then (.nan false, Ev.invalid)
    else
      let k := log2Rat n d
      let (a, b) := if 0 ≤ k then (n, d * 2 ^ k.toNat) else (n * 2 ^ (-k).toNat, d)
      if a = b then (.fin (decide (k < 0)) k.natAbs 1, 0)
      else
        let fr := 2 * artanhFx (a - b) (a + b) * fxOne / ln2Fx
        let t : Int := k * (fxOne : Int) + (fr : Int)
        if t < 0 then (.fin true (2 * t.natAbs - 1) (2 * fxOne), 0)
        else (fxVal false t.toNat, 0)

/-- Quadrant and remainder of |x| by π/2, the argument reduced exactly (R115). -/
def trigReduce (num den : Nat) : Nat × Nat :=
  let x := num * fxOne / den
  let h := piFx / 2
  (x / h % 4, x % h)

/-- sin (R115), in radians. -/
def sinVal : FVal → FVal × Ev
  | .nan s => (.nan false, Ev.when s Ev.invalid)
  | .inf _ => (.nan false, Ev.invalid)
  | .fin neg n d =>
    if n = 0 then (.fin neg 0 1, 0)
    else
      let (q, r) := trigReduce n d
      let m := if q % 2 = 0 then sinFrac r else cosFrac r
      (fxVal (neg != decide (2 ≤ q)) m, 0)

/-- cos (R115), in radians. -/
def cosVal : FVal → FVal × Ev
  | .nan s => (.nan false, Ev.when s Ev.invalid)
  | .inf _ => (.nan false, Ev.invalid)
  | .fin _ n d =>
    if n = 0 then (.fin false 1 1, 0)
    else
      let (q, r) := trigReduce n d
      let m := if q % 2 = 0 then cosFrac r else sinFrac r
      if m = fxOne then (.fin false (2 * fxOne - 1) (2 * fxOne), 0)
      else (fxVal (q = 1 || q = 2) m, 0)

/-- tanh (R115): (e^2x − 1) / (e^2x + 1); from 64 on, one less a remnant below every H format's precision. -/
def tanhVal : FVal → FVal × Ev
  | .nan s => (.nan false, Ev.when s Ev.invalid)
  | .inf neg => (.fin neg 1 1, 0)
  | .fin neg n d =>
    if n = 0 then (.fin neg 0 1, 0)
    else if 64 * d ≤ n then (.fin neg (2 ^ 180 - 1) (2 ^ 180), 0)
    else
      let (k, m) := expParts false (2 * n) d
      let e := m * 2 ^ k.toNat
      (.fin neg (2 * (e - fxOne) + 1) (2 * (e + fxOne)), 0)

/-- sigm (R115): 1 / (1 + e^−x). -/
def sigmVal : FVal → FVal × Ev
  | .nan s => (.nan false, Ev.when s Ev.invalid)
  | .inf neg => if neg then (.fin false 0 1, 0) else (.fin false 1 1, 0)
  | .fin neg n d =>
    if n = 0 then (.fin false 1 2, 0)
    else if 256 * d ≤ n then (if neg then .fin false 1 (2 ^ 360) else .fin false (2 ^ 360 - 1) (2 ^ 360), 0)
    else
      let (k, m) := expParts false n d
      let e := m * 2 ^ k.toNat
      if neg then (.fin false fxOne (fxOne + e), 0) else (.fin false e (fxOne + e), 0)

/-- rcp (R115), the exact reciprocal. -/
def rcpVal (a : FVal) : FVal × Ev := divVal (.fin false 1 1) a

/-- rsqrt (R115): √(d / n) for the operand n / d. -/
def rsqrtVal : FVal → FVal × Ev
  | .nan s => (.nan false, Ev.when s Ev.invalid)
  | .inf true => (.nan false, Ev.invalid)
  | .inf false => (.fin false 0 1, 0)
  | .fin neg n d =>
    if n = 0 then (.inf neg, Ev.divzero)
    else if neg then (.nan false, Ev.invalid)
    else let (x, y) := sqrtRat d n; (.fin false x y, 0)

end Sys2Proof.Machine
end

