-- ==== Sys2Proof/Machine/Float.lean ====
section
/-! DEFINITION. Floating instructions (R106-R115): exact values, one rounding, the events of R67. -/

namespace Sys2Proof.Machine

/-- The format of a floating type. -/
def fmtOf (t : Ty) : Fmt := (Fmt.ofTy t).getD .f32
/-- The value of operand bits in a format. -/
def fval (f : Fmt) (x : Lane) : FVal := f.decode (x.toNat % 2 ^ f.bits)
/-- The low bits of a format. -/
def fbits (f : Fmt) (x : Lane) : Nat := x.toNat % 2 ^ f.bits

/-- A binary operation on exact values, rounded once (R106). -/
def fbin (f : Fmt) (r : Round) (op : FVal → FVal → FVal × Ev) (a b : Lane) : LaneOut :=
  .ev1 (deliver2 f (.plain r) (op (fval f a) (fval f b)))
/-- A unary one rounded to nearest (R108, R115). -/
def funa (f : Fmt) (r : Round) (op : FVal → FVal × Ev) (a : Lane) : LaneOut := .ev1 (deliver2 f (.plain r) (op (fval f a)))

def execAddFloat (h : Hd) (r : Round) (a b : Opnd) (s : State) : Out :=
  valueOp2 h h.ty h.ty h.ty a b (fbin (fmtOf h.ty) r (addVal r)) s
def execSubFloat (h : Hd) (r : Round) (a b : Opnd) (s : State) : Out :=
  valueOp2 h h.ty h.ty h.ty a b (fbin (fmtOf h.ty) r (fun x y => addVal r x y.negate)) s
def execMulFloat (h : Hd) (r : Round) (a b : Opnd) (s : State) : Out :=
  valueOp2 h h.ty h.ty h.ty a b (fbin (fmtOf h.ty) r mulVal) s
def execFma (h : Hd) (r : Round) (a b c : Opnd) (s : State) : Out :=
  valueOp3 h h.ty h.ty h.ty [h.ty] a b c (fun x y z =>
    .ev1 (deliver2 (fmtOf h.ty) (.plain r) (fmaVal r (fval (fmtOf h.ty) x) (fval (fmtOf h.ty) y) (fval (fmtOf h.ty) z)))) s
def execDivFloat (h : Hd) (r : Round) (a b : Opnd) (s : State) : Out :=
  valueOp2 h h.ty h.ty h.ty a b (fbin (fmtOf h.ty) r divVal) s
def execSqrt (h : Hd) (r : Round) (a : Opnd) (s : State) : Out := valueOp1 h h.ty h.ty a (funa (fmtOf h.ty) r sqrtVal) s
def execRcp (h : Hd) (a : Opnd) (s : State) : Out := valueOp1 h h.ty h.ty a (funa (fmtOf h.ty) .rne rcpVal) s
def execRsqrt (h : Hd) (a : Opnd) (s : State) : Out := valueOp1 h h.ty h.ty a (funa (fmtOf h.ty) .rne rsqrtVal) s
def execExp2 (h : Hd) (a : Opnd) (s : State) : Out := valueOp1 h h.ty h.ty a (funa (fmtOf h.ty) .rne exp2Val) s
def execLog2 (h : Hd) (a : Opnd) (s : State) : Out := valueOp1 h h.ty h.ty a (funa (fmtOf h.ty) .rne log2Val) s
def execSin (h : Hd) (a : Opnd) (s : State) : Out := valueOp1 h h.ty h.ty a (funa (fmtOf h.ty) .rne sinVal) s
def execCos (h : Hd) (a : Opnd) (s : State) : Out := valueOp1 h h.ty h.ty a (funa (fmtOf h.ty) .rne cosVal) s
def execTanh (h : Hd) (a : Opnd) (s : State) : Out := valueOp1 h h.ty h.ty a (funa (fmtOf h.ty) .rne tanhVal) s
def execSigm (h : Hd) (a : Opnd) (s : State) : Out := valueOp1 h h.ty h.ty a (funa (fmtOf h.ty) .rne sigmVal) s

/-- min and max in the order of R65 (R109). -/
def pickLane (f : Fmt) (isMin : Bool) (a b : Lane) : LaneOut :=
  .ev1 (pickFloat f isMin (fbits f a) (fbits f b), snanEv [fval f a, fval f b])
def execMinFloat (h : Hd) (a b : Opnd) (s : State) : Out := valueOp2 h h.ty h.ty h.ty a b (pickLane (fmtOf h.ty) true) s
def execMaxFloat (h : Hd) (a b : Opnd) (s : State) : Out := valueOp2 h h.ty h.ty h.ty a b (pickLane (fmtOf h.ty) false) s

/-- The sign bit of a format. -/
def signBit (f : Fmt) : Nat := 2 ^ (f.bits - 1)
def execNegFloat (h : Hd) (a : Opnd) (s : State) : Out :=
  valueOp1 h h.ty h.ty a (fun x => .ofNat ((fbits (fmtOf h.ty) x + signBit (fmtOf h.ty)) % 2 ^ (fmtOf h.ty).bits)) s
def execAbsFloat (h : Hd) (a : Opnd) (s : State) : Out :=
  valueOp1 h h.ty h.ty a (fun x => .ofNat (fbits (fmtOf h.ty) x % signBit (fmtOf h.ty))) s
def execCopysign (h : Hd) (a b : Opnd) (s : State) : Out :=
  valueOp2 h h.ty h.ty h.ty a b (fun x y =>
    .ofNat (fbits (fmtOf h.ty) x % signBit (fmtOf h.ty) + fbits (fmtOf h.ty) y / signBit (fmtOf h.ty) * signBit (fmtOf h.ty))) s
/-- cmp (R111): a signalling NaN counts INVALID. -/
def execCmpFloat (h : Hd) (c : FCmp) (a b : Opnd) (s : State) : Out :=
  valueOp2 h h.ty h.ty .i1 a b (fun x y =>
    let va := fval (fmtOf h.ty) x
    let vb := fval (fmtOf h.ty) y
    .ev1 (if fcmp c va vb then 1 else 0, snanEv [va, vb])) s
def execClass (h : Hd) (mask : BitVec 10) (a : Opnd) (s : State) : Out :=
  valueOp1 h h.ty .i1 a (fun x => .bool (mask.getLsbD (classBit (fmtOf h.ty) (fbits (fmtOf h.ty) x)))) s
def execRint (h : Hd) (r : Round) (a : Opnd) (s : State) : Out :=
  valueOp1 h h.ty h.ty a (fun x => .ev1 (rintBits (fmtOf h.ty) r (fbits (fmtOf h.ty) x))) s

/-- The winning pair of R66, with INVALID for a signalling NaN (R50). -/
def pairLane (f : Fmt) (isMin : Bool) (a ia b ib : Lane) : LaneOut :=
  let p := pickPair f isMin (fbits f a) (uns 32 ia) (fbits f b) (uns 32 ib)
  ⟨BitVec.ofNat 64 p.1, BitVec.ofNat 64 p.2, snanEv [fval f a, fval f b]⟩
def execAmax (h : Hd) (a ia b ib : Opnd) (s : State) : Out :=
  valueOp4 h h.ty .i32 h.ty .i32 [h.ty, .i32] a ia b ib (pairLane (fmtOf h.ty) false) s
def execAmin (h : Hd) (a ia b ib : Opnd) (s : State) : Out :=
  valueOp4 h h.ty .i32 h.ty .i32 [h.ty, .i32] a ia b ib (pairLane (fmtOf h.ty) true) s

end Sys2Proof.Machine
end

