-- ==== Sys2Proof/Machine/Convert.lean ====
section
/-! DEFINITION. Conversions and FP4 blocks (R116-R120). -/

namespace Sys2Proof.Machine

/-- Delivery of a float conversion (R117): an infinity stays infinite except into f8e4, or, with satInf, where R59 saturates it too. -/
def cvtDeliver (f : Fmt) (m : Mode) (satInf : Bool) (v : FVal) : Nat × Ev :=
  match v with
  | .inf neg => if f.ieee && !satInf then (f.infBits neg, 0) else deliver f m (.inf neg)
  | v => deliver f m v

/-- The conversions of R117, from type ta to tr. SATURATE counts every saturation (log 14). -/
def cvtLane (ta tr : Ty) (m : Mode) (satInf sg : Bool) (x : Lane) : LaneOut :=
  match Fmt.ofTy ta, Fmt.ofTy tr with
  | some fa, some fr =>
    let v := fa.decodeFtz m.ftz (fbits fa x)
    let r := cvtDeliver fr m satInf v.1
    .ev1 (r.1, r.2 ||| v.2)
  | some fa, none =>
    let v := fa.decodeFtz m.ftz (fbits fa x)
    let r := toInt tr.bits sg m.round v.1
    .ev1 (r.1, r.2 ||| v.2)
  | none, some fr =>
    if ta == .i1 then .ofNat (deliver fr (.plain .rne) (intVal 1 false (uns 1 x))).1
    else .ev1 (deliver fr m (intVal ta.bits sg (uns ta.bits x)))
  | none, none => .ofNat (uns ta.bits x)

def execCvt (h : Hd) (r : Round) (sat sg : Bool) (a : Opnd) (s : State) : Out :=
  withCur s fun gid g =>
    let ta := opndTy g h.ty a
    s.laneOp gid g h [(ta, a)] [h.ty] fun xs => cvtLane ta h.ty ⟨r, sat, false⟩ false sg (xs.getD 0 0)

/-- The slot an instruction names (R55). -/
def State.slotOf (s : State) (gid : GId) (n : BitVec 3) : Slot := (s.launch (s.team gid.tid).lid).slot n.toNat

/-- The slot faults of R118 and R119: FMT_EMPTY, then FMT_MISMATCH unless ok. -/
def State.withSlot (s : State) (gid : GId) (g : Group) (n : BitVec 3) (ok : Slot → Bool) (k : Slot → State) : State :=
  let sl := s.slotOf gid n
  if sl.isEmpty then s.fail gid g Code.fmtEmpty
  else if ok sl then k sl
  else s.fail gid g Code.fmtMismatch

/-- cvt.slot (R118): exactly one side is the slot's ELEM, and the slot gives rounding, saturation and flushing. -/
def execCvtSlot (h : Hd) (n : BitVec 3) (sg : Bool) (a : Opnd) (s : State) : Out :=
  withCur s fun gid g =>
    let ta := opndTy g h.ty a
    s.withSlot gid g n (fun sl => sl.elem != 13 && ((h.ty.code.toNat == sl.elem) != (ta.code.toNat == sl.elem))) fun sl =>
      s.laneOp gid g h [(ta, a)] [h.ty] fun xs => cvtLane ta h.ty sl.mode (sl.sat && h.ty.code.toNat == sl.elem) sg (xs.getD 0 0)

/-- An encoded block as a q4 value (R52). -/
def q4Of (e : Encoded) : Lane := BitVec.ofNat 64 (packNibbles e.codes + e.scale * 2 ^ 32)

/-- The block of octet j (R119): inactive lanes give +0; FTZ flushes subnormal inputs. -/
def packOctet (f : Fmt) (sl : Slot) (active : Mask) (x : Rd) (band : Option Rd) (j : Nat) : Encoded × Ev :=
  let ls := (List.range 8).map (fun k => 8 * j + k)
  let vs := ls.map (fun l => if active.getLsbD l then f.decodeFtz sl.ftz (fbits f (x.lane l)) else (FVal.fin false 0 1, 0))
  let lead := (ls.find? fun l => active.getLsbD l).getD 0
  let b := match band with | some r => bandVal (uns 16 (r.lane lead)) | none => bandOne
  let e := encodeBlock 13 sl.round sl.ftz b (vs.map (·.1))
  (e, vs.foldl (fun a v => a ||| v.2) e.ev)

/-- q4.pack (R119). -/
def execQ4Pack (h : Hd) (n : BitVec 3) (x : Opnd) (band : Option Opnd) (s : State) : Out :=
  withCur s fun gid g =>
    let f := fmtOf (opndTy g .f32 x)
    s.withSlot gid g n (fun sl => sl.elem == 13) fun sl =>
      let ins := match band with | some b => [(opndTy g .f32 x, x), (.bf16, b)] | none => [(opndTy g .f32 x, x)]
      s.groupOp gid g h ins fun rs =>
        let os := (List.range 4).map fun j =>
          if (lanesOf g.active).any (fun l => l / 8 == j) then packOctet f sl g.active (rs.getD 0 (.all 0)) rs[1]? j
          else (⟨[], 0, 0⟩, 0)
        ([(.q4, lanes32.map fun l => q4Of (os.getD (l / 8) (⟨[], 0, 0⟩, 0)).1)], os.foldl (fun a o => a ||| o.2) 0)

/-- q4.unpack (R120): element k mod 8, decoded under R53 and delivered with the slot's mode; an infinite element leaves the slot's format, so it stays infinite (R59). -/
def execQ4Unpack (h : Hd) (n : BitVec 3) (q k : Opnd) (band : Option Opnd) (s : State) : Out :=
  withCur s fun gid g =>
    s.withSlot gid g n (fun sl => sl.elem == 13) fun sl =>
      let ins := match band with | some b => [(.q4, q), (.i32, k), (.bf16, b)] | none => [(.q4, q), (.i32, k)]
      s.laneOp gid g h ins [h.ty] fun xs =>
        let w := (xs.getD 0 0).toNat
        let b := match band with | some _ => bandVal (uns 16 (xs.getD 2 0)) | none => bandOne
        let v := q4Elem (w % 2 ^ 32) (w / 2 ^ 32 % 4096) (uns 32 (xs.getD 1 0) % 8) b
        let r := cvtDeliver (fmtOf h.ty) sl.mode false v.1
        .ev1 (r.1, r.2 ||| v.2)

/-- q4.make (R120): bits [15:12] of the scale are ignored. -/
def execQ4Make (h : Hd) (w sc : Opnd) (s : State) : Out :=
  valueOp2 h .i32 .i16 .q4 w sc (fun x y => .ofNat (uns 32 x + uns 12 y * 2 ^ 32)) s
def execQ4Elem (h : Hd) (q : Opnd) (s : State) : Out := valueOp1 h .q4 .i32 q (fun x => .ofNat (uns 32 x)) s
def execQ4Scale (h : Hd) (q : Opnd) (s : State) : Out := valueOp1 h .q4 .i16 q (fun x => .ofNat (x.toNat / 2 ^ 32 % 4096)) s
/-- bitcast (R120): the same bits. -/
def execBitcast (h : Hd) (a : Opnd) (s : State) : Out :=
  withCur s fun gid g => s.laneOp gid g h [(opndTy g h.ty a, a)] [h.ty] fun xs => .one (maskTy h.ty (xs.getD 0 0))

end Sys2Proof.Machine
end

