-- ==== Sys2Proof/Machine/Lanes.lean ====
section
/-! DEFINITION. Lane and exchange instructions (R121-R127) and the exchange tree (R64). -/

namespace Sys2Proof.Machine

/-- The source lane of shfl (R122), before the test that it is active. -/
def shflSrc (m : ShflMode) (l n : Nat) : Option Nat :=
  match m with
  | .idx => some (n % 32)
  | .up => if l < n then none else some (l - n)
  | .down => if 31 < l + n then none else some (l + n)
  | .xor => some (l ^^^ (n % 32))
/-- The value a lane receives (R122). -/
def shflLane (m : ShflMode) (active : Mask) (v n : Rd) (l : Nat) : Lane :=
  match shflSrc m l (uns 32 (n.lane l)) with
  | some src => if active.getLsbD src then v.lane src else v.lane l
  | none => v.lane l
def execShfl (h : Hd) (m : ShflMode) (v n : Opnd) (s : State) : Out :=
  withCur s fun gid g => s.groupOp gid g h [(h.ty, v), (.i32, n)] fun rs =>
    ([(h.ty, lanes32.map (shflLane m g.active (rs.getD 0 (.all 0)) (rs.getD 1 (.all 0))))], 0)

/-- The result of vote (R123). -/
def voteBits (m : VoteMode) (active : Mask) (p : Rd) : Lane :=
  let ps := (lanesOf active).map (fun l => (p.lane l).getLsbD 0)
  match m with
  | .any => if ps.any id then 1 else 0
  | .all => if ps.all id then 1 else 0
  | .eq => if ps.all id || ps.all not then 1 else 0
  | .ballot => (maskOf ((lanesOf active).filter fun l => (p.lane l).getLsbD 0)).setWidth 64
def execVote (h : Hd) (m : VoteMode) (p : Opnd) (s : State) : Out :=
  withCur s fun gid g => s.groupOp gid g h [(.i1, p)] fun rs =>
    ([(h.ty, List.replicate 32 (voteBits m g.active (rs.getD 0 (.all 0))))], 0)

/-- A lane combine (R75, R124): integer min and max read signed, float ones follow R109, a float add rounds to nearest. -/
def combine (t : Ty) (c : Combine) (a b : Lane) : LaneOut :=
  let w := t.bits
  match c with
  | .and => bitLane w (a &&& b)
  | .or => bitLane w (a ||| b)
  | .xor => bitLane w (a ^^^ b)
  | .add => if t.isI then addLane w .wrap a b else fbin (fmtOf t) .rne (addVal .rne) a b
  | .min => if t.isI then minLane w false a b else pickLane (fmtOf t) true a b
  | .max => if t.isI then maxLane w false a b else pickLane (fmtOf t) false a b

/-- The identity of R124. -/
def combineId (t : Ty) (c : Combine) : Lane :=
  let f := fmtOf t
  match c with
  | .add => 0
  | .min => if t.isI then BitVec.ofNat 64 (2 ^ (t.bits - 1) - 1) else BitVec.ofNat 64 f.canonNan
  | .max => if t.isI then BitVec.ofNat 64 (2 ^ (t.bits - 1)) else BitVec.ofNat 64 (f.infBits true)
  | .and => BitVec.ofNat 64 (2 ^ t.bits - 1)
  | .or => 0
  | .xor => 0

/-- scan over the active lanes in ascending order (R124): (lane, result) pairs and the events. -/
def scanGo (t : Ty) (excl : Bool) (c : Combine) (v : Rd) : List Nat → Option Lane → Ev → List (Nat × Lane) × Ev
  | [], _, e => ([], e)
  | l :: ls, acc, e =>
    let o : LaneOut := match acc with | none => .one (v.lane l) | some a => combine t c a (v.lane l)
    let out := if excl then acc.getD (combineId t c) else o.a
    let r := scanGo t excl c v ls (some o.a) (e ||| o.ev)
    ((l, out) :: r.1, r.2)
/-- Lane copies from (lane, value) pairs. -/
def spread (ps : List (Nat × Lane)) : List Lane :=
  lanes32.map fun l => match ps.find? (fun p => p.1 == l) with | some p => p.2 | none => 0
/-- An operand of a reduction, which delivers it where no other lane takes part: a NaN is the canonical one, and a signalling one counts INVALID (R50, log 15). -/
def canonLane (t : Ty) (x : Lane) : LaneOut :=
  match Fmt.ofTy t with
  | some f => pickLane f true x x
  | none => .one x
/-- The operands of a reduction over the active lanes, and their events. -/
def canonIns (t : Ty) (active : Mask) (r : Rd) : Rd × Ev :=
  let os := lanes32.map fun l => if active.getLsbD l then canonLane t (r.lane l) else .one (r.lane l)
  (⟨os.map LaneOut.a, r.lost⟩, evOf os)
def execScan (h : Hd) (excl : Bool) (c : Combine) (v : Opnd) (s : State) : Out :=
  withCur s fun gid g => s.groupOp gid g h [(h.ty, v)] fun rs =>
    let x := canonIns h.ty g.active (rs.getD 0 (.all 0))
    let r := scanGo h.ty excl c x.1 (lanesOf g.active) none x.2
    ([(h.ty, spread r.1)], r.2)

/-- One step of the exchange tree at distance d (R64): an absent partner leaves the value. -/
def treeStep {α : Type} (comb : α → α → α × Ev) (d : Nat) (v : List (Option α)) : List (Option α) × Ev :=
  let os := (List.range v.length).map fun l =>
    match v.getD l none, v.getD (l ^^^ d) none with
    | some a, some b => (some (comb a b).1, (comb a b).2)
    | some a, none => (some a, 0)
    | none, b => (b, 0)
  (os.map (·.1), os.foldl (fun e o => e ||| o.2) 0)
/-- The five steps, and the value of the lowest active lane; the events of every step. -/
def tree {α : Type} (comb : α → α → α × Ev) (v : List (Option α)) : List (Option α) × Ev :=
  [1, 2, 4, 8, 16].foldl (fun r d => let q := treeStep comb d r.1; (q.1, r.2 ||| q.2)) (v, 0)
/-- The lanes of a group as tree inputs, inactive ones absent. -/
def treeIns (active : Mask) (r : Rd) : List (Option Lane) := lanes32.map fun l => if active.getLsbD l then some (r.lane l) else none

def execXred (h : Hd) (c : Combine) (v : Opnd) (s : State) : Out :=
  withCur s fun gid g => s.groupOp gid g h [(h.ty, v)] fun rs =>
    let x := canonIns h.ty g.active (rs.getD 0 (.all 0))
    let r := tree (fun a b => ((combine h.ty c a b).a, (combine h.ty c a b).ev)) (treeIns g.active x.1)
    ([(h.ty, r.1.map fun o => o.getD 0)], r.2 ||| x.2)

/-- xamax (R126): the tree of R64 over pairs with the combine of R66. -/
def execXamax (h : Hd) (isMin : Bool) (x idx : Opnd) (s : State) : Out :=
  withCur s fun gid g => s.groupOp gid g h [(h.ty, x), (.i32, idx)] fun rs =>
    let f := fmtOf h.ty
    let cs := canonIns h.ty g.active (rs.getD 0 (.all 0))
    let xs := cs.1
    let is := rs.getD 1 (.all 0)
    let ins := lanes32.map fun l => if g.active.getLsbD l then some (xs.lane l, is.lane l) else none
    let r := tree (fun (a b : Lane × Lane) =>
      let o := pairLane f isMin a.1 a.2 b.1 b.2
      ((o.a, o.b), o.ev)) ins
    ([(h.ty, r.1.map fun o => (o.getD (0, 0)).1), (.i32, r.1.map fun o => (o.getD (0, 0)).2)], r.2 ||| cs.2)

def execFirst (h : Hd) (v : Opnd) (s : State) : Out :=
  withCur s fun gid g => s.groupOp gid g h [(h.ty, v)] fun rs => ([(h.ty, List.replicate 32 ((rs.getD 0 (.all 0)).elect g))], 0)
def execActive (h : Hd) (s : State) : Out :=
  withCur s fun gid g => s.groupOp gid g h [] fun _ => ([(.i32, List.replicate 32 (g.active.setWidth 64))], 0)

end Sys2Proof.Machine
end

