-- ==== Sys2Proof/Machine/Memory.lean ====
section
/-! DEFINITION. Memory access and atomics (R145-R164): the checks of every lane before any access, loads and stores, gather and scatter, prefetch, pointers, atomics, reductions performed later, fences and the asynchronous logs at ordering points (R162, R415). -/

namespace Sys2Proof.Machine

-- deterministic phases (R372-R374) -------------------------------------------

/-- The kernel's .rwset ranges of a phase and direction, 0 read and 1 write (R44, R372). -/
def State.rwRanges (s : State) (tid p dir : Nat) : List (Nat × Nat) :=
  let l := s.launch (s.team tid).lid
  let items := match s.func l.module l.kernel with | some f => f.attrs | none => []
  (items.filter fun it => fld it 0 1 == 6 && fld it 1 1 == p && fld it 2 1 == dir).map fun it => (fld it 4 4, fld it 8 4)

/-- Whether the bytes from a to b lie in the union of ranges: each round passes the end of a range that holds a. -/
def coverGo (rs : List (Nat × Nat)) (b : Nat) : Nat → Nat → Bool
  | 0, a => decide (b ≤ a)
  | n + 1, a =>
    if b ≤ a then true
    else match rs.find? fun r => decide (r.1 ≤ a ∧ a < r.2) with
      | some r => coverGo rs b n r.2
      | none => false

/-- Whether phases are checked in a launch (R372). -/
def Launch.phased (l : Launch) : Bool := l.det && l.rwset != 0

/-- Whether an access of n scratch bytes from off breaches a phase's sets (R374). -/
def State.breach (s : State) (tid : Nat) (phase : Option Nat) (acc : Acc) (off n : Nat) : Bool :=
  match phase with
  | none => false
  | some p =>
    if !(s.launch (s.team tid).lid).phased then false
    else
      let cov (dir : Nat) : Bool := let rs := s.rwRanges tid p dir; coverGo rs (off + n) (rs.length + 1) off
      (acc != .write && !cov 0) || (acc.writes && !cov 1)

-- the checks of every lane (R147) --------------------------------------------

/-- The outcome of R147 over a group's lanes. -/
inductive LaneChk where
  | ok | wait | fault (code lane : Nat) (a : W64)
  deriving DecidableEq, Repr

/-- One lane's checks: 1-4 of R147, the phase sets (R374), then 5-8. late leaves 5-8 to the performing of a reduction (R159). -/
def State.checkLane (s : State) (gid : GId) (g : Group) (acc : Acc) (n : Nat) (late : Bool) (lane : Nat) (a : W64) : Chk :=
  let w := s.who gid g lane
  match s.check14 w acc a n n with
  | some c => .fault c
  | none =>
    if winOf a = .scratch && s.breach gid.tid g.phase acc (offOf a) n then .fault Code.rwsetOutside
    else if winOf a = .global && !late then s.checkPages w.job acc false (pagesOf a.toNat n)
    else .ok

/-- The lanes' checks in ascending order: the lowest failing lane's fault; a lane whose page is being moved waits (R318). -/
def State.checkLanes (s : State) (gid : GId) (g : Group) (acc : Acc) (n : Nat) (late : Bool) : List (Nat × W64) → LaneChk
  | [] => .ok
  | (l, a) :: rest =>
    match s.checkLane gid g acc n late l a with
    | .ok => State.checkLanes s gid g acc n late rest
    | .wait => .wait
    | .fault c => .fault c l a

/-- The fault of a lane's access (R147, R408): DETAIL0 the effective address for class 1. -/
def State.laneFault (s : State) (gid : GId) (g : Group) (code lane : Nat) (a : W64) : State :=
  s.raise gid g code (BitVec.ofNat 32 lane) (if Code.cls code = 1 then a else 0) 0

-- pages taken by the arbiter, and lines in error ------------------------------

/-- A completed device access to addresses of a job ends the HELD answers the device side won (R324). -/
def State.devTouch (s : State) (job : Nat) (vas : List Nat) : State :=
  if s.mig.held.isEmpty then s
  else
    let hit (h : HeldPage) : Bool := h.side == 0 && h.job.toNat == job && vas.any fun va => decide (h.va.toNat ≤ va ∧ va < h.va.toNat + h.size)
    { s with mig := { s.mig with held := s.mig.held.filter fun h => !hit h } }

/-- The global addresses of a list of lane accesses. -/
def globals (as : List (Nat × W64)) : List Nat := (as.filter fun p => winOf p.2 == .global).map fun p => p.2.toNat

/-- The physical address of a byte, for the windows that translate. -/
def State.physOf (s : State) (w : Who) (a : W64) : Option Nat :=
  match winOf a with
  | .global => match s.walkAs w .read a.toNat with | .ok fa => some fa | _ => none
  | .priv => if (s.launch (s.team w.tid).lid).exportOk then some (s.expAddr w (offOf a)) else none
  | _ => none
/-- The line in error, by its address, that an access meets (R407). -/
def State.poisonAt (s : State) (w : Who) (a : W64) : Option Nat :=
  match s.physOf w a with
  | some pa => if s.pln.poison.contains (pa / 128) then some (pa / 128 * 128) else none
  | none => none
/-- The first line in error that a list of lane accesses meets. -/
def State.poisonLanes (s : State) (gid : GId) (g : Group) : List (Nat × W64) → Option Nat
  | [] => none
  | (l, a) :: rest => (s.poisonAt (s.who gid g l) a).or (State.poisonLanes s gid g rest)

/-- Marks a destination lost and writes no bits to it (R407). -/
def Group.markLost (g : Group) (d : Dst) (num : Nat) (ty : Ty) (line : Nat) : Group :=
  match d with
  | .flinal =>
    let f := g.frame
    let v := SMap.get Val.undef f.vals num
    g.setFrame { f with vals := SMap.put Val.undef f.vals num ⟨ty, v.lanes, some line⟩ }
  | .reg r n => { g with nat := { g.nat with lost := (r, n.toNat, line) :: g.nat.lost } }

-- reductions (R158, R159, R162) ----------------------------------------------

/-- The new value of an atomic operation over the old value and the operand, and its events (R158). -/
def rmw (op : AtomOp) (ty : Ty) (old x : Lane) : LaneOut :=
  let w := ty.bits
  let o := uns w old
  let u := uns w x
  match op with
  | .add => .ofNat ((o + u) % 2 ^ w)
  | .minS => minLane w false old x
  | .minU => minLane w true old x
  | .maxS => maxLane w false old x
  | .maxU => maxLane w true old x
  | .and => bitLane w (old &&& x)
  | .or => bitLane w (old ||| x)
  | .xor => bitLane w (old ^^^ x)
  | .xchg => .ofNat u
  | .incw => .ofNat (if u ≤ o then 0 else o + 1)
  | .decw => .ofNat (if o = 0 ∨ u < o then u else o - 1)
  | .fadd => fbin (fmtOf ty) .rne (addVal .rne) old x

/-- Appends an entry to a log of 16, or counts it in OVER (R415). -/
def ALog.push (l : ALog) (e : LogEntry) : ALog :=
  if l.entries.length < 16 then { l with entries := l.entries ++ [e] }
  else { l with ovr := if l.ovr = 0x7FFF then l.ovr else l.ovr + 1 }

/-- Logs a failure in log k of a group's bank: 0 reductions, 1 Hod failures, 2 the Reel. -/
def State.logAsync (s : State) (tid k : Nat) (e : LogEntry) : State :=
  let t := s.team tid
  let c := s.core t.sock t.core
  let b := c.bank t.bank
  let b' := match k with
    | 0 => { b with log0 := b.log0.push e }
    | 1 => { b with log1 := b.log1.push e }
    | _ => { b with log2 := b.log2.push e }
  s.setCore t.sock t.core (c.setBank t.bank b')

/-- Who a reduction is to memory. -/
def Red.who (r : Red) (s : State) (tid : Nat) : Who := ⟨r.job, tid, r.g, r.lane, (s.launch (s.team tid).lid).priv, []⟩

/-- Counts the events of one lane's reduction: its instruction adds one to a class, however many of its lanes raise it (R67). -/
def State.countRed (s : State) (tid : Nat) (r : Red) (e : Ev) : State :=
  let t := s.team tid
  let seen := SMap.get 0 t.redEvs r.seq
  (s.setTeam tid { t with redEvs := SMap.put 0 t.redEvs r.seq (seen ||| e) }).countEv ⟨tid, r.g⟩ (e &&& ~~~seen)
/-- Performs a reduction (R158, R162): one read-modify-write whose events count to its context, or an entry in the reduction log when a check of 5-8 fails. none: its page is being moved. -/
def State.performRed (s : State) (tid : Nat) (r : Red) : Option State :=
  let w := r.who s tid
  let n := Ty.memSize r.ty
  let chk := if winOf r.addr = .global then s.checkPages w.job .rw false (pagesOf r.addr.toNat n) else .ok
  let fail (c : Nat) : State := s.logAsync tid 0 ⟨r.addr, r.x, c, r.op.code, r.lane, r.g, (s.team tid).idx⟩
  match chk with
  | .wait => none
  | .fault c => some (fail c)
  | .ok =>
    match s.poisonAt w r.addr with
    | some _ => some (fail Code.dataLoss)
    | none =>
      let old := ofMem r.ty (s.getBytes w r.addr n)
      let o := rmw r.op r.ty old r.x
      some (((s.putBytes w r.addr (toMem r.ty o.a)).devTouch w.job (globals [(r.lane, r.addr)])).countRed tid r o.ev)

/-- Takes a reduction out of its team's list, and with the last of its instruction what that counted. -/
def State.dropRed (s : State) (tid : Nat) (r : Red) : State :=
  let t := s.team tid
  let rest := t.reds.erase r
  s.setTeam tid { t with reds := rest, redEvs := if rest.any (fun q => q.seq == r.seq) then t.redEvs else SMap.put 0 t.redEvs r.seq 0 }

/-- Performs reductions of a list, oldest first; false when one waits for a page. -/
def State.performReds (s : State) (tid : Nat) : List Red → State × Bool
  | [] => (s, true)
  | r :: rs =>
    match s.performRed tid r with
    | none => (s, false)
    | some s' => State.performReds (s'.dropRed tid r) tid rs

/-- REDUCTION performed (R159): the team's oldest. -/
def execRedPerform (tid : Nat) (s : State) : Out :=
  .next (match (s.team tid).reds with
    | [] => s
    | r :: _ => match s.performRed tid r with | some s' => s'.dropRed tid r | none => s)

/-- The group's earlier reductions that pass p are performed before the instruction goes on; it parks while one waits for its page. -/
def State.afterReds (s : State) (gid : GId) (g : Group) (p : Red → Bool) (k : State → Group → State) : State :=
  match (s.team gid.tid).reds.filter fun r => r.g == gid.g && p r with
  | [] => k s g
  | rs =>
    let (s1, done) := s.performReds gid.tid rs
    let g1 := (s1.group gid).getD g
    if done then k s1 g1 else s1.park gid g1

/-- An access of class ac observes the group's earlier reductions of that class (R150, R159). -/
def State.inClass (s : State) (gid : GId) (g : Group) (ac : BitVec 3) (k : State → Group → State) : State :=
  s.afterReds gid g (fun r => r.ac == ac) k

/-- The code of the lowest non-empty log of a group's context (R162, R340, R389, R415); none in a handler. -/
def State.asyncCode (s : State) (gid : GId) (g : Group) : Option Nat :=
  let t := s.team gid.tid
  let b := (s.core t.sock t.core).bank t.bank
  if g.inHandler then none
  else if !b.log0.entries.isEmpty then some Code.redAsync
  else if !b.log1.entries.isEmpty then some Code.hodAsync
  else if !b.log2.entries.isEmpty then some Code.reelAsync
  else none

/-- An ordering point (R162): every earlier reduction of the group is performed, and a non-empty log of the context stops the group before the point takes effect. -/
def State.orderPoint (s : State) (gid : GId) (g : Group) (k : State → Group → State) : State :=
  s.afterReds gid g (fun _ => true) fun s1 g1 =>
    match s1.asyncCode gid g1 with
    | some c => s1.fail gid g1 c
    | none => k s1 g1

/-- An access: an ordering point unless it is relaxed (R152, R162), else ordered in its class (R150). -/
def State.ordered (s : State) (gid : GId) (g : Group) (relaxed : Bool) (ac : BitVec 3) (k : State → Group → State) : State :=
  if relaxed then s.inClass gid g ac k else s.orderPoint gid g k

-- the shape of an access -----------------------------------------------------

/-- The accesses of a group: each active lane with its address. -/
def accesses (g : Group) (f : Nat → W64) : List (Nat × W64) := (lanesOf g.active).map fun l => (l, f l)

/-- Reads operands, computes each lane's address, checks every lane (R147), and goes on with the operands and the accesses. Lost operands, failing lanes and pages in motion stop the instruction before any access. -/
def State.access (s : State) (gid : GId) (g : Group) (acc : Acc) (n : Nat) (late : Bool) (ins : List (Ty × Opnd)) (addr : List Rd → Nat → W64)
    (k : List Rd → List (Nat × W64) → State) : State :=
  let rs := ins.map fun i => s.read gid g i.1 i.2
  match lostOf rs with
  | some l => s.dataLoss gid g l
  | none =>
    let as := accesses g (addr rs)
    match s.checkLanes gid g acc n late as with
    | .fault c l a => s.laneFault gid g c l a
    | .wait => s.park gid g
    | .ok => k rs as

/-- The values of a list of loads, by lane. -/
def State.loaded (s : State) (gid : GId) (g : Group) (ty : Ty) (as : List (Nat × W64)) : List Lane :=
  spread (as.map fun p => (p.1, ofMem ty (s.getBytes (s.who gid g p.1) p.2 (Ty.memSize ty))))

/-- A load delivers its values, or marks its destination lost (R153, R407). -/
def State.deliverLoad (s : State) (gid : GId) (g : Group) (h : Hd) (as : List (Nat × W64)) : State :=
  let s1 := s.devTouch (s.who gid g 0).job (globals as)
  match s.poisonLanes gid g as with
  | some line => s1.advance gid (g.markLost h.dst (s.defNum gid g) h.ty line) h.ce
  | none => s1.finish gid g h g.active [(h.ty, s.loaded gid g h.ty as)] 0

/-- Stores of a group in ascending lane order: the highest lane's value stands (R151). -/
def State.storeLanes (s : State) (gid : GId) (g : Group) (ty : Ty) (v : Nat → Lane) : List (Nat × W64) → State
  | [] => s
  | (l, a) :: rest => State.storeLanes (s.putBytes (s.who gid g l) a (toMem ty (v l))) gid g ty v rest

/-- The issuing group as a state holds it, after stores that touch no group. -/
def State.afterStore (s : State) (gid : GId) (g : Group) (h : Hd) (as : List (Nat × W64)) : State :=
  (s.devTouch (s.who gid g 0).job (globals as)).advance gid g h.ce

-- loads and stores (R153) ----------------------------------------------------

/-- A load from the pointer operand plus a signed byte offset. -/
def loadAt (h : Hd) (ac : BitVec 3) (acq : Bool) (p : Opnd) (off : W32) (s : State) : Out :=
  withCur s fun gid g => s.ordered gid g (!acq) ac fun s g =>
    s.access gid g .read (Ty.memSize h.ty) false [(.ptr, p)] (fun rs l => (rs.getD 0 (.all 0)).lane l + off.signExtend 64) fun _ as =>
      s.deliverLoad gid g h as
/-- A store to the pointer operand plus a signed byte offset. -/
def storeAt (h : Hd) (ac : BitVec 3) (rel : Bool) (p v : Opnd) (off : W32) (s : State) : Out :=
  withCur s fun gid g => s.ordered gid g (!rel) ac fun s g =>
    s.access gid g .write (Ty.memSize h.ty) false [(.ptr, p), (h.ty, v)] (fun rs l => (rs.getD 0 (.all 0)).lane l + off.signExtend 64) fun rs as =>
      (s.storeLanes gid g h.ty (rs.getD 1 (.all 0)).lane as).afterStore gid g h as

def execLd (h : Hd) (ac : BitVec 3) (acq : Bool) (_sc : Scope) (p : Opnd) (s : State) : Out := loadAt h ac acq p 0 s
def execLdk (h : Hd) (ac : BitVec 3) (acq : Bool) (_sc : Scope) (p : Opnd) (off : W32) (s : State) : Out := loadAt h ac acq p off s
def execSt (h : Hd) (ac : BitVec 3) (rel : Bool) (_sc : Scope) (p v : Opnd) (s : State) : Out := storeAt h ac rel p v 0 s
def execStk (h : Hd) (ac : BitVec 3) (rel : Bool) (_sc : Scope) (p v : Opnd) (off : W32) (s : State) : Out := storeAt h ac rel p v off s

-- gather and scatter (R154) --------------------------------------------------

/-- The type that WIDTH names. -/
def widthTy (w : BitVec 2) : Ty :=
  match w.toNat with
  | 0 => .i8
  | 1 => .i16
  | 2 => .i32
  | _ => .i64
/-- The byte scale. -/
def scaleBytes (t : Ty) : GScale → Nat
  | .x1 => 1
  | .x2 => 2
  | .x4 => 4
  | .x8 => 8
  | .elem => Ty.memSize t
/-- The effective address: base + ext(index) × scale modulo 2^64 (R146). -/
def gatherAddr (t : Ty) (width : BitVec 2) (sg : Bool) (sc : GScale) (base idx : Lane) : W64 :=
  let w := (widthTy width).bits
  let i : Int := if sg then sgn w idx else (uns w idx : Int)
  base + BitVec.ofInt 64 (i * (scaleBytes t sc : Int))

def execGather (h : Hd) (ac : BitVec 3) (width : BitVec 2) (sg : Bool) (sc : GScale) (base idx : Opnd) (s : State) : Out :=
  withCur s fun gid g => s.inClass gid g ac fun s g =>
    s.access gid g .read (Ty.memSize h.ty) false [(.ptr, base), (widthTy width, idx)]
      (fun rs l => gatherAddr h.ty width sg sc ((rs.getD 0 (.all 0)).lane l) ((rs.getD 1 (.all 0)).lane l)) fun _ as => s.deliverLoad gid g h as
def execScatter (h : Hd) (ac : BitVec 3) (width : BitVec 2) (sg : Bool) (sc : GScale) (base idx v : Opnd) (s : State) : Out :=
  withCur s fun gid g => s.inClass gid g ac fun s g =>
    s.access gid g .write (Ty.memSize h.ty) false [(.ptr, base), (widthTy width, idx), (h.ty, v)]
      (fun rs l => gatherAddr h.ty width sg sc ((rs.getD 0 (.all 0)).lane l) ((rs.getD 1 (.all 0)).lane l)) fun rs as =>
      (s.storeLanes gid g h.ty (rs.getD 2 (.all 0)).lane as).afterStore gid g h as

-- prefetch, export and cast (R155-R157) --------------------------------------

/-- A translation enters a die's L2 TLB of 8192 entries, or a core's L1 TLB of 256 (R319); what finds its TLB full is dropped, as any prefetch may be (R155, DESIGN CHOICE, log 41). -/
def tlbAdd (es : List TlbEntry) (e : TlbEntry) : List TlbEntry :=
  if es.contains e || decide ((if e.core.isSome then 256 else 8192) ≤ (es.filter fun x => x.sock == e.sock && x.core == e.core).length) then es else es ++ [e]
/-- One lane's prefetch: an address that fails a check is dropped; xlat enters the translation in the TLBs, the others may bring the line into the die's own slice. -/
def State.prefetchLane (s : State) (gid : GId) (g : Group) (f : PfForm) (l : Nat) (a : W64) : State :=
  let w := s.who gid g l
  let t := s.team gid.tid
  let sock := t.sock
  if winOf a != .global then s
  else match s.check14 w .read a 1 1, s.walk w.job .read a.toNat with
    | none, .ok fa =>
      (match f with
       | .xlat =>
         let e (core : Option Nat) : TlbEntry := ⟨BitVec.ofNat 12 w.job, a.toNat / 65536, sock, core⟩
         { s with pln := { s.pln with tlb := tlbAdd (tlbAdd s.pln.tlb (e none)) (e (some t.core)) } }
       | _ =>
         let r : Replica := ⟨fa / 128, sock⟩
         match s.home fa with
         | some (hs, _) => if hs = sock || s.pln.replicas.contains r then s else { s with pln := { s.pln with replicas := s.pln.replicas ++ [r] } }
         | none => s)
    | _, _ => s
def State.prefetchLanes (s : State) (gid : GId) (g : Group) (f : PfForm) : List (Nat × W64) → State
  | [] => s
  | (l, a) :: rest => State.prefetchLanes (s.prefetchLane gid g f l a) gid g f rest
def execPrefetch (h : Hd) (_ac : BitVec 3) (f : PfForm) (p : Opnd) (s : State) : Out :=
  withCur s fun gid g =>
    let r := s.read gid g .ptr p
    match r.lost with
    | some l => s.dataLoss gid g l
    | none => (s.prefetchLanes gid g f (accesses g r.lane)).advance gid g h.ce

/-- The fault of an export in one lane (R156). -/
def State.exportFault (s : State) (gid : GId) (g : Group) (l : Nat) (a : W64) : Option Nat :=
  if winOf a != .priv then none
  else if !(s.launch (s.team gid.tid).lid).exportOk then some Code.exportDenied
  else if (s.who gid g l).privSize ≤ offOf a then some Code.addrRange
  else none
/-- The global alias of a private pointer (R156). -/
def State.exported (s : State) (gid : GId) (l : Nat) (a : W64) : W64 :=
  let t := s.team gid.tid
  let la := s.launch t.lid
  if winOf a = .priv then BitVec.ofNat 64 (la.expBase + ((t.idx * la.groups + gid.g) * 32 + l) * la.priv + offOf a) else a
/-- The lowest lane whose export faults. -/
def State.exportScan (s : State) (gid : GId) (g : Group) : List (Nat × W64) → Option (Nat × Nat × W64)
  | [] => none
  | (l, a) :: rest => match s.exportFault gid g l a with | some c => some (c, l, a) | none => State.exportScan s gid g rest
def execPtrExport (h : Hd) (_ac : BitVec 3) (p : Opnd) (s : State) : Out :=
  withCur s fun gid g =>
    let r := s.read gid g .ptr p
    match r.lost with
    | some l => s.dataLoss gid g l
    | none =>
      match s.exportScan gid g (accesses g r.lane) with
      | some (c, l, a) => s.laneFault gid g c l a
      | none => s.finish gid g h g.active [(.ptr, lanes32.map fun l => s.exported gid l (r.lane l))] 0

/-- The tag of a window (R34). -/
def Win.tag : Win → Nat
  | .global => 0
  | .const => 0xFD
  | .scratch => 0xFE
  | .priv => 0xFF
def execPtrCast (h : Hd) (_ac : BitVec 3) (w : Win) (p : Opnd) (s : State) : Out :=
  valueOp1 h .ptr .ptr p (fun a => .ofNat (Win.tag w * 2 ^ 56 + offOf a)) s

-- atomics (R158-R163) --------------------------------------------------------

/-- The operations of one instruction, one lane after another (R151): each lane's old value, the events, and the state. f gives the value to write, or none. -/
def State.atomLanes (s : State) (gid : GId) (g : Group) (ty : Ty) (f : Nat → Lane → Option LaneOut) :
    List (Nat × W64) → List (Nat × Lane) → Ev → State × List (Nat × Lane) × Ev
  | [], acc, e => (s, acc, e)
  | (l, a) :: rest, acc, e =>
    let w := s.who gid g l
    let old := ofMem ty (s.getBytes w a (Ty.memSize ty))
    match f l old with
    | some o => State.atomLanes (s.putBytes w a (toMem ty o.a)) gid g ty f rest (acc ++ [(l, old)]) (e ||| o.ev)
    | none => State.atomLanes s gid g ty f rest (acc ++ [(l, old)]) e

/-- A returning atomic: the old values are delivered; a line in error marks the destination lost and nothing is written (R407). -/
def State.atomOp (s : State) (gid : GId) (g : Group) (h : Hd) (as : List (Nat × W64)) (f : Nat → Lane → Option LaneOut) : State :=
  match s.poisonLanes gid g as with
  | some line => s.advance gid (g.markLost h.dst (s.defNum gid g) h.ty line) h.ce
  | none =>
    let (s1, olds, e) := s.atomLanes gid g h.ty f as [] 0
    (s1.devTouch (s.who gid g 0).job (globals as)).finish gid g h g.active [(h.ty, spread olds)] e

def execAtom (h : Hd) (ac : BitVec 3) (op : AtomOp) (ord : Order) (_sc : Scope) (p x : Opnd) (s : State) : Out :=
  withCur s fun gid g => s.ordered gid g (ord == .relaxed) ac fun s g =>
    s.access gid g .rw (Ty.memSize h.ty) false [(.ptr, p), (h.ty, x)] (fun rs l => (rs.getD 0 (.all 0)).lane l) fun rs as =>
      s.atomOp gid g h as fun l old => some (rmw op h.ty old ((rs.getD 1 (.all 0)).lane l))

def execCas (h : Hd) (ac : BitVec 3) (ord : Order) (_sc : Scope) (p e n : Opnd) (s : State) : Out :=
  withCur s fun gid g => s.ordered gid g (ord == .relaxed) ac fun s g =>
    s.access gid g .rw (Ty.memSize h.ty) false [(.ptr, p), (h.ty, e), (h.ty, n)] (fun rs l => (rs.getD 0 (.all 0)).lane l) fun rs as =>
      s.atomOp gid g h as fun l old =>
        if uns h.ty.bits old = uns h.ty.bits ((rs.getD 1 (.all 0)).lane l) then some (.one ((rs.getD 2 (.all 0)).lane l)) else none

/-- The number of a new reduction instruction: one that no pending one has. -/
def Team.redSeq (t : Team) : Nat := t.reds.foldl (fun n r => Nat.max n (r.seq + 1)) 0
/-- red (R159): the group goes on once checks 1-4 pass; the reductions are performed later, oldest first. -/
def execRed (h : Hd) (ac : BitVec 3) (op : AtomOp) (ord : Order) (_sc : Scope) (p x : Opnd) (s : State) : Out :=
  withCur s fun gid g =>
    let go (s : State) (g : Group) : State :=
      s.access gid g .rw (Ty.memSize h.ty) true [(.ptr, p), (h.ty, x)] (fun rs l => (rs.getD 0 (.all 0)).lane l) fun rs as =>
        let t := s.team gid.tid
        let new := as.map fun q => Red.mk q.2 q.1 gid.g op h.ty ((rs.getD 1 (.all 0)).lane q.1) ac (s.who gid g q.1).job t.redSeq
        (s.setTeam gid.tid { t with reds := t.reds ++ new }).advance gid g h.ce
    if ord = .relaxed then go s g else s.orderPoint gid g go

/-- fence (R163): an ordering point that touches no byte. -/
def execFence (h : Hd) (_ord : Order) (_sc : Scope) (s : State) : Out :=
  withCur s fun gid g => s.orderPoint gid g fun s g => s.advance gid g h.ce

end Sys2Proof.Machine
end

