-- ==== Sys2Proof/Machine/Check.lean ====
section
/-! DEFINITION. The whole-function check of a translation (R24-R40, R87, R88) and the container check of registration (R25, R41-R44). -/

namespace Sys2Proof.Machine

/-- A word group of a function as the check walks it: its place, what decoding gives, its first result's number, its block (none before the first blk). -/
structure CItem where
  word : Nat
  len : Nat
  res : Except XlCode Decoded
  val : Nat
  block : Option Nat

/-- The items of a function; an undecodable word takes the length its XW gives, and counts no value (DESIGN CHOICE, log 39). -/
def citemsGo : Nat → List W32 → Nat → Nat → Option Nat → List CItem
  | 0, _, _, _, _ => []
  | _ + 1, [], _, _, _ => []
  | n + 1, w :: ws, pos, val, blk =>
    let r := decodeLoose (w :: ws)
    match r with
    | .ok d =>
      let blk' := match d.instr with | .blk _ => some (match blk with | some b => b + 1 | none => 0) | _ => blk
      ⟨pos, d.len, r, val, blk'⟩ :: citemsGo n ((w :: ws).drop d.len) (pos + d.len) (val + (defTys d.instr).length) blk'
    | .error _ =>
      let len := 1 + (Word0.ofWord w).xw
      ⟨pos, len, r, val, blk⟩ :: citemsGo n ((w :: ws).drop len) (pos + len) val blk
def citems (ws : List W32) : List CItem := citemsGo ws.length ws 0 0 none

def CItem.instr (c : CItem) : Option Instr := match c.res with | .ok d => some d.instr | .error _ => none

/-- Operands of the `args` run directly before an item, in word order (R77). -/
def argRunOf (l : List Instr) : List Opnd :=
  match l with
  | .args vs :: rest => argRunOf rest ++ vs
  | _ => []

/-- What an operand position admits (R30, R71): one type; a set of types where the operand gives the type and no special stands; any type of a set. -/
inductive Pos where
  | ex (t : Ty)
  | own (ok : Ty → Bool)
  | any (ok : Ty → Bool)

/-- The operands of an instruction with what their positions admit; branch and call arguments are checked apart. -/
def positions : Instr → List (Opnd × Pos)
  | .cbr c _ _ _ _ _ => [(c, .ex .i1)]
  | .switch x _ _ _ => [(x, .ex .i32)]
  | .add h _ a b | .sub h _ a b => [(a, .ex h.ty), (b, .ex (if h.ty == .ptr then .i64 else h.ty))]
  | .mul h _ a b | .div h _ a b | .divrem h _ a b | .rem h _ a b | .min h _ a b | .max h _ a b => [(a, .ex h.ty), (b, .ex h.ty)]
  | .and h a b | .or h a b | .xor h a b | .andn h a b | .shl h a b | .shr h _ a b | .rot h _ a b => [(a, .ex h.ty), (b, .ex h.ty)]
  | .cmp h _ a b | .addFloat h _ a b | .subFloat h _ a b | .mulFloat h _ a b | .divFloat h _ a b => [(a, .ex h.ty), (b, .ex h.ty)]
  | .minFloat h a b | .maxFloat h a b | .copysign h a b | .cmpFloat h _ a b => [(a, .ex h.ty), (b, .ex h.ty)]
  | .mad h a b c | .fma h _ a b c => [(a, .ex h.ty), (b, .ex h.ty), (c, .ex h.ty)]
  | .neg h _ a | .abs h _ a | .not h a | .popc h a | .clz h a | .ctz h a | .brev h a => [(a, .ex h.ty)]
  | .sqrt h _ a | .rcp h a | .rsqrt h a | .negFloat h a | .absFloat h a | .class h _ a | .rint h _ a => [(a, .ex h.ty)]
  | .exp2 h a | .log2 h a | .sin h a | .cos h a | .tanh h a | .sigm h a => [(a, .ex h.ty)]
  | .addc h a b c | .subb h a b c => [(a, .ex h.ty), (b, .ex h.ty), (c, .ex .i1)]
  | .bfx h _ v p l => [(v, .ex h.ty), (p, .ex .i32), (l, .ex .i32)]
  | .bfi h b i p l => [(b, .ex h.ty), (i, .ex h.ty), (p, .ex .i32), (l, .ex .i32)]
  | .sel h c a b => [(c, .ex .i1), (a, .ex h.ty), (b, .ex h.ty)]
  | .ext h _ a => [(a, .own fun t => t.isI && decide (t.bits < h.ty.bits))]
  | .trunc h a => [(a, .own fun t => t.isI && decide (h.ty.bits < t.bits))]
  | .ptoi _ a => [(a, .ex .ptr)]
  | .itop _ a => [(a, .ex .i64)]
  | .ptrIdx _ _ _ p x => [(p, .ex .ptr), (x, .own Ty.isI)]
  | .amax h a ia b ib | .amin h a ia b ib => [(a, .ex h.ty), (ia, .ex .i32), (b, .ex h.ty), (ib, .ex .i32)]
  | .cvt h _ _ _ a | .cvtSlot h _ _ a =>
    [(a, .own fun t => isACvt t && t != .ptr && h.ty != .ptr && h.ty != .i1 && t != h.ty && !(t.isI && h.ty.isI))]
  | .bitcast h a => [(a, .own fun t => isACvt t && t.bits == h.ty.bits)]
  | .q4Pack _ _ x band => (x, .any Ty.isH) :: (match band with | some b => [(b, .ex .bf16)] | none => [])
  | .q4Unpack _ _ q k band => (q, .ex .q4) :: (k, .ex .i32) :: (match band with | some b => [(b, .ex .bf16)] | none => [])
  | .q4Make _ w s => [(w, .ex .i32), (s, .ex .i16)]
  | .q4Elem _ q | .q4Scale _ q => [(q, .ex .q4)]
  | .shfl h _ v n => [(v, .ex h.ty), (n, .ex .i32)]
  | .vote _ _ p => [(p, .ex .i1)]
  | .scan h _ _ v | .xred h _ v | .first h v => [(v, .ex h.ty)]
  | .xamax h _ x i => [(x, .ex h.ty), (i, .ex .i32)]
  | .emit h _ v sp => (v, .ex h.ty) :: (match sp with | some x => [(x, .ex .hnd)] | none => [])
  | .ld _ _ _ _ p | .ldk _ _ _ _ p _ | .prefetch _ _ _ p | .ptrExport _ _ p | .ptrCast _ _ _ p => [(p, .ex .ptr)]
  | .st h _ _ _ p v | .stk h _ _ _ p v _ => [(p, .ex .ptr), (v, .ex h.ty)]
  | .gather _ _ w _ _ b i => [(b, .ex .ptr), (i, .ex (gIdxTy w))]
  | .scatter h _ w _ _ b i v => [(b, .ex .ptr), (i, .ex (gIdxTy w)), (v, .ex h.ty)]
  | .atom h _ _ _ _ p x | .red h _ _ _ _ p x => [(p, .ex .ptr), (x, .ex h.ty)]
  | .cas h _ _ _ p e n => [(p, .ex .ptr), (e, .ex h.ty), (n, .ex h.ty)]
  | .bar _ _ l g | .barArrive _ _ l g => [(l, .ex .i32), (g, .ex .i32)]
  | .barWait _ p => [(p, .ex .i32)]
  | .barWaitTimed _ _ p l => [(p, .ex .i32), (l, .ex .i64)]
  | .xbInit _ p n | .xbExpect _ p n => [(p, .ex .ptr), (n, .ex .i32)]
  | .xbWait p => [(p, .ex .ptr)]
  | .xbWaitTimed _ p l => [(p, .ex .ptr), (l, .ex .i64)]
  | .spoolClaim _ s | .spoolWaitfilled _ s | .spoolWaitfree s | .sread _ s | .mxWait s => [(s, .ex .hnd)]
  | .spoolCommit _ s p | .spoolRelease _ s p => [(s, .ex .hnd), (p, .ex .ptr)]
  | .hodKick _ _ n => [(n, .ex .i32)]
  | .hodBind _ _ r | .hodPut _ _ r | .hodGet _ _ r => [(r, .ex .ptr)]
  | .reelBoard _ k p => [(k, .ex .i64), (p, .ex .ptr)]
  | .reelAlight _ k n d c => [(k, .ex .i64), (n, .ex .i32), (d, .ex .ptr), (c, .ex .ptr)]
  | .reelCapture _ _ _ _ k n x y => [(k, .ex .i64), (n, .ex .i32), (x, .ex .i64), (y, .ex .i64)]
  | .mxLdst _ _ p | .mxStream _ _ p | .mxSpgather _ _ p | .mxCompress _ _ p | .mxDrain _ _ p | .mxDrainAdd _ _ p => [(p, .ex .ptr)]
  | .mxStreamBound _ _ p st => [(p, .ex .ptr), (st, .ex .hnd)]
  | .ctxSpill p | .ctxFill p | .ctxDivSave _ p | .ctxDivRestore _ p | .ctxBarSave _ p | .ctxBarRestore _ p => [(p, .ex .ptr)]
  | .ctxBank b => [(b, .ex .i32)]
  | .doffIssue _ j a => [(j, .ex .i32), (a, .ex .ptr)]
  | .trapDetail _ d => [(d, .ex .i32)]
  | .rdcap _ o => [(o, .ex .i32)]
  | _ => []

/-- A value as the check knows it: its type, its block and item, and whether it is statically uniform (R33). -/
structure VInfo where
  ty : Ty
  block : Nat
  item : Nat
  uni : Bool

/-- What the check of a function needs: its items, its values in order, the argument types of its blocks, dominators by block. -/
structure CFn where
  its : List CItem
  vals : List VInfo
  heads : List (List Ty)
  dom : List (List Nat)
  kind : Nat

/-- The types of an instruction's values, the second result of a call given apart (R77). -/
def defTys2 (second : Ty) (i : Instr) : List Ty :=
  match i with
  | .call h two _ _ _ => if h.ty = .void then [] else if two then [h.ty, second] else [h.ty]
  | i => defTys i

/-- The values of a function's items, by second-result types of its calls. -/
def valsGo (kernel : Bool) (second : Nat → Ty) : List CItem → Nat → List VInfo
  | [], _ => []
  | c :: cs, k =>
    let rest := valsGo kernel second cs (k + 1)
    match c.res with
    | .error _ => rest
    | .ok d =>
      let b := c.block.getD 0
      let uni := match d.instr with
        | .blk _ => kernel && b == 0
        | i => d.row.u && (parts i).any (fun p => p.md.getLsbD 3)
      let sec := match d.instr with | .call _ _ f _ _ => second f.toNat | _ => .void
      ((defTys2 sec d.instr).map fun t => ⟨t, b, k, uni⟩) ++ rest

/-- The type a returned or passed reference names, of the values known (R30). -/
def refTy (vals : List VInfo) : Opnd → Option Ty
  | .ref n => if 0xFFE0 ≤ n.toNat then specialTy n.toNat else (vals[n.toNat]?).map VInfo.ty
  | _ => none

/-- The types of a function's first ret (R140): none where it has no ret; void for a type that a word which does not decode leaves unknown. fuel bounds the depth of calls. -/
def retTys (fns : List Func) : Nat → Nat → Option (List Ty)
  | 0, _ => none
  | fuel + 1, f =>
    match fns[f]? with
    | none => none
    | some fn =>
      let its := citems fn.words
      let second (c : Nat) : Ty := match retTys fns fuel c with | some [_, t] => t | _ => .void
      let vals := valsGo (fn.kind == 1) second its 0
      match its.find? (fun c => match c.instr with | some .ret => true | some (.retValues _ _) => true | _ => false) with
      | none => none
      | some c =>
        match c.instr with
        | some (.retValues v w) =>
          let sure := match its.find? (fun c => c.instr.isNone) with | some c => vals.take c.val | none => vals
          some ((v :: w.toList).map fun o => (refTy sure o).getD .void)
        | _ => some []

/-- Dominators by block: the blocks that every path from block 0 passes, refined n times. -/
def domGo (preds : List (List Nat)) : Nat → List (List Nat) → List (List Nat)
  | 0, d => d
  | n + 1, d =>
    let d' := (List.range d.length).map fun b =>
      if b = 0 then [0]
      else match preds.getD b [] with
        | [] => d.getD b []
        | p :: ps => b :: (ps.foldl (fun acc q => acc.filter fun x => (d.getD q []).contains x) (d.getD p [])).filter fun x => x != b
    domGo preds n d'

/-- Successors by block of checked items. -/
def csuccs : List CItem → List (List Nat) → List (List Nat)
  | [], acc => acc
  | c :: cs, acc =>
    match c.instr with
    | some (.blk _) => csuccs cs (fallTo acc ++ [[]])
    | some i => if isTerm i && acc.getLast? == some [] then csuccs cs (acc.dropLast ++ [succs i]) else csuccs cs acc
    | none => csuccs cs acc

def cfnOf (fns : List Func) (fn : Func) : CFn :=
  let its := citems fn.words
  let second (c : Nat) : Ty := match retTys fns fns.length c with | some [_, t] => t | _ => .void
  let heads := its.filterMap fun c => match c.instr with | some (.blk tys) => some tys | _ => none
  let n := heads.length
  let ss := csuccs its []
  let preds := (List.range n).map fun b => (List.range n).filter fun a => (ss.getD a []).contains b
  { its := its, vals := valsGo (fn.kind == 1) second its 0, heads := heads,
    dom := domGo preds (n * n + 1) (List.replicate n (List.range n)), kind := fn.kind }

/-- Whether a position admits an operand's type (R30, R71). -/
def posOk (vals : List VInfo) (o : Opnd) (p : Pos) : Bool :=
  match o with
  | .ref n =>
    if 0xFFE0 ≤ n.toNat then
      match specialTy n.toNat, p with
      | none, _ => true
      | some _, .own _ => false
      | some .void, .ex t => t != .hnd
      | some .void, .any _ => true
      | some t, .ex u => t == u
      | some t, .any ok => ok t
    else
      match vals[n.toNat]? with
      | none => true
      | some v => match p with
        | .ex t => v.ty == t
        | .own ok => ok v.ty
        | .any ok => ok v.ty
  | _ => true

/-- Whether a use is legal (R27, R30): a value whose definition dominates it, or a special that is not reserved. -/
def useOk (c : CFn) (b k : Nat) (o : Opnd) : Bool :=
  match o with
  | .ref n =>
    if 0xFFE0 ≤ n.toNat then (specialTy n.toNat).isSome
    else match c.vals[n.toNat]? with
      | none => false
      | some v => if v.block = b then decide (v.item < k) else (c.dom.getD b []).contains v.block
  | _ => true

/-- Whether an operand is statically uniform (R33). -/
def uniOk (c : CFn) (o : Opnd) : Bool :=
  match o with
  | .ref n =>
    if 0xFFE0 ≤ n.toNat then n.toNat != 0xFFE0
    else match c.vals[n.toNat]? with
      | none => true
      | some v => v.uni
  | _ => true

/-- Whether arguments agree with a header's types (R28): a special takes the argument's type. -/
def argsOk (vals : List VInfo) (os : List Opnd) (tys : List Ty) : Bool :=
  os.length == tys.length && (os.zip tys).all fun p => posOk vals p.1 (.ex p.2)
/-- Whether %zero or %ones stands for a handle (R30). -/
def hndSpecial (os : List Opnd) (tys : List Ty) : Bool :=
  (os.zip tys).any fun p => p.2 == .hnd && (match p.1 with | .ref n => decide (0xFFFE ≤ n.toNat) | _ => false)

/-- The targets of a branch, with the arguments each takes of the whole operand list. -/
def branchArgs (all : List Opnd) : Instr → List (Nat × List Opnd)
  | .br t _ _ => [(t.toNat, all)]
  | .cbr _ bt bf t _ _ => [(bt.toNat, all.take t.toNat), (bf.toNat, all.drop t.toNat)]
  | _ => []

/-- How many arguments a branch or call takes. -/
def argCount : Instr → Option Nat
  | .br _ n _ => some n.toNat
  | .cbr _ _ _ t f _ => some (t.toNat + f.toNat)
  | .call _ _ _ n _ => some n.toNat
  | _ => none
/-- The arguments that the instruction's own words hold. -/
def ownArgs : Instr → List Opnd
  | .br _ _ vs => vs
  | .cbr _ _ _ _ _ vs => vs
  | .call _ _ _ _ vs => vs
  | _ => []

/-- Supervisor rows (R74, R85). -/
def isSuper : Instr → Bool
  | .ctxDrain | .ctxSpill _ | .ctxFill _ | .ctxBank _ | .ctxDivSave _ _ | .ctxDivRestore _ _ | .ctxBarSave _ _ => true
  | .ctxBarRestore _ _ | .tret | .doffIssue _ _ _ => true
  | _ => false

/-- The first code of R88 that a word meets, the earlier ones taken first. -/
def firstCode : List (Bool × XlCode) → Option XlCode
  | [] => none
  | (b, c) :: t => if b then some c else firstCode t

/-- The refusal of one item, if any (R87, R88). Where the spec names no code it is the model's choice (log 39): a callee beyond the table takes XL_REF, a block 0 whose arguments are not the parameters and spools XL_BLOCK, a block fallen into that takes arguments XL_BLOCK. before: the instructions before it, latest first; last: whether it ends the function. -/
def itemRefusal (fns : List Func) (sig : Option (List Ty)) (c : CFn) (k : Nat) (it : CItem) (before : List Instr) (last : Bool)
    (fn : Func) : Option XlCode :=
  match it.res with
  | .error e => some e
  | .ok d =>
    let i := d.instr
    let run := argRunOf before
    let ops := run ++ ownArgs i
    let uses := (positions i).map (·.1) ++ ownArgs i ++ (match i with | .args vs => vs | .retValues v w => v :: w.toList | _ => [])
    let own (o : Option Opnd) : Option Ty := o.bind (refTy c.vals)
    let cvtBad := match i with
      | .cvt h _ sat sg a =>
        let t : Option Ty := match a with
          | .ref n => if 0xFFE0 ≤ n.toNat then some .void else own (some a)
          | _ => none
        match t with
        | some t => (sat && h.ty.isI && (t.isF || t == .f8e4 || t == .f8e5)) || (sg && (t == .i1 || (!t.isI && !h.ty.isI)))
        | none => false
      | _ => false
    let opc := (isSuper i && c.kind != 2) || cvtBad
    let callee := match i with | .call _ _ f _ _ => fns[f.toNat]? | _ => none
    let callTy := match i with
      | .call h two f n _ =>
        match callee with
        | none => false
        | some cf =>
          let rs := (retTys fns fns.length f.toNat).getD []
          let res := match rs with | [] => h.ty != .void | t :: _ => h.ty == .void || (t != .void && h.ty != t)
          let ps := match (citems cf.words).head?.bind CItem.instr with | some (.blk tys) => some tys | _ => none
          res || two != (rs.length == 2)
            || (match ps with | some ps => n.toNat != ps.length || (ops.length == n.toNat && !argsOk c.vals ops ps) | none => false)
      | _ => false
    let retTy := match i with
      | .ret => sig != some []
      | .retValues v w => sig != some ((v :: w.toList).map fun o => (refTy c.vals o).getD .void)
          || (v :: w.toList).any (fun o => match o with | .ref n => decide (0xFFFE ≤ n.toNat) | _ => false)
      | _ => false
    let brs := branchArgs ops i
    let hndBad := brs.any fun p => hndSpecial p.2 (c.heads.getD p.1 [])
    let tyBad := !d.tyOk || (positions i).any (fun p => !posOk c.vals p.1 p.2) || callTy || retTy || hndBad
    let b := it.block.getD 0
    let refBad := uses.any (fun o => !useOk c b k o)
      || (match i with
          | .call _ _ _ _ _ => match callee with | none => true | some cf => cf.kind == 1 || (cf.kind == 2 && c.kind != 2)
          | _ => false)
    let nb := c.heads.length
    let tgtBad (t : Nat) : Bool := t == 0 || decide (nb ≤ t)
    let ended := (before.takeWhile fun p => match p with | .blk _ => false | _ => true).any isTerm
    let isBlk := match i with | .blk _ => true | _ => false
    let fallBad := match i with | .blk tys => !ended && !tys.isEmpty | _ => false
    let runBad := match argCount i with
      | some n => ops.length != n
      | none => (match before with | .args _ :: _ => (match i with | .args _ => false | _ => true) | _ => false)
    let switchBad := match i with
      | .switch _ dflt base n => (dflt.toNat :: (List.range n.toNat).map fun j => base.toNat + j).any fun t => tgtBad t || !(c.heads.getD t [.void]).isEmpty
      | _ => false
    let blkBad := (if before.isEmpty then !isBlk else fallBad) || runBad || switchBad
      || brs.any (fun p => tgtBad p.1 || !argsOk c.vals p.2 (c.heads.getD p.1 []))
      || (c.kind == 1 && (match i with | .ret => true | .retValues _ _ => true | _ => false))
      || (k == 0 && (c.heads.headD []).length != fn.nparam + (if c.kind == 1 then fn.nspool else 0))
    let u := (parts i).any (fun p => p.md.getLsbD 3) && d.row.u
    let uniBad := u && uses.any (fun o => !uniOk c o)
    let ceBad := !ceOk d || (last && !d.ce)
    let limBad := decide (0xFFE0 < it.val + (defTys i).length) || (isBlk && decide (65504 ≤ b))
    firstCode [(opc, .opcode), (tyBad, .type), (refBad, .ref), (blkBad, .block), (uniBad, .uniform), (ceBad, .course), (limBad, .limit)]

/-- The first refusal of a function's items: code and word offset. -/
def refusalGo (fns : List Func) (sig : Option (List Ty)) (c : CFn) (fn : Func) : List CItem → Nat → List Instr → Option (XlCode × Nat)
  | [], _, _ => none
  | it :: rest, k, before =>
    match itemRefusal fns sig c k it before rest.isEmpty fn with
    | some e => some (e, it.word)
    | none => refusalGo fns sig c fn rest (k + 1) (match it.instr with | some i => i :: before | none => before)

/-- The check of R40: none for a function that may be translated. Counts that differ from the words carry offset 0 (R43); so do a function with no word, XL_BLOCK, and one with no value, XL_LIMIT (DESIGN CHOICE, log 39). -/
def checkFunc (fns : List Func) (f : Nat) : Option (XlCode × Nat) :=
  match fns[f]? with
  | none => some (.ref, 0)
  | some fn =>
    let c := cfnOf fns fn
    let sig := retTys fns fns.length f
    if c.its.isEmpty then some (.block, 0)
    else match refusalGo fns sig c fn c.its 0 [] with
      | some r => some r
      | none => if fn.nvals != c.vals.length || fn.nblocks != c.heads.length || c.vals.isEmpty then some (.limit, 0) else none

-- registration (R25, R41-R44) -------------------------------------------------

/-- The functions a function calls: every call of its words, those after a word that does not decode among them (log 39). -/
def calleesOf (ws : List W32) : List Nat :=
  (citems ws).filterMap fun it => match it.instr with | some (.call _ _ f _ _) => some f.toNat | _ => none
/-- Functions reached from a set by calls, grown n times. -/
def reachGo (fns : List Func) : Nat → List Nat → List Nat
  | 0, r => r
  | n + 1, r =>
    let new := (r.flatMap fun f => match fns[f]? with | some fn => calleesOf fn.words | none => []).filter fun f => !r.contains f
    reachGo fns n (r ++ new.eraseDups)
/-- Whether a function is on a cycle of the call graph (R25). -/
def onCycle (fns : List Func) (f : Nat) : Bool :=
  match fns[f]? with
  | none => false
  | some fn => (reachGo fns fns.length (calleesOf fn.words)).contains f

/-- The 32-bit words of little-endian bytes. -/
def wordsOfBytes : List Byte → List W32
  | a :: b :: c :: d :: t => (d ++ c ++ b ++ a) :: wordsOfBytes t
  | _ => []

/-- A section-table entry (R42). -/
structure Section where
  kind : Nat
  off : Nat
  size : Nat

/-- The attribute entries of a section (R44): runs of 16-byte items, each ended by an item with tag 0. cur is the entry being read. -/
def entriesGo : Nat → List Byte → List (List Byte) → List (List (List Byte))
  | 0, _, _ => []
  | n + 1, bs, cur =>
    if bs.isEmpty then []
    else if byteAt bs 0 = 0 then cur :: entriesGo n (bs.drop 16) []
    else entriesGo n (bs.drop 16) (cur ++ [bs.take 16])

/-- Whether two byte ranges share a byte. -/
def overlap (a n b m : Nat) : Bool := decide (0 < n ∧ 0 < m ∧ a < b + m ∧ b < a + n)
/-- Whether any two of a list of (start, size) ranges share a byte. -/
def anyOverlap : List (Nat × Nat) → Bool
  | [] => false
  | r :: rs => rs.any (fun q => overlap r.1 r.2 q.1 q.2) || anyOverlap rs

/-- The sections of a container image (R41, R42), or none where it is malformed. digest is the SHA-256 of bytes 64 on. -/
def sectionsOf (img : List Byte) (digest : List Byte) : Option (List Section) :=
  let n := fld img 8 4
  let tab := fld img 12 4
  let secs := (List.range n).map fun i => Section.mk (fld img (tab + 16 * i) 2) (fld img (tab + 16 * i + 4) 4) (fld img (tab + 16 * i + 8) 4)
  let count (k : Nat) : Nat := (secs.filter fun s => s.kind == k).length
  if img.length < 64 || fld img 0 4 != 0x4C4E4C46 || fld img 4 2 != 1 || n == 0 || decide (64 < n)
      || (img.drop 16).take 32 != digest || decide (img.length < tab + 16 * n) then none
  else if secs.any (fun s => decide (img.length < s.off + s.size) || s.off % 16 != 0) then none
  else if (List.range n).any (fun i => !zeroAt img (tab + 16 * i + 2) 2 || !zeroAt img (tab + 16 * i + 12) 4) then none
  else if secs.any (fun s => (s.kind == 0 || decide (5 < s.kind)) && decide (s.kind < 0x8000)) then none
  else if count 1 != 1 || count 2 != 1 || count 5 != 1 || decide (1 < count 3) || decide (1 < count 4) then none
  else if anyOverlap ((0, 64) :: (tab, 16 * n) :: secs.map fun s => (s.off, s.size)) then none
  else some secs

/-- The functions of a container (R43): none where the table is malformed, a table of no whole number of entries and a kind above 2 among that (DESIGN CHOICE, log 39). A kernel whose attribute index names no entry has no items (log 39). -/
def funcsOf (code attrs tab : List Byte) : Option (List Func) :=
  let es := (List.range (tab.length / 32)).map fun i => (tab.drop (32 * i)).take 32
  let entries := entriesGo attrs.length attrs []
  if tab.length % 32 != 0 || es.any (fun e => decide (code.length < 4 * (fld e 4 4 + fld e 8 4)) || decide (2 < byteAt e 16))
      || anyOverlap (es.map fun e => (fld e 4 4, fld e 8 4)) then none
  else some (es.map fun e =>
    { words := wordsOfBytes ((code.drop (4 * fld e 4 4)).take (4 * fld e 8 4)), kind := byteAt e 16, nvals := fld e 12 2, nblocks := fld e 14 2,
      nparam := byteAt e 17, nspool := byteAt e 18, attrs := if byteAt e 16 = 1 then entries.getD (fld e 20 2) [] else [], refused := 0 })

/-- The functions with those on a call cycle refused (R25). -/
def markCycles (fns : List Func) : List Func :=
  (List.range fns.length).zip fns |>.map fun p => if onCycle fns p.1 then { p.2 with refused := Code.ofXl .recurse } else p.2

end Sys2Proof.Machine
end

