-- ==== Sys2Proof/Machine/Alloc.lean ====
section
/-! DEFINITION. Steps 2 to 5 of a translation (R231-R236): uniform values, liveness, intervals, the linear scan with its second pass, slots and frames, the moves of branches and calls. What the rules leave to the Spindle is the model's choice (log 9). -/

namespace Sys2Proof.Machine

-- liveness (R234, R241) -------------------------------------------------------

/-- The value numbers an instruction reads; a branch or call reads its `args` run too. before: the instructions before it, latest first. -/
def usesOf (before : List Instr) (i : Instr) : List Nat :=
  let os := (positions i).map (·.1) ++ ownArgs i ++ (match i with | .retValues v w => v :: w.toList | _ => [])
    ++ (if (argCount i).isSome then argRunOf before else [])
  os.filterMap fun o => match o with | .ref n => if n.toNat < 0xFFE0 then some n.toNat else none | _ => none

/-- An item with the instructions before it, latest first. -/
abbrev PItem := Item × List Instr
def withBefore : List Item → List Instr → List PItem
  | [], _ => []
  | it :: rest, before => (it, before) :: withBefore rest (it.instr :: before)

/-- What is live before an item, from what is live after it. -/
def liveStep (p : PItem) (live : List Nat) : List Nat :=
  ((live.filter fun v => !(decide (p.1.val ≤ v) && decide (v < p.1.val + (defTys p.1.instr).length))) ++ usesOf p.2 p.1.instr).eraseDups
/-- What is live before a run of items, from what is live after it. -/
def liveBack (its : List PItem) (out : List Nat) : List Nat := its.foldr liveStep out

/-- The items of each block. -/
def splitBlocks : List PItem → List (List PItem) → List (List PItem)
  | [], acc => acc
  | p :: rest, acc =>
    match p.1.instr with
    | .blk _ => splitBlocks rest (acc ++ [[p]])
    | _ => splitBlocks rest (match acc.getLast? with | some b => acc.dropLast ++ [b ++ [p]] | none => acc)

/-- A block up to its terminator. -/
def toTerm : List PItem → List PItem
  | [] => []
  | p :: ps => if isTerm p.1.instr then [p] else p :: toTerm ps

/-- What is live after a block, from what is live before each. -/
def liveOut (ins : List (List Nat)) (ss : List Nat) : List Nat := (ss.flatMap fun t => ins.getD t []).eraseDups
/-- The live-in sets, grown n times. -/
def liveGo (bs : List (List PItem)) (g : List (List Nat)) : Nat → List (List Nat) → List (List Nat)
  | 0, ins => ins
  | n + 1, ins => liveGo bs g n ((bs.zip g).map fun p => liveBack p.1 (liveOut ins p.2))

/-- A function's blocks with what is live after each. -/
structure Flow where
  blocks : List (List PItem)
  ins : List (List Nat)
  outs : List (List Nat)
def flowOf (ws : List W32) : Flow :=
  let its := items ws
  let bs := (splitBlocks (withBefore its []) []).map toTerm
  let g := cfg its
  let ins := liveGo bs g (bs.length + 1) (bs.map fun _ => [])
  ⟨bs, ins, g.map (liveOut ins)⟩

/-- The live set before each word of a run of items. -/
def liveRun (out : List Nat) : List PItem → List (Nat × List Nat)
  | [] => []
  | p :: ps =>
    let rest := liveRun out ps
    let after := match rest with | [] => out | r :: _ => r.2
    (p.1.word, liveStep p after) :: rest
/-- The live set at every word of a function that can be reached (R241). -/
def Flow.table (f : Flow) : List (Nat × List Nat) := (f.blocks.zip f.outs).flatMap fun p => liveRun p.2 p.1
def ascending (l : List Nat) : List Nat := sortBy (fun a b => decide (a ≤ b)) l
/-- The live set at a word, in ascending order. -/
def liveIn (t : List (Nat × List Nat)) (word : Nat) : List Nat :=
  match t.find? fun p => p.1 == word with
  | some p => ascending p.2
  | none => []
/-- The live set at a word of a function. -/
def liveAt (ws : List W32) (word : Nat) : List Nat := liveIn (flowOf ws).table word

/-- The block that holds a word. -/
def blockAt (ws : List W32) (word : Nat) : Nat := (blocksOf ((items ws).filter fun it => decide (it.word ≤ word))).length - 1

/-- Whether a word can be a point (R240, R247): an instruction, not a header. -/
def pointOk (ws : List W32) (word : Nat) : Bool :=
  ((withBefore (items ws) []).any fun p => p.1.word == word
    && (match p.1.instr with | .blk _ => false | _ => true))

-- uniform values (R33, R232) --------------------------------------------------

/-- An instruction of a checked function, with the instructions before it, latest first. -/
structure XItem where
  word : Nat
  instr : Instr
  val : Nat
  blk : Nat
  ce : Bool
  row : Row
  before : List Instr
def xitemsGo : List CItem → List Instr → List XItem
  | [], _ => []
  | c :: cs, before =>
    match c.res with
    | .ok d => ⟨c.word, d.instr, c.val, c.block.getD 0, d.ce, d.row, before⟩ :: xitemsGo cs (d.instr :: before)
    | .error _ => xitemsGo cs before

/-- Whether an operand is uniform, of the values known to be. -/
def uniOpnd (u : List Bool) : Opnd → Bool
  | .ref n => if 0xFFE0 ≤ n.toNat then n.toNat != 0xFFE0 else u.getD n.toNat false
  | _ => true
/-- Whether an instruction's results are uniform if it carried U (R232). -/
def uniDef (kernel : Bool) (u : List Bool) (x : XItem) : Bool :=
  match x.instr with
  | .blk _ => kernel && x.blk == 0
  | i => x.row.u && (positions i).all fun p => uniOpnd u p.1
/-- One pass over a function: the values before the item as found in this pass, the later ones as in the pass before. -/
def uniPass (kernel : Bool) (old : List Bool) : List XItem → List Bool → List Bool
  | [], new => new
  | x :: xs, new => uniPass kernel old xs (new ++ (defTys x.instr).map fun _ => uniDef kernel (new ++ old.drop new.length) x)
def uniGo (kernel : Bool) (xs : List XItem) : Nat → List Bool → List Bool
  | 0, u => u
  | n + 1, u => uniGo kernel xs n (uniPass kernel u xs [])

-- locations (R232, R244) ------------------------------------------------------

/-- The class of a value (R232). -/
inductive XCls where
  | sca | pre | vec | pair
  deriving DecidableEq, Repr
def xcls (ty : Ty) (uni : Bool) : XCls :=
  if ty == .i1 then .pre else if ty == .hnd || uni then .sca else if isPair ty then .pair else .vec
/-- Whether two classes take registers of one file. -/
def XCls.shares : XCls → XCls → Bool
  | .sca, c => c == .sca
  | .pre, c => c == .pre
  | _, c => c == .vec || c == .pair

/-- Where a value stands: a register, or a slot by its kind (R282) and its offset from s0. -/
inductive Loc where
  | vec (n : Nat) | pair (n : Nat) | sca (n : Nat) | pre (n : Nat)
  | slot (kind off : Nat)
  deriving DecidableEq, Repr
def Loc.isSlot : Loc → Bool
  | .slot _ _ => true
  | _ => false
/-- The registers of a location. -/
def Loc.regs : Loc → List (RegFile × Nat)
  | .vec n => [(.vec, n)]
  | .pair n => [(.vec, n), (.vec, n + 1)]
  | .sca n => [(.scalar, n)]
  | .pre n => [(.pred, n)]
  | .slot _ _ => []
/-- Whether two locations share a register or a slot. -/
def Loc.meets (a b : Loc) : Bool := (a.isSlot && a == b) || a.regs.any fun r => b.regs.contains r
/-- The register of a class, and the slot kind of a class. -/
def XCls.reg (c : XCls) (n : Nat) : Loc := match c with | .sca => .sca n | .pre => .pre n | .vec => .vec n | .pair => .pair n
def XCls.kind : XCls → Nat
  | .vec => 0
  | .pair => 1
  | .sca => 2
  | .pre => 3
/-- Bytes of a slot of a kind (R235, R282). -/
def slotLen : Nat → Nat
  | 0 => 128
  | 1 => 256
  | 2 => 8
  | _ => 4

/-- Where a callee's arguments arrive, and its results come back (R233): in vector registers from v0 upward, an i1 as 0 or 1, below v(lim); the rest in the first slots of the frame; a handle, which only a scalar can hold (R232), in s8 upward. v, s, off: the next register of each file, and the next slot. -/
def arriveGo (lim : Nat) : List Ty → Nat → Nat → Nat → List Loc
  | [], _, _, _ => []
  | t :: ts, v, s, off =>
    if t == .hnd then .sca s :: arriveGo lim ts v (s + 1) off
    else if isPair t then
      let r := v + v % 2
      if r + 1 < lim then .pair r :: arriveGo lim ts (r + 2) s off else .slot 1 off :: arriveGo lim ts v s (off + 256)
    else if v < lim then .vec v :: arriveGo lim ts (v + 1) s off
    else .slot 0 off :: arriveGo lim ts v s (off + 128)
def arrivals (eff : Nat) (tys : List Ty) : List Loc := arriveGo (eff - 8) tys 0 8 0
/-- A kernel's parameters and spool handles (R233). -/
def kernelArrivals (n : Nat) : List Loc := (List.range n).map fun k => .sca (8 + k)

-- intervals and the linear scan (R234) ----------------------------------------

/-- A value's interval. A position is twice the index of an item; an operand that the item's expansion still reads after it writes the result ends one later (log 9). -/
structure Ival where
  v : Nat
  cls : XCls
  start : Nat
  stop : Nat
  deriving DecidableEq, Repr

/-- Whether an instruction's expansion writes its result before its last read of an operand (log 9): those that rewrite a source, and those whose control word stands in the result. -/
def tied (u : List Bool) : Instr → Bool
  | .amax _ _ _ _ _ | .amin _ _ _ _ _ | .xamax _ _ _ _ => true
  | .q4Unpack _ _ _ _ b => b.isSome
  | .bfx _ _ _ p l => !(uniOpnd u p && uniOpnd u l)
  | .bfi _ b _ p l => !(uniOpnd u p && uniOpnd u l && !uniOpnd u b)
  | _ => false

/-- First and last item of each block. -/
def blockEnds (xs : List XItem) (n : Nat) : List (Nat × Nat) :=
  (List.range n).map fun b =>
    let ks := (List.range xs.length).filter fun k => match xs[k]? with | some x => x.blk == b | none => false
    (ks.headD 0, ks.getLastD 0)

/-- The branches that go back to a block at or before their own: the block they go to and the one they leave. -/
def backEdges (cfg : List (List Nat)) : List (Nat × Nat) :=
  (List.range cfg.length).flatMap fun j => ((cfg.getD j []).filter fun i => decide (i ≤ j)).map fun i => (i, j)
/-- The interval of a value: from its definition to its last use, to the end of each block it is live out of, and from the start of a block it is live into where that stands before the definition. A scalar that is used after a loop in which it is defined holds its register from the loop's header on: lanes that left the loop still read it, and a scalar has one copy for all lanes (R241, log 9). -/
def ivalOf (cfg : List (List Nat)) (flow : Flow) (ends : List (Nat × Nat)) (uses : List (Nat × Nat × List Nat)) (cls : XCls) (v item : Nat) : Ival :=
  let stop := uses.foldl (fun m k => if k.2.2.contains v then Nat.max m (2 * k.1 + k.2.1) else m) (2 * item)
  let stop2 := (ends.zip flow.outs).foldl (fun m p => if p.2.contains v then Nat.max m (2 * p.1.2) else m) stop
  let start := (ends.zip flow.ins).foldl (fun m p => if p.2.contains v then Nat.min m (2 * p.1.1) else m) (2 * item)
  let start2 := if cls = .sca then (backEdges cfg).foldl (fun m p =>
      let lo := 2 * (ends.getD p.1 (0, 0)).1
      let hi := 2 * (ends.getD p.2 (0, 0)).2 + 1
      if lo ≤ 2 * item && 2 * item ≤ hi && hi < stop2 then Nat.min m lo else m) start else start
  ⟨v, cls, start2, stop2⟩

/-- The registers that a scan may give (R232): vectors below vec, scalars below sca. -/
structure Limits where
  vec : Nat
  sca : Nat

/-- An interval that holds a register. -/
structure Hold where
  iv : Ival
  loc : Loc
  deriving DecidableEq, Repr
/-- The lowest register, or aligned pair, of a class that no holder has. -/
def freeReg (lim : Limits) (held : List Hold) (c : XCls) : Option Loc :=
  let all := match c with
    | .sca => (List.range lim.sca).filter fun n => decide (8 ≤ n)
    | .pre => (List.range 14).filter fun n => decide (1 ≤ n)
    | .vec => List.range lim.vec
    | .pair => (List.range (lim.vec - 1)).filter fun n => n % 2 == 0
  (all.map c.reg).find? fun l => held.all fun h => !l.meets h.loc
/-- The interval to spill: the furthest end, on a tie the highest value number. -/
def furthest : List Ival → Ival → Ival
  | [], m => m
  | i :: is, m => furthest is (if m.stop < i.stop || (m.stop == i.stop && m.v < i.v) then i else m)

/-- A scan's state: the holders, the locations given, the values spilled. -/
structure Scan where
  held : List Hold
  got : List (Nat × Loc)
  out : List Nat
/-- Gives an interval a register, spilling until one is free or it is spilled itself. -/
def Scan.give (lim : Limits) : Nat → Scan → Ival → Scan
  | 0, s, i => { s with out := i.v :: s.out }
  | n + 1, s, i =>
    match freeReg lim s.held i.cls with
    | some l => { s with held := ⟨i, l⟩ :: s.held, got := (i.v, l) :: s.got }
    | none =>
      let w := furthest ((s.held.filter fun h => h.iv.cls.shares i.cls).map Hold.iv) i
      if w.v = i.v then { s with out := i.v :: s.out }
      else Scan.give lim n { held := s.held.filter (fun h => h.iv.v != w.v), got := s.got.filter (fun g => g.1 != w.v), out := w.v :: s.out } i
/-- The scan over intervals in order of start. -/
def Scan.run (lim : Limits) : List Ival → Scan → Scan
  | [], s => s
  | i :: is, s =>
    let live := s.held.filter fun h => !(decide (h.iv.stop ≤ i.start) && decide (h.iv.start < i.start))
    Scan.run lim is (Scan.give lim (live.length + 1) { s with held := live } i)

-- a function's allocation -----------------------------------------------------

/-- What a translation knows of a function before it allocates. -/
structure XFn where
  fns : List Func
  xs : List XItem
  tys : List Ty
  uni : List Bool
  heads : List BlockInfo
  ivals : List Ival
  live : List (Nat × List Nat)
  cfg : List (List Nat)
  kind : Nat
  eff : Nat
  n1 : Bool
def xfnOf (fns : List Func) (f : Nat) (cls eff : Nat) : XFn :=
  let fn := fns[f]?.getD ⟨[], 0, 0, 0, 0, 0, [], 0⟩
  let c := cfnOf fns fn
  let its := items fn.words
  let xs := xitemsGo c.its []
  let n := c.heads.length
  let uni := uniGo (fn.kind == 1) xs (n + 1) (c.vals.map fun _ => false)
  let flow := flowOf fn.words
  let ends := blockEnds xs n
  let uses := (List.range xs.length).filterMap fun k => xs[k]?.map fun x => (k, (if tied uni x.instr then 1 else 0), usesOf x.before x.instr)
  let tys := c.vals.map VInfo.ty
  { fns := fns, xs := xs, tys := tys, uni := uni, heads := blocksOf its, live := flow.table, cfg := cfg its, kind := fn.kind, eff := eff, n1 := cls == 0,
    ivals := (List.range c.vals.length).map fun v =>
      ivalOf (cfg its) flow ends uses (xcls (tys.getD v .void) (uni.getD v false)) v ((c.vals[v]?.map VInfo.item).getD 0) }

/-- Types of a function's parameters and results. -/
def XFn.params (x : XFn) : List Ty := match x.heads with | h :: _ => h.tys | [] => []
def calleeParams (fns : List Func) (f : Nat) : List Ty := match fns[f]? with | some fn => (match blocksOf (items fn.words) with | b :: _ => b.tys | [] => []) | none => []
def calleeRets (fns : List Func) (f : Nat) : List Ty := (retTys fns fns.length f).getD []
/-- Where the running function's arguments arrive. -/
def XFn.arrive (x : XFn) : List Loc := if x.kind = 1 then kernelArrivals x.params.length else arrivals x.eff x.params
/-- The arguments passed in slots keep them. -/
def XFn.stacked (x : XFn) : List (Nat × Loc) :=
  ((List.range x.params.length).zip x.arrive).filter fun p => p.2.isSlot && x.params.getD p.1 .void != .i1
/-- The values whose interval crosses a call, which have slots (R236). -/
def XFn.crossing (x : XFn) : List Nat :=
  let calls := (List.range x.xs.length).filter fun k => match x.xs[k]? with | some y => (match y.instr with | .call _ _ _ _ _ => true | _ => false) | none => false
  (x.ivals.filter fun i => calls.any fun k => decide (i.start < 2 * k) && decide (2 * k < i.stop)).map Ival.v
/-- The specials with a value of the group's own that a function reads. -/
def XFn.specials (x : XFn) : List Nat :=
  (ascending (x.xs.flatMap fun y => ((positions y.instr).map (·.1) ++ ownArgs y.instr ++ (match y.instr with | .args vs => vs | .retValues v w => v :: w.toList | _ => [])).filterMap
    fun o => match o with | .ref n => if 0xFFE0 ≤ n.toNat && n.toNat < 0xFFE8 then some n.toNat else none | _ => none)).eraseDups
/-- Where the core keeps those specials from a function's entry on (log 9): %lane in the highest vector register allocated, or in a slot at offset at where an argument arrives there, the others in the highest scalars. -/
def XFn.specialLocs (x : XFn) (vecs at' : Nat) : List (Nat × Loc) :=
  let us := x.specials.filter fun n => n != 0xFFE0
  (if x.specials.contains 0xFFE0 then [(0xFFE0, if x.arrive.any fun l => l.meets (.vec (vecs - 1)) then .slot 0 at' else .vec (vecs - 1))] else [])
    ++ (List.range us.length).map fun k => (us.getD k 0, Loc.sca (63 - k))

/-- Slots in order, of the running offset. -/
def slotsGo : List (Nat × Nat) → Nat → List (Nat × Loc)
  | [], _ => []
  | (v, k) :: vs, off => (v, .slot k off) :: slotsGo vs (off + slotLen k)

/-- An allocation (R232-R236): the location of each value, the specials' registers, the frames, the reload registers, and the staging area where the function has one. -/
structure XAlloc where
  locs : List (Nat × Loc)
  specs : List (Nat × Loc)
  reload : Nat
  vframe : Nat
  sframe : Nat
  stage : Nat
  spills : Bool
def XAlloc.loc (a : XAlloc) (v : Nat) : Loc := match a.locs.find? fun p => p.1 == v with | some p => p.2 | none => .slot 0 0

/-- A pass of the allocation with the vector registers below vecs; staged: the function has staged moves (R239). -/
def XFn.pass (x : XFn) (vecs : Nat) (reload : Nat) (staged : Bool) : XAlloc :=
  let argTop := (x.arrive.map fun l => match l with | .slot k o => o + slotLen k | _ => 0).foldl Nat.max 0
  let specs := x.specialLocs vecs argTop
  let argTop := if specs.any fun p => p.2.isSlot then argTop + 128 else argTop
  let lim : Limits := ⟨if x.specials.contains 0xFFE0 then vecs - 1 else vecs, 64 - (x.specials.filter fun n => n != 0xFFE0).length⟩
  let away := x.crossing ++ x.stacked.map (·.1)
  let stay := x.ivals.filter fun i => !away.contains i.v
  let nparam := x.params.length
  let fixed := (stay.filter fun i => decide (i.v < nparam) && i.cls != .pre).filterMap fun i => x.arrive[i.v]?.map fun l => (⟨i, l⟩ : Hold)
  let rest := sortBy (fun a b => decide (a.start < b.start ∨ (a.start = b.start ∧ a.v ≤ b.v))) (stay.filter fun i => !(decide (i.v < nparam) && i.cls != .pre))
  let sc := Scan.run lim rest ⟨fixed, fixed.map fun h => (h.iv.v, h.loc), []⟩
  let slotted := ascending (x.crossing.filter (fun v => !x.stacked.any fun p => p.1 == v) ++ sc.out)
  let kinds := slotted.map fun v => (v, (xcls (x.tys.getD v .void) (x.uni.getD v false)).kind)
  let vs := slotsGo (kinds.filter fun p => decide (p.2 < 2)) argTop
  let vend := vs.foldl (fun m p => match p.2 with | .slot k o => Nat.max m (o + slotLen k) | _ => m) argTop
  let vframe := vend + (if staged then 24 * 256 else 0)
  let ss := slotsGo (kinds.filter fun p => decide (2 ≤ p.2)) vframe
  let send := ss.foldl (fun m p => match p.2 with | .slot k o => Nat.max m (o + slotLen k) | _ => m) vframe
  { locs := x.stacked ++ vs ++ ss ++ sc.got, specs := specs, reload := reload, vframe := vframe, sframe := send - vframe, stage := vend,
    spills := staged || decide (0 < argTop) || !slotted.isEmpty }

-- the moves of branches and calls (R233, R239) --------------------------------

/-- What a move copies: a value's location, or constant bits. -/
inductive XSrc where
  | loc (l : Loc)
  | const (x : Nat)
  deriving DecidableEq, Repr
/-- What an operand names, in the type of its position. -/
def XAlloc.src (a : XAlloc) (ty : Ty) : Opnd → XSrc
  | .ref n =>
    if n.toNat < 0xFFE0 then .loc (a.loc n.toNat)
    else match a.specs.find? fun p => p.1 == n.toNat with
      | some p => .loc p.2
      | none => .const ((special ⟨0, 0, 0, 0, 0, 0⟩ 0 ty n.toNat).lane 0).toNat
  | .lit w => .const (litBits ty w).toNat
  | .reg _ _ _ => .const 0

/-- The lanes that a move writes: every active one, or those that take one side of a branch. -/
inductive Side where
  | both | yes | no
  deriving DecidableEq, Repr
/-- A move of an operand to an argument's place. -/
structure Move where
  src : XSrc
  dst : Loc
  ty : Ty
  side : Side

/-- The moves of a branch's arguments to a target. -/
def argMoves (x : XFn) (a : XAlloc) (side : Side) (t : Nat) (os : List Opnd) : List Move :=
  match x.heads[t]? with
  | none => []
  | some h => ((List.range os.length).zip (os.zip h.tys)).map fun p => ⟨a.src p.2.2 p.2.1, a.loc (h.val + p.1), p.2.2, side⟩
/-- Whether a location holds what a block finds live, or one of its arguments. -/
def liveAtHead (x : XFn) (a : XAlloc) (b : Nat) (l : Loc) : Bool :=
  match x.heads[b]? with
  | none => false
  | some h => ((liveIn x.live h.word) ++ (List.range h.tys.length).map (h.val + ·)).any fun v => (a.loc v).meets l
/-- A side's moves: one whose destination means nothing to the other target is made in every active lane (log 9). -/
def sideMoves (x : XFn) (a : XAlloc) (side : Side) (t other : Nat) (os : List Opnd) : List Move :=
  (argMoves x a side t os).map fun m => if liveAtHead x a other m.dst then m else { m with side := .both }
/-- The moves of an item: a branch's to its targets' arguments, a call's to the callee's registers and frame, which begins 16 bytes above the caller's (R272). -/
def movesOf (x : XFn) (a : XAlloc) (it : XItem) : List Move :=
  let all := argRunOf it.before ++ ownArgs it.instr
  match it.instr with
  | .br t _ _ => argMoves x a .both t.toNat all
  | .cbr _ bt bf t _ _ => sideMoves x a .yes bt.toNat bf.toNat (all.take t.toNat) ++ sideMoves x a .no bf.toNat bt.toNat (all.drop t.toNat)
  | .call _ _ f _ _ =>
    let tys := calleeParams x.fns f.toNat
    let base := a.vframe + a.sframe + 16
    (all.zip (tys.zip (arrivals x.eff tys))).map fun p =>
      ⟨a.src p.2.1 p.1, match p.2.2 with | .slot k o => .slot k (base + o) | l => l, p.2.1, .both⟩
  | _ => []

/-- Whether two operands stand in each other's way: a destination is the location of another operand, the condition among them (R239). -/
def clash (cond : Option Loc) (ms : List Move) : Bool :=
  (List.range ms.length).any fun i => match ms[i]? with
    | none => false
    | some m => (match cond with | some c => m.dst.meets c | none => false)
      || (List.range ms.length).any fun j => j != i && (match ms[j]? with | some n => (match n.src with | .loc l => m.dst.meets l | .const _ => false) | none => false)
/-- The condition's location. -/
def condOf (a : XAlloc) (it : XItem) : Option Loc :=
  match it.instr with
  | .cbr c _ _ _ _ _ => (match a.src .i1 c with | .loc l => some l | .const _ => none)
  | _ => none
/-- Whether an item's moves are staged. -/
def stagedMoves (x : XFn) (a : XAlloc) (it : XItem) : Bool := clash (condOf a it) (movesOf x a it)

/-- The allocation of a function (R234): one pass with every register, which stands if it needs no slot, passes no argument in one, and stages no move; else a second with the reload registers kept. -/
def XFn.alloc (x : XFn) : XAlloc :=
  let a := x.pass x.eff x.eff false
  if a.spills || x.xs.any (fun it => stagedMoves x a it || (movesOf x a it).any fun m => m.dst.isSlot) then
    let b := x.pass (x.eff - 8) (x.eff - 8) false
    if x.xs.any (stagedMoves x b) then x.pass (x.eff - 8) (x.eff - 8) true else b
  else a

end Sys2Proof.Machine
end

