-- ==== Sys2Proof/Machine/Expand.lean ====
section
/-! DEFINITION. The native ops of each Flinal instruction (R233-R239, R252-R254, R263-R282): operands brought to the registers that an op's fields name, fills before and spills after, moves, control ops. What the rules leave to the Spindle is the model's choice (log 9). -/

namespace Sys2Proof.Machine

abbrev Regs := List (RegFile × Nat)

/-- What scheduling asks of an op (R237): fills and spills (own: of the definition right before it, R235), a relaxed access of an alias class, an op that no other passes, a control op. -/
inductive XKind where
  | plain | fill
  | spill (own : Bool)
  | mem (cls : Nat)
  | order
  | ctl
  deriving DecidableEq, Repr
/-- A control op whose fields name blocks until the blocks have bundles (R270, R271). -/
inductive XCtl where
  | br (t : Nat)
  | cbr (q t f p : Nat)
  | switch (sc : Bool) (d dflt base n p : Nat)
  deriving DecidableEq, Repr
/-- A native op: its slot (0 A, 1 B, 2 C), its bits, the extension of a wide op, the registers it reads and writes, its latency (none: variable), and what its row says. -/
structure XOp where
  slot : Nat
  bits : Nat
  ext : Option Nat := none
  goes : Option XCtl := none
  rd : Regs := []
  wr : Regs := []
  lat : Option Nat := some 1
  kind : XKind := .plain
  faulty : Bool := false
  waits : Bool := false
  sync : Bool := false
  deriving DecidableEq, Repr

/-- The 40 bits of a slot (R253). -/
def slot40 (sc : Bool) (idx d a b m : Nat) : Nat := (if sc then 2 ^ 39 else 0) + idx * 2 ^ 32 + d * 2 ^ 24 + a * 2 ^ 16 + b * 2 ^ 8 + m

/-- Latencies of R257 by slot and index; a scalar form takes the W2 figure. -/
def latency (n1 : Bool) (slot idx : Nat) : Nat :=
  let l (w n : Nat) : Nat := if n1 then n else w
  if slot = 0 then
    if idx = 2 || (0x40 ≤ idx && idx < 0x44) then l 3 4
    else if idx = 4 || idx = 6 || (0x50 ≤ idx && idx < 0x58) then l 16 24
    else l 1 2
  else if idx = 4 || idx = 5 then l 12 16
  else if idx = 6 || idx = 7 || (0x10 ≤ idx && idx < 0x16) then l 8 10
  else if idx = 0x30 || idx = 0x31 || idx = 0x35 || idx = 0x36 then l 2 3
  else if idx = 0x32 || idx = 0x33 || idx = 0x34 then l 6 8
  else l 4 5

/-- Registers of a field by type: a pair, one vector register, a scalar, a predicate. -/
def fieldRegs (sc : Bool) (ty : Ty) (n : Nat) : Regs :=
  if ty == .i1 then [(.pred, n)] else if sc || ty == .hnd then [(.scalar, n)] else if isPair ty then [(.vec, n), (.vec, n + 1)] else [(.vec, n)]

-- small ops -------------------------------------------------------------------

def opLi (d q imm : Nat) (keep : Bool) : XOp :=
  { slot := 0, bits := slot40 true 0x28 d (imm / 256) (imm % 256) (q + if keep then 4 else 0), rd := if keep then [(.scalar, d)] else [], wr := [(.scalar, d)] }
def opLiPred (n1 : Bool) (d imm : Nat) : XOp :=
  { slot := 0, bits := slot40 false 0x28 d 0 (imm % 2) 8, wr := [(.pred, d)], lat := some (latency n1 0 0x28) }
/-- A constant in a scalar register: its lowest quarter that is not zero first (log 9). -/
def opsConst (d x : Nat) : List XOp :=
  match (List.range 4).filter fun q => x / 2 ^ (16 * q) % 65536 != 0 with
  | [] => [opLi d 0 0 false]
  | q :: qs => opLi d q (x / 2 ^ (16 * q) % 65536) false :: qs.map fun k => opLi d k (x / 2 ^ (16 * k) % 65536) true
def opMovS (d a : Nat) : XOp := { slot := 0, bits := slot40 true 0x29 d a 0 0, rd := [(.scalar, a)], wr := [(.scalar, d)] }
def opMovP (n1 : Bool) (d a : Nat) : XOp := { slot := 0, bits := slot40 false 0x29 d a 0 2, rd := [(.pred, a)], wr := [(.pred, d)], lat := some (latency n1 0 0x29) }
def opMovV (n1 : Bool) (ty : Ty) (d a : Nat) : XOp :=
  { slot := 0, bits := slot40 false 0x29 d a 0 (if isPair ty then 1 else 0), rd := fieldRegs false ty a, wr := fieldRegs false ty d, lat := some (latency n1 0 0x29) }
def opBcast (n1 : Bool) (ty : Ty) (d a : Nat) : XOp :=
  { slot := 0, bits := slot40 false 0x2B d a 0 (if isPair ty then 1 else 0), rd := [(.scalar, a)], wr := fieldRegs false ty d, lat := some (latency n1 0 0x2B) }
/-- Registers of a slot kind. -/
def kindRegs (kind n : Nat) : Regs :=
  match kind with
  | 0 => [(.vec, n)]
  | 1 => [(.vec, n), (.vec, n + 1)]
  | 2 => [(.scalar, n)]
  | _ => [(.pred, n)]
def opSpill (r kind off : Nat) : XOp :=
  { slot := 2, bits := slot40 false 0x70 r (off / 4 / 256 % 256) (off / 4 % 256) kind, rd := kindRegs kind r, kind := .spill false }
def opFill (r kind off : Nat) : XOp :=
  { slot := 2, bits := slot40 false 0x71 r (off / 4 / 256 % 256) (off / 4 % 256) kind, wr := kindRegs kind r, kind := .fill, faulty := true }

-- operands --------------------------------------------------------------------

/-- The next reload registers and temporaries of an expansion: vector and scalar and predicate reloads (R232), and the scalar that takes the next constant of a scalar form. -/
structure Tmp where
  v : Nat
  s : Nat
  q : Nat
  c : Nat
  deriving DecidableEq, Repr
def XAlloc.tmp (a : XAlloc) : Tmp := ⟨a.reload, 4, 14, 2⟩
/-- An operand in a field: the field, the registers read, and whether it names a scalar. -/
structure Opd where
  n : Nat
  regs : Regs
  scal : Bool
  deriving DecidableEq, Repr
/-- What an expansion has so far. -/
structure Got where
  os : List Opd
  ops : List XOp
  t : Tmp

/-- A predicate operand. -/
def bringPred (n1 : Bool) (g : Got) : XSrc → Got
  | .loc (.pre n) => { g with os := g.os ++ [⟨n, [(.pred, n)], false⟩] }
  | .loc (.slot _ off) => ⟨g.os ++ [⟨g.t.q, [(.pred, g.t.q)], false⟩], g.ops ++ [opFill g.t.q 3 off], { g.t with q := g.t.q + 1 }⟩
  | .const x => ⟨g.os ++ [⟨g.t.q, [(.pred, g.t.q)], false⟩], g.ops ++ [opLiPred n1 g.t.q x], { g.t with q := g.t.q + 1 }⟩
  | .loc _ => { g with os := g.os ++ [⟨0, [], false⟩] }
/-- A scalar operand: a register, a reload, or a temporary that takes the constant. -/
def bringSca (g : Got) : XSrc → Got
  | .loc (.sca n) => { g with os := g.os ++ [⟨n, [(.scalar, n)], true⟩] }
  | .loc (.slot _ off) => ⟨g.os ++ [⟨g.t.s, [(.scalar, g.t.s)], true⟩], g.ops ++ [opFill g.t.s 2 off], { g.t with s := g.t.s + 1 }⟩
  | .const x =>
    if g.t.c < 4 then ⟨g.os ++ [⟨g.t.c, [(.scalar, g.t.c)], true⟩], g.ops ++ opsConst g.t.c x, { g.t with c := g.t.c + 1 }⟩
    else ⟨g.os ++ [⟨g.t.s, [(.scalar, g.t.s)], true⟩], g.ops ++ opsConst g.t.s x, { g.t with s := g.t.s + 1 }⟩
  | .loc _ => { g with os := g.os ++ [⟨0, [], true⟩] }
/-- A vector operand: a register, a reload, or the escape over s2 or s3 (R254), esc. -/
def bringVec (ty : Ty) (esc : Nat) (g : Got) : XSrc → Got
  | .loc (.slot 2 off) => ⟨g.os ++ [⟨255, [(.scalar, esc)], false⟩], g.ops ++ [opFill g.t.s 2 off, opMovS esc g.t.s], { g.t with s := g.t.s + 1 }⟩
  | .loc (.slot k off) =>
    let r := if k = 1 then g.t.v + g.t.v % 2 else g.t.v
    ⟨g.os ++ [⟨r, kindRegs k r, false⟩], g.ops ++ [opFill r k off], { g.t with v := if k = 1 then r + 2 else r + 1 }⟩
  | .loc (.sca n) => ⟨g.os ++ [⟨255, [(.scalar, esc)], false⟩], g.ops ++ [opMovS esc n], g.t⟩
  | .loc (.vec n) => { g with os := g.os ++ [⟨n, fieldRegs false ty n, false⟩] }
  | .loc (.pair n) => { g with os := g.os ++ [⟨n, fieldRegs false ty n, false⟩] }
  | .loc (.pre n) => { g with os := g.os ++ [⟨n, [(.pred, n)], false⟩] }
  | .const x => ⟨g.os ++ [⟨255, [(.scalar, esc)], false⟩], g.ops ++ opsConst esc x, g.t⟩
/-- Brings an operand to a field: sc in a scalar form; an i1 is a predicate in either. -/
def bring (n1 sc : Bool) (ty : Ty) (esc : Nat) (g : Got) (s : XSrc) : Got :=
  if ty == .i1 then bringPred n1 g s else if sc then bringSca g s else bringVec ty esc g s
/-- An operand of a slot-C op: FILE says its file (R277), so a uniform one stands as it is. -/
def bringC (n1 : Bool) (ty : Ty) (g : Got) (s : XSrc) : Got :=
  let isS := match s with | .loc (.sca _) => true | .loc (.slot 2 _) => true | .const _ => true | _ => false
  bring n1 isS ty 2 g s
/-- Brings the operands of a list. -/
def bringAll (n1 sc : Bool) : List (Ty × Nat × XSrc) → Got → Got
  | [], g => g
  | x :: xs, g => bringAll n1 sc xs (bring n1 sc x.1 x.2.1 g x.2.2)
def bringAllC (n1 : Bool) : List (Ty × XSrc) → Got → Got
  | [], g => g
  | x :: xs, g => bringAllC n1 xs (bringC n1 x.1 g x.2)
def Got.at (g : Got) (k : Nat) : Opd := g.os.getD k ⟨0, [], false⟩
def Got.reads (g : Got) : Regs := g.os.flatMap Opd.regs
/-- One operand's place. -/
def Got.start (t : Tmp) : Got := ⟨[], [], t⟩

-- results ---------------------------------------------------------------------

/-- Where results go: the fields, the registers, what fills a reload with the slot's old lanes before, what spills it after, and the temporaries left. -/
structure Dests where
  ds : List Opd
  pre : List XOp
  post : List XOp
  t : Tmp
/-- The results of an op: a spilled one goes to the lowest reload register of its class and is stored right after (R235, R444). merge: other lanes may hold copies of a vector or predicate in its slot, so the reload takes them first (log 9). -/
def destsGo (merge : Bool) : List Loc → Dests → Dests
  | [], d => d
  | .slot k off :: ls, d =>
    let r := if k = 2 then d.t.s else if k = 3 then d.t.q else if k = 1 then d.t.v + d.t.v % 2 else d.t.v
    let t := if k = 2 then { d.t with s := r + 1 } else if k = 3 then { d.t with q := r + 1 } else { d.t with v := if k = 1 then r + 2 else r + 1 }
    destsGo merge ls ⟨d.ds ++ [⟨r, kindRegs k r, k == 2⟩], d.pre ++ (if merge && k != 2 then [opFill r k off] else []), d.post ++ [{ opSpill r k off with kind := .spill true }], t⟩
  | l :: ls, d =>
    let n := match l with | .vec n => n | .pair n => n | .sca n => n | .pre n => n | .slot _ _ => 0
    destsGo merge ls { d with ds := d.ds ++ [⟨n, l.regs, false⟩] }
def Dests.at (d : Dests) (k : Nat) : Opd := d.ds.getD k ⟨0, [], false⟩

-- moves (R233, R239) ----------------------------------------------------------

/-- n.sel on the bits of a value. -/
def opSel (n1 : Bool) (ty : Ty) (c d : Nat) (a b : Opd) : XOp :=
  let t : Ty := if ty == .i1 then .i1 else if isPair ty then .i64 else .i32
  { slot := 0, bits := slot40 false 0x21 d a.n b.n (t.code.toNat * 16 + c), rd := (.pred, c) :: a.regs ++ b.regs, wr := fieldRegs false ty d, lat := some (latency n1 0 0x21) }
/-- A logic op on predicates. -/
def opPred (n1 : Bool) (idx d a b : Nat) : XOp :=
  { slot := 0, bits := slot40 false idx d a b (Ty.i1.code.toNat * 16), rd := [(.pred, a), (.pred, b)], wr := [(.pred, d)], lat := some (latency n1 0 idx) }
/-- The lanes of a predicate from 0 and 1 in a register, and back: the forms an i1 has between functions and at a kernel's entry (R233). -/
def opsToPred (n1 sc : Bool) (d n : Nat) : List XOp :=
  let r := fieldRegs sc .i32 n
  let e (b : Nat) : Nat := if sc then 3 else b
  let l := if sc then 1 else latency n1 0 0
  [opLi 3 0 1 false, { slot := 0, bits := slot40 sc 0x10 (if sc then 2 else n) n (e 255) 0x40, rd := (.scalar, 3) :: r, wr := if sc then [(.scalar, 2)] else r, lat := some l },
   opLi 3 0 0 false, { slot := 0, bits := slot40 sc 0x20 d (if sc then 2 else n) (e 255) 0x41, rd := (.scalar, 3) :: (if sc then [(.scalar, 2)] else r), wr := [(.pred, d)], lat := some l }]
def opsFromPred (n1 : Bool) (d q : Nat) : List XOp :=
  [opLi 2 0 1 false, opLi 3 0 0 false, opSel n1 .i32 q d ⟨255, [(.scalar, 2)], false⟩ ⟨255, [(.scalar, 3)], false⟩]

/-- A move into vector register d, of the lanes of a side of condition c; an i1 is 0 or 1 there. -/
def opsMoveVec (n1 : Bool) (c : XSrc) (m : Move) (d : Nat) (t : Tmp) : List XOp :=
  let m : Move := if m.ty == .i1 then { m with ty := .i32 } else m
  let old : Opd := ⟨d, fieldRegs false m.ty d, false⟩
  match m.side, m.src with
  | .both, .loc (.pre q) => opsFromPred n1 d q
  | .both, .loc (.slot 3 off) => opFill t.q 3 off :: opsFromPred n1 d t.q
  | .both, .loc (.sca n) => [opBcast n1 m.ty d n]
  | .both, .loc (.slot 2 off) => [opFill t.s 2 off, opBcast n1 m.ty d t.s]
  | .both, .const x => opsConst 2 x ++ [opBcast n1 m.ty d 2]
  | .both, s => let g := bringVec m.ty 2 (.start t) s; g.ops ++ [opMovV n1 m.ty d (g.at 0).n]
  | .yes, s =>
    let g := bringPred n1 (.start { t with q := 15 }) c
    let h := bringVec m.ty 2 { g with os := [] } s
    h.ops ++ [opSel n1 m.ty (g.at 0).n d (h.at 0) old]
  | .no, s =>
    let g := bringPred n1 (.start { t with q := 15 }) c
    let h := bringVec m.ty 3 { g with os := [] } s
    h.ops ++ [opSel n1 m.ty (g.at 0).n d old (h.at 0)]
/-- A move into predicate register d. -/
def opsMovePred (n1 : Bool) (c : XSrc) (m : Move) (d : Nat) (t : Tmp) : List XOp :=
  match m.src with
  | .loc (.vec n) => opsToPred n1 false d n
  | .loc (.slot 0 off) => opFill t.v 0 off :: opsToPred n1 false d t.v
  | .loc (.sca n) => opsToPred n1 true d n
  | s =>
    let old : Opd := ⟨d, [(.pred, d)], false⟩
    let g := bringPred n1 (.start { t with q := if d = 14 then 15 else 14 }) s
    match m.side with
    | .both => g.ops ++ [opMovP n1 d (g.at 0).n]
    | .yes => let h := bringPred n1 ⟨[], g.ops, { t with q := 15 }⟩ c; h.ops ++ [opSel n1 .i1 (h.at 0).n d (g.at 0) old]
    | .no => let h := bringPred n1 ⟨[], g.ops, { t with q := 15 }⟩ c; h.ops ++ [opSel n1 .i1 (h.at 0).n d old (g.at 0)]
/-- A move into a predicate slot under a condition: old xor (side and (new xor old)), of two reloads. -/
def opsMoveSlotPred (n1 : Bool) (c : XSrc) (m : Move) (off : Nat) (t : Tmp) : List XOp :=
  let g := bringPred n1 (.start { t with q := 14 }) m.src
  let h := bringPred n1 (.start { t with q := 15 }) c
  g.ops ++ [opFill 15 3 off, opPred n1 0x12 14 (g.at 0).n 15] ++ h.ops ++ [opPred n1 (if m.side = .yes then 0x10 else 0x13) 14 14 (h.at 0).n,
    opFill 15 3 off, opPred n1 0x12 15 15 14, opSpill 15 3 off]

/-- The ops of one move. merge: the destination slot keeps the lanes that are not active. -/
def opsMove (n1 merge : Bool) (c : XSrc) (t : Tmp) (m : Move) : List XOp :=
  if m.src == .loc m.dst then []
  else match m.dst with
  | .vec d => opsMoveVec n1 c m d t
  | .pair d => opsMoveVec n1 c m d t
  | .pre d => opsMovePred n1 c m d t
  | .sca d => let g := bringSca (.start t) m.src; g.ops ++ [opMovS d (g.at 0).n]
  | .slot 2 off => let g := bringSca (.start t) m.src; g.ops ++ [opSpill (g.at 0).n 2 off]
  | .slot 3 off =>
    if m.side = .both then (if merge then [opFill 15 3 off] else []) ++ opsMovePred n1 c m 15 t ++ [opSpill 15 3 off]
    else opsMoveSlotPred n1 c m off t
  | .slot k off =>
    let whole := match m.src with | .loc (.vec n) => some n | .loc (.pair n) => some n | _ => none
    match whole, merge || m.side != .both with
    | some n, false => [opSpill n k off]
    | _, keep =>
      let r := t.v + t.v % 2
      (if keep then [opFill r k off] else []) ++ opsMoveVec n1 c m r { t with v := r + 2 } ++ [opSpill r k off]

/-- The first phase of staged moves: each operand goes to its 256 bytes of the staging area; what is constant stands nowhere. A condition that a move overwrites is staged beside that move's operand. -/
def stageOps (a : XAlloc) (ms : List Move) (c : XSrc) : List XOp × List Move × XSrc :=
  let one (k : Nat) (m : Move) : List XOp × Move :=
    let at' := a.stage + 256 * k
    match m.src with
    | .const _ => ([], m)
    | .loc (.slot kd off) =>
      let r := if kd = 2 then a.tmp.s else if kd = 3 then a.tmp.q else a.tmp.v
      ([opFill r kd off, opSpill r kd at'], { m with src := .loc (.slot kd at') })
    | .loc (.vec n) => ([opSpill n 0 at'], { m with src := .loc (.slot 0 at') })
    | .loc (.pair n) => ([opSpill n 1 at'], { m with src := .loc (.slot 1 at') })
    | .loc (.sca n) => ([opSpill n 2 at'], { m with src := .loc (.slot 2 at') })
    | .loc (.pre n) => ([opSpill n 3 at'], { m with src := .loc (.slot 3 at') })
  let rs := (List.range ms.length).filterMap fun k => ms[k]?.map (one k)
  let covers (l : Loc) (k : Nat) : Bool := match ms[k]? with | some m => m.dst.meets l | none => false
  let hit : Option Nat := match c with | .loc l => (List.range ms.length).find? (covers l) | .const _ => none
  match hit, c with
  | some k, .loc (.pre n) =>
    let at' := a.stage + 256 * k + 128
    (rs.flatMap (·.1) ++ [opSpill n 3 at'], rs.map (·.2), .loc (.slot 3 at'))
  | some k, .loc (.slot _ off) =>
    let at' := a.stage + 256 * k + 128
    (rs.flatMap (·.1) ++ [opFill 14 3 off, opSpill 14 3 at'], rs.map (·.2), .loc (.slot 3 at'))
  | _, _ => (rs.flatMap (·.1), rs.map (·.2), c)

/-- A fill made by a move marks its destination lost and faults where that is consumed (R239). -/
def quietFill (o : XOp) : XOp := if o.kind == .fill then { o with faulty := false } else o
/-- The moves of a branch or call, with where the condition stands after them. -/
def opsMoves (x : XFn) (a : XAlloc) (it : XItem) (c : XSrc) : List XOp × XSrc :=
  let merge := match it.instr with | .call _ _ _ _ _ => false | _ => true
  let ms := movesOf x a it
  let (s, ms', c') := if stagedMoves x a it then stageOps a ms c else ([], ms, c)
  ((s ++ ms'.flatMap (opsMove x.n1 merge c' a.tmp)).map quietFill, c')

/-- The results of a ret: two moves, in the order that loses neither, or through a temporary (log 9). -/
def opsRet (x : XFn) (a : XAlloc) (vs : List Opnd) : List XOp :=
  let tys := vs.map fun o => match o with | .ref n => if n.toNat < 0xFFE0 then x.tys.getD n.toNat .void else (specialTy n.toNat).getD .void | _ => .void
  let ms : List Move := (vs.zip (tys.zip (arrivals x.eff tys))).map fun p => ⟨a.src p.2.1 p.1, p.2.2, p.2.1, .both⟩
  let hits (m n : Move) : Bool := match m.src with | .loc l => l.meets n.dst | .const _ => false
  let go := opsMove x.n1 false (.const 0) a.tmp
  match ms with
  | [m, n] =>
    if !hits n m then go m ++ go n
    else if !hits m n then go n ++ go m
    else
      let t : Loc := match n.dst with | .pair _ => .pair 4 | .sca _ => .sca 4 | _ => .vec 4
      go { n with dst := t } ++ go m ++ go { n with src := .loc t }
  | ms => ms.flatMap go

-- instructions ----------------------------------------------------------------

/-- Whether an instruction's entry names a fault (R237): the tables R144, R164, R185, R347, R376, the rows that take a handle (R32), the Reel's and the context's, `trap` (R274), and what stops at an ordering point (R162). -/
def faultable (op : Nat) : Bool :=
  [0x03, 0x04, 0x06, 0x07, 0x08, 0x61, 0x62, 0x63, 0x77, 0x80, 0x81, 0x82, 0x83, 0x84, 0x85, 0x87, 0x90, 0x91, 0x92, 0x98, 0xA0, 0xA1, 0xA4, 0xA5, 0xA6, 0xA8, 0xA9,
   0xAA, 0xAB, 0xAC, 0xB0, 0xB1, 0xB2, 0xB3, 0xB4, 0xB8, 0xB9, 0xBA, 0xC0, 0xC1, 0xC2, 0xC3, 0xC4, 0xC5, 0xC6, 0xE0, 0xE1, 0xE2, 0xE3, 0xE4, 0xE5, 0xE6, 0xE8, 0xEB].contains op
/-- Fields B and M of an R3 op by its Flinal row (R263, R264): t, ot, ot2 the type codes of the instruction and of its first two operands. -/
def r3Fields (op sx ac t ot ot2 : Nat) : Nat × Nat :=
  if op = 0x33 || op = 0x34 || op = 0x60 then (ot * 16, t * 16 + sx)
  else if op = 0x37 then (0, ot2 * 16 + sx)
  else if op = 0x4E then (sx % 256, t * 16 + sx / 256)
  else if op = 0x61 then (ot * 16 + ac, t * 16 + sx)
  else if op = 0x62 then (0, ot * 16 + 8 * sx + ac)
  else if op = 0x63 then (0, t * 16 + 8 * sx + ac)
  else if op = 0x67 then (ot * 16, t * 16)
  else (0, t * 16 + sx)

/-- How a slot-C op stands to other accesses (R237, rule 2): a relaxed access of its class; nothing for a pointer op, a prefetch, a counter read; else none passes it. -/
def kindC (op sx ac : Nat) : XKind :=
  if 0x80 ≤ op && op < 0x84 then (if sx % 2 = 0 then .mem ac else .order)
  else if op = 0x84 || op = 0x85 then .mem ac
  else if 0x90 ≤ op && op < 0x93 then (if sx / 16 % 4 = 0 then .mem ac else .order)
  else if op = 0x86 || op = 0x87 || op = 0x88 || op = 0xE9 || op = 0xEA then .plain
  else .order

/-- Operands of an instruction with the types they take and what they name. -/
def srcsOf (x : XFn) (a : XAlloc) (i : Instr) : List (Ty × XSrc) :=
  let ty0 := match parts i with | some p => p.ty | none => .void
  (positions i).map fun p =>
    let t := match p.2 with
      | .ex t => t
      | _ => (match p.1 with | .ref n => if n.toNat < 0xFFE0 then x.tys.getD n.toNat .void else (match specialTy n.toNat with | some .void => ty0 | some t => t | none => ty0) | _ => ty0)
    (t, a.src t p.1)

/-- The one op of an instruction in slot A or B. -/
def opR3 (n1 sc : Bool) (op m b : Nat) (d : Opd) (os : List Opd) (extra : Regs) : XOp :=
  let slot := if op < 0x40 then 0 else 1
  let idx := if op < 0x40 then op - 0x10 else op - 0x40
  let oa := os.getD 0 ⟨0, [], false⟩
  let ob := os.getD 1 ⟨b, [], false⟩
  { slot := slot, bits := slot40 sc idx d.n oa.n ob.n m, rd := os.flatMap Opd.regs ++ extra, wr := d.regs, lat := some (latency (n1 && !sc) slot idx),
    faulty := faultable op, sync := op == 0x72 || op == 0x73 || op == 0x74 }

/-- The expansion of an instruction that computes (classes 0x10-0x76): results at ds, in scalar form or not. -/
def opsCompute (n1 sc : Bool) (i : Instr) (p : Parts) (ds : Dests) (t : Tmp) (ss : List (Ty × XSrc)) : Got :=
  let op := p.op.toNat
  let tc := p.ty.code.toNat
  let d := ds.at 0
  let two (l : List (Ty × XSrc)) : Got := bringAll n1 sc ((List.range l.length).filterMap fun k => l[k]?.map fun q => (q.1, (if k = 1 then 3 else 2), q.2)) (.start t)
  let put (g : Got) (os : List XOp) : Got := { g with ops := g.ops ++ os }
  let lat (slot idx : Nat) : Option Nat := some (latency (n1 && !sc) slot idx)
  let s (k : Nat) : Ty × XSrc := ss.getD k (.void, .const 0)
  let isScal (q : Ty × XSrc) : Bool := match q.2 with | .loc (.sca _) => true | .loc (.slot 2 _) => true | .const _ => true | _ => false
  -- a value into register n before an op that rewrites it
  let into (n : Nat) (q : Ty × XSrc) (t : Tmp) : List XOp := opsMove n1 false (.const 0) t ⟨q.2, if sc then .sca n else if isPair q.1 then .pair n else .vec n, q.1, .both⟩
  let ctlWord (pos len : Ty × XSrc) (dst : Nat) : Got × Opd :=
    if sc || (isScal pos && isScal len) then
      let g := bringAll n1 true [(.i32, 0, pos.2), (.i32, 0, len.2)] (.start t)
      (put g [{ slot := 0, bits := slot40 true 0x2A dst (g.at 0).n (g.at 1).n 0, rd := g.reads, wr := [(.scalar, dst)] }], ⟨if sc then dst else 255, [(.scalar, dst)], sc⟩)
    else
      let g := bringAll n1 false [(.i32, 2, pos.2), (.i32, 3, len.2)] (.start t)
      (put g [{ slot := 0, bits := slot40 false 0x2A d.n (g.at 0).n (g.at 1).n 0, rd := g.reads, wr := [(.vec, d.n)], lat := lat 0 0x2A }], ⟨d.n, [(.vec, d.n)], false⟩)
  match i with
  | .const h bits => ⟨[], if h.ty == .i1 then [opLiPred n1 d.n bits.toNat] else opsConst d.n bits.toNat, t⟩
  | .mad _ _ _ _ =>
    let l := if !sc && isScal (s 0) && isScal (s 2) && (s 0).2 != (s 2).2 then [s 1, s 0, s 2] else [s 0, s 1, s 2]
    let g := two l
    put g [{ slot := 0, bits := slot40 sc (0x40 + tc - 2) d.n (g.at 0).n (g.at 1).n (g.at 2).n, rd := g.reads, wr := d.regs, lat := lat 0 0x40 }]
  | .fma _ _ _ _ _ =>
    let l := if !sc && isScal (s 0) && isScal (s 2) && (s 0).2 != (s 2).2 then [s 1, s 0, s 2] else [s 0, s 1, s 2]
    let g := two l
    put g [{ slot := 1, bits := slot40 sc (0x50 + 4 * (tc - 6) + p.sx) d.n (g.at 0).n (g.at 1).n (g.at 2).n, rd := g.reads, wr := d.regs, lat := lat 1 0x50 }]
  | .divrem _ _ _ _ =>
    let g := two ss
    put g [{ slot := 0, bits := slot40 sc (0x50 + 4 * p.sx + tc - 2) d.n (g.at 0).n (g.at 1).n (ds.at 1).n, rd := g.reads, wr := d.regs ++ (ds.at 1).regs, lat := lat 0 0x50 }]
  | .addc _ _ _ _ | .subb _ _ _ _ =>
    let c := (ds.at 1).n
    let g := two [s 0, s 1]
    let mv := opsMove n1 false (.const 0) g.t ⟨(s 2).2, .pre c, .i1, .both⟩
    put g (mv ++ [{ slot := 0, bits := slot40 sc ((if op = 0x1B then 0x44 else 0x48) + tc - 2) d.n (g.at 0).n (g.at 1).n c, rd := (.pred, c) :: g.reads,
                    wr := (.pred, c) :: d.regs, lat := lat 0 0x44 }])
  | .bfx _ _ _ _ _ =>
    let (g, c) := ctlWord (s 1) (s 2) 3
    let h := bring n1 sc p.ty 2 { g with os := [], t := { g.t with c := 2 } } (s 0).2
    put h [{ slot := 0, bits := slot40 sc 0x1C d.n (h.at 0).n c.n (tc * 16 + p.sx), rd := c.regs ++ h.reads, wr := d.regs, lat := lat 0 0x1C }]
  | .bfi _ _ _ _ _ =>
    let (g, c) := ctlWord (s 2) (s 3) 2
    let clash := !sc && c.n == 255 && isScal (s 0)
    let g' := if clash then put g [opBcast n1 .i32 d.n 2] else g
    let c' : Opd := if clash then ⟨d.n, [(.vec, d.n)], false⟩ else c
    let h := bring n1 sc p.ty 3 (bring n1 sc p.ty 2 { g' with os := [], t := { g'.t with c := 3 } } (s 0).2) (s 1).2
    put h [{ slot := 0, bits := slot40 sc (0x4C + tc - 2) d.n (h.at 0).n (h.at 1).n c'.n, rd := c'.regs ++ h.reads, wr := d.regs, lat := lat 0 0x4C }]
  | .sel h _ _ _ =>
    if h.ty == .i1 then
      -- three predicates at most stand in registers: with two reloads the choice is B xor (C and (A xor B))
      let inReg (q : Ty × XSrc) : Bool := match q.2 with | .loc (.pre _) => true | _ => false
      if (ss.filter fun q => !inReg q).length ≤ 2 then
        let g := bringAll n1 false [(.i1, 2, (s 0).2), (.i1, 2, (s 1).2), (.i1, 2, (s 2).2)] (.start { t with q := 14 })
        put g [opSel n1 .i1 (g.at 0).n d.n (g.at 1) (g.at 2)]
      else
        let fill (n : Nat) (k : Nat) : List XOp := (bringPred n1 (.start { t with q := n }) (s k).2).ops
        ⟨[], fill 14 1 ++ fill 15 2 ++ [opPred n1 0x12 14 14 15] ++ fill 15 0 ++ [opPred n1 0x10 14 14 15] ++ fill 15 2 ++ [opPred n1 0x12 d.n 15 14], t⟩
    else
      let g := bringAll n1 sc [(h.ty, 2, (s 1).2), (h.ty, 3, (s 2).2)] (bringPred n1 (.start t) (s 0).2)
      put g [{ slot := 0, bits := slot40 sc 0x21 d.n (g.at 1).n (g.at 2).n (tc * 16 + (g.at 0).n), rd := g.reads, wr := d.regs, lat := lat 0 0x21 }]
  | .amax _ _ _ _ _ | .amin _ _ _ _ _ =>
    let k := (ds.at 1).n
    let g := bringAll n1 sc [(p.ty, 3, (s 2).2), (.i32, 2, (s 3).2)] (.start t)
    let both := d.regs ++ (ds.at 1).regs
    let bits := slot40 sc ((if op = 0x56 then 0x60 else 0x64) + tc - 6) d.n k (g.at 0).n (g.at 1).n
    ⟨g.os, into d.n (s 0) t ++ into k (s 1) t ++ g.ops ++ [{ slot := 1, bits := bits, rd := g.reads ++ both, wr := both, lat := lat 1 0x60 }], g.t⟩
  | .xamax _ _ _ _ =>
    let k := (ds.at 1).n
    let both := d.regs ++ (ds.at 1).regs
    ⟨[], into d.n (s 0) t ++ into k (s 1) t ++ [{ slot := 1, bits := slot40 false 0x34 d.n k 0 (tc * 16 + p.sx), rd := both, wr := both, lat := lat 1 0x34, sync := true }], t⟩
  | .q4Unpack _ _ _ _ (some _) =>
    let g := bringAll n1 sc [(.q4, 2, (s 0).2), (.i32, 3, (s 1).2)] (.start t)
    let (b, m) := r3Fields op p.sx p.ac.toNat tc 0 0
    ⟨g.os, into d.n (s 2) t ++ g.ops ++ [{ opR3 n1 sc op m b d g.os d.regs with wr := d.regs }], g.t⟩
  | _ =>
    let g := two ss
    let (b, m) := r3Fields op p.sx p.ac.toNat tc (s 0).1.code.toNat (s 1).1.code.toNat
    put g [opR3 n1 sc op m b d g.os []]

/-- The short accesses of R276. -/
def opsAccess (n1 : Bool) (p : Parts) (d : Opd) (t : Tmp) (ss : List (Ty × XSrc)) : Got :=
  let op := p.op.toNat
  let idx := op - 0x80
  let s (k : Nat) : Ty × XSrc := ss.getD k (.void, .const 0)
  let load := op == 0x80 || op == 0x82
  let g0 : Got := if load then .start t else bring n1 false p.ty 2 (.start { t with c := 3 }) (s 1).2
  let g := bringC n1 .ptr g0 (s 0).2
  let ptr := g.at (if load then 0 else 1)
  let data := if load then d else g.at 0
  { g with ops := g.ops ++ [{ slot := 2, bits := slot40 ptr.scal idx data.n ptr.n (p.ty.code.toNat * 16 + p.ac.toNat) p.sx,
                              ext := match p.lits with | [l] => some l.toNat | _ => none, rd := g.reads, wr := if load then d.regs else [], lat := none,
                              kind := kindC op p.sx p.ac.toNat, faulty := true }] }
/-- The matrix issue ops of R278. -/
def opsMatrix (n1 : Bool) (p : Parts) (d : Opd) (t : Tmp) (ss : List (Ty × XSrc)) : Got :=
  let op := p.op.toNat
  let g := bringAllC n1 ss (.start t)
  let ptr := g.at 0
  { g with ops := g.ops ++ [{ slot := 1, bits := slot40 (decide (0 < ss.length) && ptr.scal) (op - 0x80) d.n ptr.n (g.at 1).n (if op = 0xC1 then 0 else 8 * (p.sx % 2) + p.ac.toNat),
                              rd := g.reads, wr := d.regs, lat := none, kind := .order, faulty := true, sync := op == 0xC2 || op == 0xC5 }] }
/-- The wide slot-C ops of R277. -/
def opsWide (n1 : Bool) (p : Parts) (row : Row) (d : Opd) (t : Tmp) (ss : List (Ty × XSrc)) : Got :=
  let op := p.op.toNat
  let g := bringAllC n1 ss (.start t)
  let file := (List.range g.os.length).foldl (fun m k => if (g.at k).scal then m + 2 ^ k else m) 0
  let sys := op == 0xE6 || op == 0xE7 || op == 0xE8
  { g with ops := g.ops ++ [{ slot := 2, bits := slot40 false (if op = 0x77 then 0x77 else op - 0x80) d.n (g.at 0).n (g.at 1).n 0,
                              ext := some ((g.at 2).n * 2 ^ 32 + (g.at 3).n * 2 ^ 24 + p.ty.code.toNat * 2 ^ 20 + file * 2 ^ 16 + p.ac.toNat * 2 ^ 13 + p.sx),
                              rd := g.reads, wr := d.regs, lat := none, kind := if sys then .ctl else kindC op p.sx p.ac.toNat, faulty := faultable op,
                              waits := row.e && op != 0xE8 }] }

/-- A control op without targets. -/
def opEnd (idx imm : Nat) (faulty : Bool) : XOp := { slot := 0, bits := slot40 false idx 0 (imm / 256) (imm % 256) 0, kind := .ctl, faulty := faulty }
/-- The reconvergence point of a block (R135). -/
def XFn.join (x : XFn) (blk : Nat) : Nat := ipdom x.cfg blk

/-- The ops of an item: those of its own, the spills of its results, and where a result stands until those are made. -/
structure XOps where
  ops : List XOp
  post : List XOp
  late : Option Loc
def XOps.of (os : List XOp) : XOps := ⟨os, [], none⟩

/-- The ops of an instruction that is no header, branch, call or end. merge as for destsGo. A predicate made of predicates in reloads joins its slot's old lanes after it is made. A result whose bundle ends its course, or whose instruction needs every vector reload, is put away before the next instruction (log 9). -/
def opsPlain (x : XFn) (a : XAlloc) (merge : Bool) (it : XItem) : XOps :=
  let i := it.instr
  let n1 := x.n1
  match parts i with
  | none => .of []
  | some p =>
    let op := p.op.toNat
    let locs := (List.range (defTys i).length).map fun k => a.loc (it.val + k)
    let sc := it.row.u && uniDef (x.kind == 1) x.uni it && p.ty != .i1
    let ss := srcsOf x a i
    let build (d : Dests) (t : Tmp) : Got :=
      if op < 0x77 then opsCompute n1 sc i p d t ss
      else if 0x80 ≤ op && op < 0x84 then opsAccess n1 p (d.at 0) t ss
      else if 0xC0 ≤ op && op < 0xC6 then opsMatrix n1 p (d.at 0) t ss
      else opsWide n1 p it.row (d.at 0) t ss
    let d := destsGo merge locs ⟨[], [], [], a.tmp⟩
    let g := build d (if merge || tied x.uni i then d.t else a.tmp)
    match i, locs with
    | .reelCapture h _ _ _ _ _ _ _, [.slot k off] =>
      if merge && decide (a.reload + 8 < g.t.v) then
        let e := destsGo false locs ⟨[], [], [], a.tmp⟩
        let r := a.reload + a.reload % 2
        ⟨(build e a.tmp).ops, [opFill (r + 2) k off, opMovV n1 h.ty (r + 2) r, opSpill (r + 2) k off], some (.pair r)⟩
      else ⟨d.pre ++ g.ops, d.post, none⟩
    | .addc _ _ _ _, _ => ⟨d.pre ++ g.ops, d.post, none⟩
    | .subb _ _ _ _, _ => ⟨d.pre ++ g.ops, d.post, none⟩
    | _, [.slot 3 off] =>
      if merge && ss.any (fun q => q.1 == .i1 && (match q.2 with | .loc (.pre _) => false | _ => true)) then
        ⟨(build (destsGo false locs ⟨[], [], [], a.tmp⟩) a.tmp).ops, [opFill 15 3 off, opMovP n1 15 14, { opSpill 15 3 off with kind := .spill true }], none⟩
      else ⟨d.pre ++ g.ops, d.post, none⟩
    | .doffIssue _ _ _, _ => ⟨d.pre ++ g.ops, d.post, if d.post.isEmpty then none else some ((xcls .i32 false).reg a.reload)⟩
    | _, _ => ⟨d.pre ++ g.ops, d.post, none⟩

/-- The ops of an item; none for a header and for `args`. -/
def opsItem (x : XFn) (a : XAlloc) (merge : Bool) (it : XItem) : XOps :=
  let n1 := x.n1
  match it.instr with
  | .blk _ => .of []
  | .args _ => .of []
  | .br t _ _ => .of ((opsMoves x a it (.const 0)).1 ++ [{ slot := 0, bits := 0, goes := some (.br t.toNat), kind := .ctl }])
  | .cbr c bt bf _ _ _ =>
    let (ms, c') := opsMoves x a it (a.src .i1 c)
    let g := bringPred n1 (.start { a.tmp with q := 15 }) c'
    .of (ms ++ g.ops ++ [{ slot := 0, bits := 0, ext := some 0, goes := some (.cbr (g.at 0).n bt.toNat bf.toNat (x.join it.blk)), rd := g.reads, kind := .ctl, faulty := true }])
  | .switch sel d b n =>
    let g := bringC n1 .i32 (.start a.tmp) (a.src .i32 sel)
    .of (g.ops ++ [{ slot := 0, bits := 0, ext := some 0, goes := some (.switch (g.at 0).scal (g.at 0).n d.toNat b.toNat n.toNat (x.join it.blk)), rd := g.reads, kind := .ctl, faulty := true }])
  | .ret => .of [opEnd 0x34 0 false]
  | .retValues v w => .of (opsRet x a (v :: w.toList) ++ [opEnd 0x34 0 false])
  | .exit => .of [opEnd 0x35 0 true]
  | .unreachable => .of [opEnd 0x36 0 true]
  | .call _ _ f _ _ => .of ((opsMoves x a it (.const 0)).1 ++ [opEnd 0x33 f.toNat true])
  | _ => opsPlain x a merge it
/-- The highest vector register that ops name. -/
def topVec (os : List XOp) : Nat := os.foldl (fun m o => (o.rd ++ o.wr).foldl (fun m r => if r.1 == .vec then Nat.max m (r.2 + 1) else m) m) 0

end Sys2Proof.Machine
end

