-- ==== Sys2Proof/Machine/Sched.lean ====
section
/-! DEFINITION. Steps 6 and 7 of a translation (R231, R237-R248): native courses, bundles, chains, points, locations, the entry's bytes, resume entries. What the rules leave to the Spindle is the model's choice (log 9). -/

namespace Sys2Proof.Machine

-- units -----------------------------------------------------------------------

/-- What is scheduled together: an instruction, or (pre) the moves by which a value leaves the place where it arrived for its own. word: where a group at it resumes; ov: values that still stand where they arrived. -/
structure XUnit where
  word : Nat
  blk : Nat
  ops : List XOp
  pre : Bool
  ret : Bool
  ce : Bool
  live : List Nat
  ov : List (Nat × Loc)

/-- A value that is yet to be moved to its location. -/
structure Due where
  v : Nat
  at' : Loc
  ops : List XOp

/-- The units of values due before a word. -/
def dueUnits (x : XFn) (word blk : Nat) : List Due → List XUnit
  | [] => []
  | d :: ds => ⟨word, blk, d.ops, true, false, false, liveIn x.live word, (d :: ds).map fun e => (e.v, e.at')⟩ :: dueUnits x word blk ds

/-- The moves of values from where they arrived. merge as for destsGo. -/
def duesOf (x : XFn) (a : XAlloc) (merge : Bool) (v : Nat) (tys : List Ty) (at' : List Loc) : List Due :=
  ((List.range tys.length).zip (tys.zip at')).filterMap fun p =>
    if p.2.2 == a.loc (v + p.1) then none
    else some ⟨v + p.1, p.2.2, (opsMove x.n1 merge (.const 0) a.tmp ⟨.loc p.2.2, a.loc (v + p.1), p.2.1, .both⟩).map quietFill⟩

/-- What is due after an item: a call's results, and a result that is put away late. -/
def dueAfter (x : XFn) (a : XAlloc) (it : XItem) (o : XOps) : List Due :=
  match it.instr, o.late with
  | .call h _ f _ _, _ => if h.ty == .void then [] else
      let tys := calleeRets x.fns f.toNat
      duesOf x a (it.blk != 0) it.val tys (arrivals x.eff tys)
  | _, some l => [⟨it.val, l, o.post⟩]
  | _, none => []

/-- The units of a function's items, block by block; a function whose last block has no terminator returns at its end (log 17). -/
def unitsGo (x : XFn) (a : XAlloc) : List XItem → List Due → Nat → Nat → List XUnit
  | [], due, word, blk => dueUnits x word blk due
  | it :: rest, due, _, _ =>
    let next := match rest with | r :: _ => r.word | [] => it.word + (encode it.instr).length
    match it.instr with
    | .blk _ => (if it.blk = 0 then [] else dueUnits x it.word (it.blk - 1) due) ++ unitsGo x a rest (if it.blk = 0 then due else []) next it.blk
    | .args _ => unitsGo x a rest due next it.blk
    | i =>
      let o := opsItem x a (it.blk != 0) it
      let kept := if o.late.isSome then o.ops else o.ops ++ o.post
      let call := match i with | .call _ _ _ _ _ => true | _ => false
      dueUnits x it.word it.blk due ++ ⟨it.word, it.blk, kept, false, call, it.ce, liveIn x.live it.word, []⟩
        :: unitsGo x a rest (dueAfter x a it o) next it.blk
def XFn.units (x : XFn) (a : XAlloc) : List XUnit :=
  let us := unitsGo x a x.xs (duesOf x a false 0 x.params x.arrive) 0 0
  match x.xs.getLast? with
  | some it => if isTerm it.instr then us else us ++ [⟨it.word + (encode it.instr).length, it.blk, [opEnd 0x34 0 false], false, false, true, [], []⟩]
  | none => us

-- courses (R237, R238) --------------------------------------------------------

/-- An op in its bundle of the course, with its unit's number. -/
structure Placed where
  b : Nat
  u : Nat
  op : XOp
/-- A faultable unit: its number, its first bundle, the bundle of its last op that can fault, and the registers of what is live at it. -/
structure Guard where
  u : Nat
  first : Nat
  last : Nat
  regs : Regs
/-- A native course that is being built. -/
structure Course where
  ops : List Placed
  n : Nat
  marks : List Nat
  floor : Nat
  guards : List Guard
def Course.empty : Course := ⟨[], 0, [], 0, []⟩

def regMeet (a b : Regs) : Bool := a.any fun r => b.contains r
/-- Whether an op is an access or an order that rule 2 of R237 speaks of. -/
def XKind.access : XKind → Bool
  | .mem _ => true
  | .order => true
  | _ => false
def XKind.spillFill : XKind → Bool
  | .fill => true
  | .spill _ => true
  | _ => false
/-- The first bundle at which an op may stand by an earlier op's registers (R257, R258, R261). -/
def regsAfter (o : XOp) (p : Placed) : Nat :=
  let ready := match p.op.kind, p.op.lat with | .fill, _ => p.b + 1 | _, some l => p.b + Nat.max 1 l | _, none => p.b + 1
  let raw := if regMeet o.rd p.op.wr then (if o.kind = .spill true then p.b + 1 else ready) else 0
  let waw := if regMeet o.wr p.op.wr then ready else 0
  let war := if regMeet o.wr p.op.rd then (if p.op.kind.spillFill then p.b + 1 else p.b) else 0
  Nat.max raw (Nat.max waw war)
/-- ... and by its order (rule 2); fills and spills keep their order (R261). -/
def orderAfter (o : XOp) (p : Placed) : Nat :=
  if o.kind.spillFill && p.op.kind.spillFill then p.b + 1
  else match o.kind, p.op.kind with
    | .mem a, .mem c => if a = c then p.b + 1 else 0
    | x, y => if (x = .order && y.access) || (y = .order && x.access) then p.b + 1 else if x = .order || y = .order then p.b else 0
/-- The first bundle past every op of a list. -/
def past (ps : List Placed) : Nat := ps.foldl (fun m p => Nat.max m (p.b + 1)) 0
/-- The bundle from which an op of unit u may stand: rules 1 to 4 of R237, and a control op after all others. -/
def Course.lowest (c : Course) (u : Nat) (faulty : Bool) (o : XOp) : Nat :=
  let dep := c.ops.foldl (fun m p => Nat.max m (Nat.max (regsAfter o p) (orderAfter o p))) c.floor
  let r3 := if faulty then past (c.ops.filter fun p => p.u != u) else 0
  let free (g : Guard) : Bool := o.slot != 2 && o.kind == .plain && !regMeet o.wr g.regs
  let r4 := c.guards.foldl (fun m g => if g.u = u then m else Nat.max m (if free g then g.first else g.last + 1)) 0
  let ctl := if o.kind = .ctl then past c.ops else 0
  Nat.max (Nat.max dep r3) (Nat.max r4 ctl)
/-- Whether a bundle has the slots an op needs (R256), and holds no sync op beside it (R262). -/
def Course.fits (c : Course) (o : XOp) (b : Nat) : Bool :=
  let here := c.ops.filter fun p => p.b == b
  let partner (x : XOp) : Option Nat := if x.ext.isNone then none else if x.slot = 2 then some 0 else some 2
  if o.sync then here.isEmpty && !(c.ops.any fun p => p.op.sync && (p.b + 1 == b || p.b == b + 1))
  else here.all fun p => !p.op.sync && p.op.slot != o.slot && partner p.op != some o.slot && partner o != some p.op.slot
/-- The first bundle from b that fits. -/
def Course.find (c : Course) (o : XOp) : Nat → Nat → Nat
  | 0, b => b
  | n + 1, b => if c.fits o b then b else Course.find c o n (b + 1)
/-- Places the ops of a unit in order. -/
def Course.place (u : Nat) (faulty : Bool) : List XOp → Course → Course
  | [], c => c
  | o :: os, c =>
    let b := c.find o (c.n + 2) (c.lowest u faulty o)
    Course.place u faulty os { c with ops := ⟨b, u, o⟩ :: c.ops, n := Nat.max c.n (b + 1) }
/-- Adds a unit to a course. regs: the registers of what is live at it. -/
def Course.add (c : Course) (u : Nat) (ops : List XOp) (regs : Regs) : Course :=
  let faulty := ops.any XOp.faulty
  let d := Course.place u faulty ops c
  let mine := d.ops.filter fun p => p.u == u
  if faulty then
    let first := mine.foldl (fun m p => Nat.min m p.b) d.n
    let last := mine.foldl (fun m p => if p.op.faulty then Nat.max m p.b else m) 0
    { d with guards := ⟨u, first, last, regs⟩ :: d.guards }
  else d
/-- Whether the last bundle is a sync bundle, which takes no W and no E (R262). -/
def Course.syncEnd (c : Course) : Bool := c.ops.any fun p => p.op.sync && p.b + 1 == c.n
/-- A course whose last bundle may take W or E. -/
def Course.closed (c : Course) : Course := if c.syncEnd then { c with n := c.n + 1 } else c

-- the layout of an entry ------------------------------------------------------

/-- A bundle before its bits: ops, W and E, or a table of blocks (R271). -/
structure XBundle where
  ops : List XOp
  w : Bool
  e : Bool
  tab : Option (List Nat)
/-- A point before its record: kind bits, and what its location list names. -/
structure XPoint where
  kind : Nat
  b : Nat
  word : Nat
  blk : Nat
  live : List Nat
  ov : List (Nat × Loc)
/-- An entry that is being laid out: finished bundles, points, registers with outstanding results (R257), the course being built, the blocks' first bundles, and the kinds that the next bundle's point takes. -/
structure Layout where
  bs : List XBundle
  pts : List XPoint
  out : Regs
  cur : Course
  starts : List (Nat × Nat)
  kinds : Nat
  u : Nat
def Layout.empty : Layout := ⟨[], [], [], .empty, [], 0, 0⟩

/-- The bundles of a finished course, E on the last; a chain has E on every 24th as well (R239). -/
def Course.bundles (c : Course) : List XBundle :=
  (List.range c.n).map fun b => ⟨(c.ops.filter fun p => p.b == b).map Placed.op, c.marks.contains b, b + 1 == c.n || b % 24 == 23, none⟩
/-- Ends the course being built; the table of a switch follows its bundle. -/
def Layout.close (l : Layout) : Layout :=
  if l.cur.n = 0 then l
  else
    let tabs := l.cur.ops.flatMap fun p => match p.op.goes with
      | some (.switch _ _ _ base n _) => (List.range ((n + 5) / 6)).map fun k => (⟨[], false, false, some ((List.range (Nat.min 6 (n - 6 * k))).map fun j => base + 6 * k + j)⟩ : XBundle)
      | _ => []
    { l with bs := l.bs ++ l.cur.closed.bundles ++ tabs, cur := .empty }
/-- Sets W on the last bundle (R240, R259): no result is outstanding after it, and the next bundle carries PARK. -/
def Layout.mark (l : Layout) : Layout :=
  if l.cur.n = 0 then
    { l with bs := l.bs.dropLast ++ (match l.bs.getLast? with | some b => [{ b with w := true }] | none => []), out := [], kinds := l.kinds ||| 8 }
  else
    let c := l.cur.closed
    { l with cur := { c with marks := (c.n - 1) :: c.marks, floor := c.n }, out := [], kinds := l.kinds ||| 8 }
/-- The registers of live values. -/
def XAlloc.liveRegs (a : XAlloc) (live : List Nat) : Regs := live.flatMap fun v => (a.loc v).regs
/-- Adds a unit (R238): W first where it needs one, then into the course, or into a new one where it would exceed 24 bundles. -/
def Layout.unit (a : XAlloc) (l0 : Layout) (x : XUnit) : Layout :=
  let ctl := x.ops.any fun o => o.kind == .ctl
  let need := !l0.out.isEmpty && (ctl || x.ops.any fun o => regMeet (o.rd ++ o.wr) l0.out)
  let l1 := if need then l0.mark else l0
  let regs := a.liveRegs x.live
  let c1 := l1.cur.add l1.u x.ops regs
  let l2 := if decide (0 < l1.cur.n) && decide (24 < c1.closed.n) then l1.close else l1
  let opens := l2.cur.n = 0
  let base := l2.bs.length
  let c := if opens then Course.empty.add l2.u x.ops regs else c1
  let mine := c.ops.filter fun p => p.u == l2.u
  let first := mine.foldl (fun m p => Nat.min m p.b) c.n
  let pt (k b : Nat) : XPoint := ⟨k, base + b, x.word, x.blk, x.live, x.ov⟩
  let pts := (if opens then [pt (2 ||| l2.kinds) 0] else if l2.kinds != 0 then [pt l2.kinds c.floor] else [])
    ++ (if x.ops.any XOp.faulty then [pt 4 first] else [])
    ++ (mine.filter fun p => p.op.waits).map fun p => pt 32 p.b
  let stored := x.ops.flatMap fun o => match o.kind with | .spill _ => o.rd | _ => []
  let late := x.ops.flatMap fun o => if o.lat.isNone then o.wr else []
  let l3 := { l2 with cur := c, pts := l2.pts ++ pts, kinds := 0, u := l2.u + 1,
                      out := (l2.out ++ late).filter fun r => !stored.contains r }
  let l4 := if x.ce || ctl then l3.close else l3
  if x.ret then { l4 with kinds := l4.kinds ||| 16 } else l4
/-- The units of one block, whose first bundle is a COURSE point's. word: where an empty block stands. -/
def Layout.block (a : XAlloc) (l : Layout) (blk word : Nat) (us : List XUnit) : Layout :=
  let l0 := { l with starts := l.starts ++ [(blk, l.bs.length)] }
  let l1 := (us.foldl (Layout.unit a) l0).close
  let l2 := if l1.bs.length = l.bs.length
    then { l1 with bs := l1.bs ++ [⟨[], false, true, none⟩], pts := l1.pts ++ [⟨2 ||| l1.kinds, l.bs.length, word, blk, [], []⟩], kinds := 0 } else l1
  if l2.out.isEmpty then l2 else l2.mark

/-- The main entry's layout: the blocks in ascending order (R269). -/
def XFn.layout (x : XFn) (a : XAlloc) : Layout :=
  let us := x.units a
  let ls := (List.range x.heads.length).foldl (fun l b => Layout.block a l b (match x.heads[b]? with | some h => h.word | none => 0) (us.filter fun u => u.blk == b)) .empty
  { ls with pts := match ls.pts with | p :: ps => { p with kind := p.kind ||| 1 } :: ps | [] => [] }

/-- The bits of a bundle (R252); first: the blocks' first bundles. -/
def XBundle.bits (starts : List (Nat × Nat)) (b : XBundle) : BitVec 128 :=
  let go (blk : Nat) : Nat := if blk = exitP then 0xFFFFF else match starts.find? fun p => p.1 == blk with | some p => p.2 | none => 0
  let fill (o : XOp) : Nat × Nat := match o.goes with
    | none => (o.bits, o.ext.getD 0)
    | some (.br t) => (slot40 false 0x30 0 0 0 0 + go t, 0)
    | some (.cbr q t f p) => (slot40 false 0x31 q 0 0 0 + go t, go f * 2 ^ 20 + go p)
    | some (.switch sc d dflt _ n p) => (slot40 sc 0x32 d 0 0 0 + go dflt, go p * 2 ^ 20 + n * 2 ^ 10)
  let one (o : XOp) : Nat :=
    let (x, e) := fill o
    match o.slot with
    | 0 => 2 ^ 124 + x * 2 ^ 80 + e
    | 1 => 2 ^ 123 + x * 2 ^ 40
    | _ => 2 ^ 122 + x + e * 2 ^ 80
  match b.tab with
  | some ts => BitVec.ofNat 128 (((List.range ts.length).map fun j => go (ts.getD j 0) * 2 ^ (20 * j)).foldl (· + ·) 0)
  | none => BitVec.ofNat 128 ((b.ops.map one).foldl (· + ·) 0 + (if b.ops.any XOp.sync then 2 ^ 127 else 0) + (if b.w then 2 ^ 126 else 0) + (if b.e then 2 ^ 125 else 0))

/-- A location record (R244); a scalar or predicate slot counts from the scalar frame. -/
def Loc.record (vframe v : Nat) (ty : Ty) (l : Loc) : BitVec 64 :=
  let mk (wh reg slot : Nat) : BitVec 64 := BitVec.ofNat 64 (v * 2 ^ 48 + ty.code.toNat * 2 ^ 44 + wh * 2 ^ 40 + reg * 2 ^ 32 + slot)
  match l with
  | .vec n => mk 0 n 0
  | .pair n => mk 1 n 0
  | .sca n => mk 2 n 0
  | .pre n => mk 3 n 0
  | .slot k off => mk (4 + k) 0 (if k < 2 then off else off - vframe)

-- entries (R241-R244, R247) ---------------------------------------------------

/-- A point record (R243). -/
structure PointRec where
  kind : Nat
  bundle : Nat
  word : Nat
  loc : Nat
  nloc : Nat
  block : Nat
  deriving DecidableEq, Repr
/-- Kind bits of R240. -/
def PointRec.isCourse (p : PointRec) : Bool := p.kind.testBit 1
def PointRec.isFault (p : PointRec) : Bool := p.kind.testBit 2
/-- Its 16 bytes as a number. -/
def PointRec.bits (p : PointRec) : BitVec 128 :=
  BitVec.ofNat 128 (p.bundle + p.kind * 2 ^ 24 + p.word * 2 ^ 32 + p.loc * 2 ^ 64 + p.nloc * 2 ^ 96 + p.block * 2 ^ 112)

/-- What the Spindle writes for a key (R242). -/
structure XBody where
  bundles : List (BitVec 128)
  points : List PointRec
  locs : List (BitVec 64)
  vframe : Nat
  sframe : Nat
  spills : Bool
  vregs : Nat
  nextB : Nat
  specs : List (Nat × Loc)

/-- One record for each bundle that has points, with the OR of their kinds. -/
def mergePoints : List XPoint → List XPoint
  | [] => []
  | p :: ps =>
    match mergePoints ps with
    | q :: qs => if p.b = q.b then { p with kind := p.kind ||| q.kind } :: qs else p :: q :: qs
    | [] => [p]
/-- The records and the pool of a list of points. -/
def pointRecs (x : XFn) (a : XAlloc) : List XPoint → Nat → List PointRec × List (BitVec 64)
  | [], _ => ([], [])
  | p :: ps, at' =>
    let ls := p.live.map fun v => Loc.record a.vframe v (x.tys.getD v .void) (match p.ov.find? fun o => o.1 == v with | some o => o.2 | none => a.loc v)
    let r := pointRecs x a ps (at' + ls.length)
    (⟨p.kind, p.b, p.word, at', ls.length, p.blk⟩ :: r.1, ls ++ r.2)
/-- An entry's body from its layout; starts: the main entry's blocks. -/
def bodyOf (x : XFn) (a : XAlloc) (l : Layout) (starts : List (Nat × Nat)) (nextB : Nat) : XBody :=
  let ps := pointRecs x a (mergePoints (sortBy (fun p q => decide (p.b ≤ q.b)) l.pts)) 0
  { bundles := l.bs.map (XBundle.bits starts), points := ps.1, locs := ps.2, vframe := a.vframe, sframe := a.sframe, spills := a.spills,
    vregs := topVec (l.bs.flatMap XBundle.ops), nextB := nextB, specs := a.specs }

/-- The units from the one chosen to the end of its portable course. -/
def toCourseEnd : List XUnit → List XUnit
  | [] => []
  | u :: us => if u.ce then [u] else u :: toCourseEnd us
/-- A resume entry (R247): the instructions from word w to the end of its portable course, under the main entry's allocation, going on in the main entry. -/
def XFn.resumeBody (x : XFn) (a : XAlloc) (main : Layout) (w : Nat) : XBody :=
  let us := (x.units a).filter fun u => !u.pre
  let rest := us.filter fun u => decide (w ≤ u.word)
  let blk := match rest with | u :: _ => u.blk | [] => 0
  let mine := toCourseEnd (rest.filter fun u => u.blk == blk)
  let l := (mine.foldl (Layout.unit a) .empty).close
  let l := if l.out.isEmpty then l else l.mark
  let next := match (us.filter fun u => decide (w ≤ u.word)).drop mine.length with
    | u :: _ => (match main.pts.find? fun p => p.kind.testBit 1 && p.word == u.word && p.blk == u.blk with | some p => p.b | none => 0)
    | [] => 0
  bodyOf x a l main.starts next

/-- The translation of function f under a key: class, effective budget, RESUME (R219, R222). -/
def translate (fns : List Func) (f cls eff resume : Nat) : XBody :=
  let x := xfnOf fns f cls eff
  let a := x.alloc
  let l := x.layout a
  if resume = 0xFFFFFF then bodyOf x a l l.starts 0 else x.resumeBody a l resume

end Sys2Proof.Machine
end

