-- ==== Sys2Proof/Machine/Spindle.lean ====
section
/-! DEFINITION. The Spindle and its translation caches (R218-R230): keys, lookups, claims, entries, eviction, counters, the entry window, the frames of a group (R236, R272) and its entry into a handler (R410). -/

namespace Sys2Proof.Machine

def State.cache (s : State) (c : Nat) : Cache := if c = 0 then s.cache0 else s.cache1
def State.setCache (s : State) (c : Nat) (k : Cache) : State := if c = 0 then { s with cache0 := k } else { s with cache1 := k }

/-- The key of a function for a group (R219). -/
def State.keyOf (s : State) (gid : GId) (g : Group) (f : Nat) (resume : BitVec 24) : XKey :=
  let t := s.team gid.tid
  let l := s.launch t.lid
  { module := s.modOf gid g, func := BitVec.ofNat 16 f, cls := BitVec.ofNat 2 (classOf t.sock),
    eff := BitVec.ofNat 8 (l.eff gid.g t.sock), resume := resume, ver := (s.die t.sock).spnver }

/-- The functions of a key's module. -/
def State.funcsOf (s : State) (h : W64) : List Func := match s.module h with | some m => m.funcs | none => []
/-- What the Spindle writes for a key (R222): a fixed function of the key and the function's words. -/
def State.body (s : State) (key : XKey) : XBody := translate (s.funcsOf key.module) key.func.toNat key.cls.toNat key.eff.toNat key.resume.toNat

/-- The bay of a core: eight cores each (R2, R4). -/
def bayOf (core : Nat) : Nat := core / 8

/-- Counts event n of a bay's Spindle, saturating (R228). -/
def State.spnEvt (s : State) (sock bay n : Nat) : State :=
  let b := s.bay sock bay
  s.setBay sock bay { b with evts := SMap.put 0 b.evts n (satAdd (SMap.get 0 b.evts n) 1) }

/-- What a lookup finds. -/
inductive Look where
  | hit (id : Nat)
  | refused (code off : Nat)
  | miss
  deriving DecidableEq, Repr

/-- A lookup of a key for a group (R218-R221): a hit or refused entry is stamped and counts HIT; a miss counts MISS and claims the key, or joins the claim. A key that the group waited for counts nothing. -/
def State.lookup (s : State) (gid : GId) (g : Group) (key : XKey) : Look × State :=
  let t := s.team gid.tid
  let cls := key.cls.toNat
  let c := s.cache cls
  match c.entries.find? fun e => e.key == key with
  | some e =>
    let c' := { c with entries := c.entries.map (fun x => if x.key == key then { x with last := c.stamp } else x), stamp := c.stamp + 1 }
    let s1 := s.setCache cls c'
    let s2 := if g.got == some key then s1 else s1.spnEvt t.sock (bayOf t.core) 0
    (if e.refused = 0 then .hit e.id else .refused e.refused e.refoff, s2)
  | none =>
    let claims := match c.claims.find? fun k => k.key == key with
      | some _ => c.claims.map (fun k => if k.key == key then { k with waiting := k.waiting ++ [gid] } else k)
      | none => c.claims ++ [⟨key, t.sock, bayOf t.core, [gid], none⟩]
    (.miss, (s.setCache cls { c with claims := claims }).spnEvt t.sock (bayOf t.core) 1)

/-- The group waits for a translation of a key (R221). -/
def State.waitXlat (s : State) (gid : GId) (g : Group) (key : XKey) : State :=
  let s1 := s.setGroup gid { g with status := .xlat, got := some key }
  { s1 with cur := if s1.cur = some gid then none else s1.cur }

/-- The translation fault of a refused entry (R227): code of R404 class 0, DETAIL0 the word offset. -/
def State.xlFault (s : State) (gid : GId) (g : Group) (code off f : Nat) : State :=
  s.stopGroup gid g
    { code := code, reason := 1, lane := noLane, d0 := BitVec.ofNat 64 off, d1 := 0, word := s.pointWord gid g, func := f,
      double := g.inHandler, opn := false }

/-- The record of a main entry's point at which a group resumes at word w (R247). -/
def XBody.resumeAt (x : XBody) (w : Nat) : Option PointRec := x.points.find? fun p => p.word == w && decide (p.kind % 64 / 2 != 0)
/-- Every lookup is made: the group is ready. -/
def State.lookDone (s : State) (gid : GId) (g : Group) : State :=
  s.setGroup gid { g with look := 0, got := none, status := if g.status = .xlat then .ready else g.status }
/-- The lookup of a resume entry (R247): the innermost frame stands inside a native course of its main entry. -/
def State.lookResume (s : State) (gid : GId) (g : Group) (f : Frame) : State :=
  let key := s.keyOf gid g f.func g.nat.resume
  match s.lookup gid g key with
  | (.hit _, s1) => s1.lookDone gid g
  | (.refused code off, s1) => s1.xlFault gid { g with look := 0, got := none } code off f.func
  | (.miss, s1) => s1.waitXlat gid g key
/-- Looks up the functions of a list of frames in order, the innermost last (R218, R247): one that is found is looked up no more, and the group is ready once every one is. Where the innermost main entry has no point at the group's word, a resume entry is looked up as well. -/
def State.lookFrames (s : State) (gid : GId) (g : Group) : List Frame → State
  | [] => s.lookDone gid g
  | f :: fs =>
    if fs.isEmpty && g.nat.resume != noResume then s.lookResume gid g f
    else
      let key := s.keyOf gid g f.func noResume
      match s.lookup gid g key with
      | (.hit _, s1) =>
        let w := s1.pointWord gid g
        if fs.isEmpty && !g.nat.on && ((s1.body key).resumeAt w).isNone
        then s1.lookResume gid { g with look := 1, got := none, nat := { g.nat with resume := BitVec.ofNat 24 w } } f
        else State.lookFrames s1 gid { g with look := fs.length, got := none } fs
      | (.refused code off, s1) => s1.xlFault gid { g with look := 0, got := none } code off f.func
      | (.miss, s1) => s1.waitXlat gid g key

/-- The lookups a group makes when it is placed, or resumes at a Flinal point (R218): those it has still to make, the innermost frame's last (R247). -/
def State.lookGroup (s : State) (gid : GId) : State :=
  match s.group gid with
  | none => s
  | some g => if g.status = .out then s else s.lookFrames gid g (g.frames.take g.look).reverse

-- entries (R220-R224, R227, R242) --------------------------------------------

def granules : Nat := 262144
/-- Granules of an entry of n bytes. -/
def granOf (n : Nat) : Nat := (n + 4095) / 4096

/-- Bytes of an entry: header, bundles, points, locations (R242-R244). -/
def XBody.size (x : XBody) : Nat := 64 + 16 * x.bundles.length + 16 * x.points.length + 8 * x.locs.length

/-- The keys that a list of frames stands in: their main entries, and the resume entry of the innermost. -/
def State.frameKeys (s : State) (gid : GId) (g : Group) (frames : List Frame) (resume : BitVec 24) : List XKey :=
  frames.map (fun f => s.keyOf gid g f.func noResume)
  ++ (match frames with | f :: _ => if resume = noResume then [] else [s.keyOf gid g f.func resume] | [] => [])
/-- The keys a group's current point and return points stand in, those of an interrupted context, which runs its team's module, among them. A group in a resume entry goes on in the main entry, which stays as well (log 10). -/
def State.chainKeys (s : State) (gid : GId) (g : Group) : List XKey :=
  s.frameKeys gid g g.frames g.nat.resume
  ++ (match g.saved with | some c => s.frameKeys gid { g with saved := none } c.frames c.nat.resume | none => [])

/-- Whether a key is mapped through a die's SPN_XLMAP (R230). -/
def State.xlMapped (s : State) (key : XKey) : Bool := s.dies.any fun p => p.2.xlmap == some key
/-- Whether an entry is pinned (R223): a resident group of the class has a point in it, or it is mapped. -/
def State.pinned (s : State) (e : XEntry) : Bool :=
  s.xlMapped e.key || s.teams.any (fun p =>
    classOf p.2.sock == e.key.cls.toNat && (List.range p.2.groups.length).any fun i =>
      match p.2.groups[i]? with
      | none => false
      | some g => g.status != .out && (p.2.state != .saved || g.inHandler) && (s.chainKeys ⟨p.1, i⟩ g).contains e.key)

/-- Whether a run of n granules from b is free of entries. -/
def runFree (es : List XEntry) (b n : Nat) : Bool := es.all fun e => decide (e.start + e.grans ≤ b) || decide (b + n ≤ e.start)
/-- The lowest free run of n granules: it starts at 0 or after an entry (log 10). -/
def findRun (es : List XEntry) (n : Nat) : Option Nat :=
  let starts := 0 :: es.map fun e => e.start + e.grans
  let ok := starts.filter fun b => decide (b + n ≤ granules) && runFree es b n
  ok.foldl (fun m b => match m with | none => some b | some a => some (Nat.min a b)) none

/-- The entry to evict next of a list: oldest lookup, then lower run (R224). -/
def oldest : List XEntry → Option XEntry
  | [] => none
  | e :: es =>
    match oldest es with
    | none => some e
    | some f => if e.last < f.last || (e.last == f.last && e.start < f.start) then some e else some f

/-- Evicts unpinned entries until a run of n granules is free, or none is left (R224): the run, the entries kept, and how many were evicted. -/
def State.makeRoom (s : State) (n : Nat) : Nat → List XEntry → Nat → Option Nat × List XEntry × Nat
  | 0, es, k => (findRun es n, es, k)
  | fuel + 1, es, k =>
    match findRun es n with
    | some b => (some b, es, k)
    | none =>
      match oldest (es.filter fun e => !s.pinned e) with
      | none => (none, es, k)
      | some e => State.makeRoom s n fuel (es.filter fun x => x.id != e.id) (k + 1)

/-- Counts an event k times. -/
def State.spnEvtN (s : State) (sock bay n : Nat) : Nat → State
  | 0 => s
  | k + 1 => State.spnEvtN (s.spnEvt sock bay n) sock bay n k

/-- A group that waited for a translation looks again (R221). -/
def State.resumeXlat (s : State) (gid : GId) : State :=
  match s.group gid with
  | none => s
  | some g =>
    if g.status != .xlat then s
    else if g.look != 0 then s.lookGroup gid
    else s.setGroup gid { g with status := .ready }

/-- A group whose entry has been discarded waits while its key is translated again (R225): no lookup, so no event. -/
def State.waitFetch (s : State) (gid : GId) (g : Group) : State :=
  let t := s.team gid.tid
  let key := s.keyOf gid g g.frame.func g.nat.resume
  let cls := key.cls.toNat
  let c := s.cache cls
  let claims := if c.claims.any (fun k => k.key == key) then c.claims.map (fun k => if k.key == key then { k with waiting := k.waiting ++ [gid] } else k)
    else c.claims ++ [⟨key, t.sock, bayOf t.core, [gid], some g.nat.entry⟩]
  let s1 := (s.setCache cls { c with claims := claims }).setGroup gid { g with status := .xlat }
  { s1 with cur := if s1.cur = some gid then none else s1.cur }

/-- XC_FULL at the instruction that needed the lookup (R220, R224, R408). -/
def State.xcFull (s : State) (size : Nat) (gid : GId) : State :=
  match s.group gid with
  | none => s
  | some g =>
    if g.status != .xlat then s
    else s.raisePoint gid { g with got := none, look := 0 } Code.xcFull noLane 0 (if 256 * 2 ^ 20 < size then 1 else 0)

/-- Writes the entry of a claim (R224, R227, R231), counting the Spindle's events; with no room, or a size past the limit, the waiting groups take XC_FULL. -/
def State.writeEntry (s : State) (cl : Claim) : State :=
  let cls := cl.key.cls.toNat
  let c := s.cache cls
  let c0 := { c with claims := c.claims.filter fun k => k.key != cl.key }
  let fns := s.funcsOf cl.key.module
  let fn := fns[cl.key.func.toNat]?
  let pre := match fn with | some f => f.refused | none => Code.ofXl .ref
  let ref : Option (Nat × Nat) :=
    if pre ≠ 0 then some (pre, 0)
    else (checkFunc fns cl.key.func.toNat).map fun r => (Code.ofXl r.1, r.2)
  let x := s.body cl.key
  let size := if ref.isSome then 64 else x.size
  let spills := ref.isNone && x.spills
  match if 256 * 2 ^ 20 < size then (none, c0.entries, 0) else s.makeRoom (granOf size) c0.entries.length c0.entries 0 with
  | (none, es, evicted) =>
    cl.waiting.foldl (fun st gid => st.xcFull size gid) ((s.setCache cls { c0 with entries := es }).spnEvtN cl.sock cl.bay 6 evicted)
  | (some start, es, evicted) =>
    let all := s.cache0.entries ++ s.cache1.entries
    let pressure := spills && all.any fun x => x.refused == 0 && !x.spills && x.key.module == cl.key.module && x.key.func == cl.key.func
      && x.key.resume == cl.key.resume && x.key.ver == cl.key.ver && (x.key.cls != cl.key.cls || x.key.eff != cl.key.eff)
    let ent : XEntry := { key := cl.key, id := cl.again.getD c.nextId, refused := (ref.getD (0, 0)).1, refoff := (ref.getD (0, 0)).2, spills := spills,
                          start := start, grans := granOf size, last := c.stamp }
    let s1 := s.setCache cls { c0 with entries := es ++ [ent], nextId := if cl.again.isSome then c.nextId else c.nextId + 1, stamp := c.stamp + 1 }
    let s2 := s1.spnEvtN cl.sock cl.bay 6 evicted
    let s3 := s2.spnEvt cl.sock cl.bay 2
    let s4 := if spills then s3.spnEvt cl.sock cl.bay 3 else s3
    let s5 := if pressure then s4.spnEvt cl.sock cl.bay 4 else s4
    let s6 := if cl.key.resume != noResume then s5.spnEvt cl.sock cl.bay 5 else s5
    let s7 := if ref.isSome then s6.spnEvt cl.sock cl.bay 7 else s6
    cl.waiting.foldl (fun st gid => st.resumeXlat gid) s7

/-- TRANSLATION_DONE: the bay's oldest claim is written (R221, R231); a bay with no claim has nothing to do. -/
def execTranslationDone (sock bay : Nat) (s : State) : Host.Outcome State Fault Refusal :=
  .next (match (s.cache (classOf sock)).claims.find? fun k => k.sock == sock && k.bay == bay with
    | some cl => s.writeEntry cl
    | none => s)

/-- Discards entry idx of a cache (R225, R286): EVICT is counted, and the key of a pinned one is translated again, under the same directory index (R222, R283). -/
def State.discardEntry (s : State) (cls idx : Nat) (sock bay : Nat) : State :=
  let c := s.cache cls
  match c.entries.find? fun e => e.id == idx with
  | none => s
  | some e =>
    let s1 := s.setCache cls { c with entries := c.entries.filter fun x => x.id != idx,
                                      claims := if s.pinned e then c.claims ++ [⟨e.key, sock, bay, [], some e.id⟩] else c.claims }
    s1.spnEvt sock bay 6

/-- ENTRY_READ_ERROR (R225): the entry is discarded, even if it is pinned, and its key translated again; the group sees no fault. The bay that fetched is the lowest of the lowest die of the class (log 10). -/
def execEntryReadError (cls : BitVec 1) (idx : Nat) (s : State) : Host.Outcome State Fault Refusal :=
  .next (s.discardEntry cls.toNat idx (if cls = 1 then 0 else 2) 0)

/-- The key in SPN_XLKEY0-3 (R219, R230). -/
def Die.xlKey (d : Die) : XKey :=
  let w (i : Nat) : W32 := SMap.get 0 d.xlkey i
  { module := w 1 ++ w 0, func := (w 2).extractLsb' 0 16, cls := (w 2).extractLsb' 16 2, eff := (w 2).extractLsb' 24 8,
    resume := (w 3).extractLsb' 0 24, ver := (w 3).extractLsb' 24 8 }

/-- XLMAP_MAP (R230): the key that SPN_XLKEY holds is mapped, and its entry pinned. It never translates. -/
def execXlmapMap (sock : Nat) (s : State) : Host.Outcome State Fault Refusal :=
  .next (s.atDie sock <| s.setDie sock { s.die sock with xlmap := some (s.die sock).xlKey })
/-- XLMAP_UNMAP (R230): the key that GO mapped is mapped no more. -/
def execXlmapUnmap (sock : Nat) (s : State) : Host.Outcome State Fault Refusal :=
  .next (s.atDie sock <| s.setDie sock { s.die sock with xlmap := none })
/-- The entry that a die's SPN_XLMAP shows. -/
def State.xlEntry (s : State) (sock : Nat) : Option XEntry :=
  match (s.die sock).xlmap with
  | none => none
  | some key => (s.cache key.cls.toNat).entries.find? fun e => e.key == key

/-- SPN_CACHEn (R229): INUSE, granules pinned and used. -/
def State.spnCache (s : State) (n : Nat) : W64 :=
  let c := s.cache n
  let sum (es : List XEntry) : Nat := (es.map XEntry.grans).foldl (· + ·) 0
  BitVec.ofNat 64 ((if c.inuse then 2 ^ 63 else 0) + sum (c.entries.filter fun e => s.pinned e) % 2 ^ 19 * 2 ^ 32 + sum c.entries % 2 ^ 19)

/-- The header of an entry (R242). -/
def State.entryHeader (s : State) (e : XEntry) : List Byte :=
  let bad := e.refused != 0
  let x := s.body e.key
  let f (n : Nat) : Nat := if bad then 0 else n
  let nb := f x.bundles.length
  let np := f x.points.length
  natLe e.key.module.toNat 8 ++ natLe e.key.func.toNat 2 ++ natLe e.key.cls.toNat 1 ++ natLe e.key.eff.toNat 1 ++ natLe (e.key.resume.toNat + e.key.ver.toNat * 2 ^ 24) 4
  ++ natLe ((if e.spills then 1 else 0) + (if e.key.resume != noResume then 2 else 0) + (if bad then 4 else 0)) 1 ++ natLe 0 1
  ++ natLe e.refused 2 ++ natLe e.refoff 4 ++ natLe nb 4 ++ natLe 64 4 ++ natLe np 4 ++ natLe (64 + 16 * nb) 4 ++ natLe (64 + 16 * nb + 16 * np) 4
  ++ natLe (f x.vframe) 4 ++ natLe (f x.sframe) 4
  ++ natLe (match s.func e.key.module e.key.func.toNat with | some fn => fn.nvals | none => 0) 2 ++ natLe (f x.vregs) 2
  ++ natLe (f x.nextB) 4 ++ natLe 0 4
/-- The bytes of an entry: header, bundles, points, locations. -/
def State.entryBytes (s : State) (e : XEntry) : List Byte :=
  s.entryHeader e ++ (if e.refused = 0 then
    let x := s.body e.key
    x.bundles.flatMap (fun (b : BitVec 128) => natLe b.toNat 16) ++ x.points.flatMap (fun (p : PointRec) => natLe p.bits.toNat 16) ++ x.locs.flatMap (fun (l : BitVec 64) => natLe l.toNat 8)
    else [])

/-- The bytes of the 256 MiB window SPN_XLWIN (R230): those of the mapped entry; bytes beyond it read zero. -/
def State.xlWin (s : State) (sock : Nat) (off n : Nat) : List Byte :=
  let all := match s.xlEntry sock with | none => [] | some e => s.entryBytes e
  (List.range n).map fun i => all.getD (off + i) 0

-- frames and the handler (R236, R272, R410) -----------------------------------

/-- What a group's key gives for a function, with a RESUME. -/
def State.xbody (s : State) (gid : GId) (g : Group) (f : Nat) (resume : BitVec 24) : XBody := s.body (s.keyOf gid g f resume)
/-- The frame bytes of a function under a group's key (R242). -/
def State.frameBytes (s : State) (gid : GId) (g : Group) (f : Nat) : Nat :=
  let x := s.xbody gid g f noResume
  x.vframe + x.sframe

/-- Spill stack bytes of a list of frames: each frame, and 16 link bytes a call (R272). -/
def State.stackBytes (s : State) (gid : GId) (g : Group) : List Frame → Nat
  | [] => 0
  | [f] => s.frameBytes gid g f.func
  | f :: fs => s.frameBytes gid g f.func + 16 + State.stackBytes s gid g fs

/-- The bytes of a trap frame (R410): vector registers up to VREGS, 64 scalars, 16 predicates, the divergence stack with its pending records, and the position. -/
def State.trapFrameBytes (s : State) (gid : GId) (g : Group) : Nat :=
  (s.xbody gid g g.frame.func g.nat.resume).vregs * 128
    + 512 + 64 + 16 * g.div.length + 8 * (g.div.map fun e => e.pending.length).foldl (· + ·) 0 + 8

/-- TAKING AN EXCEPTION (R410): the interrupted context is kept in the trap frame, and the group runs its handler with every lane that has not ended, the record's address its one argument. A frame that does not fit goes to the host with DOUBLE. -/
def State.enterHandler (s : State) (gid : GId) (g : Group) (t : Trap) : State :=
  let tm := s.team gid.tid
  match s.handler tm.job.toNat with
  | none => (s.setGroup gid { g with status := .held, trap := some t }).irq (.trapRecord tm.sock tm.core (s.recIndex gid g))
  | some (_, f) =>
    let base := s.stackBytes gid g g.frames + s.trapFrameBytes gid g + 16
    let ctx : Ctx := Ctx.mk g.frames g.div g.active t (!g.noPoint) g.nat g.waits false g.begun
    let live := ~~~g.ended
    let fr : Frame := Frame.mk f 0 0 [(0, ⟨.ptr, List.replicate 32 (s.recAddr gid g), none⟩)] 0 []
    let g' := { g with status := .ready, active := live, frames := [fr], div := [], saved := some ctx, trap := some t,
                       drained := false, stops := [], begun := false, nat := { NatWin.clear.putScalar 0 (BitVec.ofNat 64 base) with spill := g.nat.spill, poison := g.nat.poison }, waits := .clear }
    if 262144 < base + s.frameBytes gid g' f then
      let t' := { t with double := true }
      (s.setGroup gid { g with status := .held, trap := some t' }).irq (.trapRecord tm.sock tm.core (s.recIndex gid g))
    else s.setGroup gid g'

end Sys2Proof.Machine
end

