-- ==== Sys2Proof/Machine/Control.lean ====
section
/-! DEFINITION. Control and blocks (R131-R143): branches with their arguments, divergence, calls, returns and ends. -/

namespace Sys2Proof.Machine

/-- The arguments in the `args` words before the instruction at the group's point, in word order (R77). -/
def argRunAt (its : List Item) (word : Nat) : List Opnd :=
  argRunOf ((its.filter fun it => decide (it.word < word)).reverse.map Item.instr)

/-- Arguments of some lanes for a block: the lanes, the block, the operands. -/
structure Passed where
  target : Nat
  mask : Mask
  args : List Opnd

/-- Writes one argument value: the lanes' copies, and the mark of a lost operand, which is raised where the argument is first consumed (R239). -/
def Group.setArg (g : Group) (n : Nat) (t : Ty) (m : Mask) (r : Rd) : Group :=
  let g' := g.setVal n t m r.lanes
  match r.lost with
  | none => g'
  | some l =>
    let f := g'.frame
    let v := SMap.get Val.undef f.vals n
    g'.setFrame { f with vals := SMap.put Val.undef f.vals n { v with lost := some l.1 } }

/-- Writes the arguments of a header; the operands are read from the group g0 as it stood before. -/
def passGo (s : State) (gid : GId) (g0 : Group) (m : Mask) : List Opnd → List Ty → Nat → Group → Group
  | o :: os, t :: ts, n, g => passGo s gid g0 m os ts (n + 1) (g.setArg n t m (s.read gid g0 t o))
  | _, _, _, g => g

/-- Passes the arguments of every target that lanes take, read together before any is written. -/
def passArgs (s : State) (gid : GId) (g0 : Group) (bs : List BlockInfo) : List Passed → Group → Group
  | [], g => g
  | p :: ps, g =>
    match bs[p.target]? with
    | some b => passArgs s gid g0 bs ps (if p.mask = 0 then g else passGo s gid g0 p.mask p.args b.tys b.val g)
    | none => passArgs s gid g0 bs ps g

/-- A branch with its parts (R132-R137): DIV_DEPTH before any lane moves, else the arguments pass, the lanes are delivered, and the course ends. -/
def State.branch (s : State) (gid : GId) (g : Group) (parts : List (Nat × Mask)) (args : List Passed) : State :=
  let its := items (s.wordsOf gid g g.frame.func)
  let bs := blocksOf its
  let p := match parts with | [_] => exitP | _ => ipdom (cfg its) g.frame.block
  match deliverParts bs (passArgs s gid g bs args g) parts p with
  | none => s.fail gid g Code.divDepth
  | some (g', true) => (s.setGroup gid g').endCourse gid
  | some (g', false) => (s.runNext gid g').endCourse gid

/-- The operands of a branch: those of the `args` run, then its own (R77). -/
def State.branchOps (s : State) (gid : GId) (g : Group) (own : List Opnd) : List Opnd :=
  argRunAt (items (s.wordsOf gid g g.frame.func)) g.frame.word ++ own

/-- blk (R131) has no effect when it executes: the group stands in its block. -/
def execBlk (_tys : List Ty) (s : State) : Out :=
  withCur s fun gid g =>
    let bs := blocksOf (items (s.wordsOf gid g g.frame.func))
    let b := (bs.findIdx? fun x => x.word == g.frame.word).getD g.frame.block
    s.advance gid (g.setFrame { g.frame with block := b }) false
/-- args (R131) has no effect when it executes. -/
def execArgs (_vals : List Opnd) (s : State) : Out := withCur s fun gid g => s.advance gid g false

/-- br (R132). -/
def execBr (target : BitVec 16) (_n : BitVec 5) (own : List Opnd) (s : State) : Out :=
  withCur s fun gid g =>
    s.branch gid g [(target.toNat, g.active)] [⟨target.toNat, g.active, s.branchOps gid g own⟩]

/-- cbr (R133): each active lane goes by its condition and passes that target's arguments. A lost condition raises DATA_LOSS. -/
def execCbr (c : Opnd) (bt bf : BitVec 16) (t _f : BitVec 5) (own : List Opnd) (s : State) : Out :=
  withCur s fun gid g =>
    let r := s.read gid g .i1 c
    match r.lost with
    | some l => s.dataLoss gid g l
    | none =>
      let mt := maskOf ((lanesOf g.active).filter fun l => (r.lane l).getLsbD 0)
      let mf := g.active &&& ~~~mt
      let ops := s.branchOps gid g own
      let pt : Passed := ⟨bt.toNat, mt, ops.take t.toNat⟩
      let pf : Passed := ⟨bf.toNat, mf, ops.drop t.toNat⟩
      let parts := if bt = bf then [(bt.toNat, g.active)]
                   else [(bt.toNat, mt), (bf.toNat, mf)].filter fun p => p.2 != 0
      s.branch gid g parts [pt, pf]

/-- The parts of a switch: one for each distinct target, in ascending order (R134). -/
def switchParts (targets : List (Nat × Nat)) : List (Nat × Mask) :=
  let ts := sortBy (fun a b => decide (a ≤ b)) (targets.map (·.2)).eraseDups
  ts.map fun t => (t, maskOf ((targets.filter fun p => p.2 == t).map (·.1)))

/-- switch (R134). -/
def execSwitch (sel : Opnd) (dflt base : BitVec 16) (n : BitVec 10) (s : State) : Out :=
  withCur s fun gid g =>
    let r := s.read gid g .i32 sel
    match r.lost with
    | some l => s.dataLoss gid g l
    | none =>
      let tgt (l : Nat) : Nat := if uns 32 (r.lane l) < n.toNat then base.toNat + uns 32 (r.lane l) else dflt.toNat
      s.branch gid g (switchParts ((lanesOf g.active).map fun l => (l, tgt l))) []

/-- The lanes of ret move to the function's exit (R137, R140, R273): they join a top entry whose P is the exit, else the function returns with them. -/
def State.toExit (s : State) (gid : GId) (g : Group) : State :=
  match g.top with
  | some e =>
    if e.p = exitP then (s.runNext gid { g with div := { e with arrived := e.arrived ||| g.active } :: g.div.drop 1 }).endCourse gid
    else (s.runNext gid { g with div := ⟨exitP, g.depth, g.active, []⟩ :: g.div }).endCourse gid
  | none => (s.runNext gid { g with div := ⟨exitP, g.depth, g.active, []⟩ :: g.div }).endCourse gid

/-- Adds a returned value to the frame's results, by lane. -/
def retVal (old : Option Val) (t : Ty) (m : Mask) (r : Rd) : Val :=
  let o := old.getD Val.undef
  ⟨t, mergeLanes m o.lanes r.lanes, (r.lost.map (·.1)).or o.lost⟩

/-- ret without values. -/
def execRet (s : State) : Out := withCur s fun gid g => s.toExit gid g

/-- ret with values (R139, R140): each active lane's values are kept for the caller. -/
def execRetValues (v : Opnd) (w : Option Opnd) (s : State) : Out :=
  withCur s fun gid g =>
    let put (i : Nat) (o : Opnd) : Val :=
      retVal g.frame.rets[i]? (opndTy g .i32 o) g.active (s.read gid g (opndTy g .i32 o) o)
    let rets := put 0 v :: (match w with | some x => [put 1 x] | none => [])
    s.toExit gid (g.setFrame { g.frame with rets := rets })

/-- exit (R141): an ordering point (R162), then the active lanes end. -/
def execExit (s : State) : Out :=
  withCur s fun gid g => s.orderPoint gid g fun s g => (s.runNext gid (g.endLanes g.active)).endCourse gid

/-- unreachable (R142). -/
def execUnreachable (s : State) : Out := withCur s fun gid g => s.fail gid g Code.unreachable

/-- A software trap (R143, R425): code in DETAIL1, and in DETAIL0 the detail of the lowest active lane, which the record then names (log 19). -/
def State.softTrap (s : State) (gid : GId) (g : Group) (code : BitVec 10) (lane : W32) (detail : W64) : State :=
  s.raise gid g Code.trap lane detail (code.setWidth 32)
def execTrap (code : BitVec 10) (s : State) : Out := withCur s fun gid g => s.softTrap gid g code noLane 0
def execTrapDetail (code : BitVec 10) (d : Opnd) (s : State) : Out :=
  withCur s fun gid g =>
    let r := s.read gid g .i32 d
    match r.lost with
    | some l => s.dataLoss gid g l
    | none => s.softTrap gid g code (BitVec.ofNat 32 (lowest g.active)) (maskTy .i32 (r.elect g))

/-- The callee's frame, its arguments read from the caller (R139). -/
def State.calleeFrame (s : State) (gid : GId) (g : Group) (f dest : Nat) (ops : List Opnd) : Frame :=
  let tys := match blocksOf (items (s.wordsOf gid g f)) with | b :: _ => b.tys | [] => []
  let base : Group := { g with frames := [⟨f, 0, 0, [], dest, []⟩] }
  (passGo s gid g g.active ops tys 0 base).frame

/-- call (R139, R218, R236, R272): the callee's entry is looked up, which may wait or fault; its frame must fit the spill stack; then the callee starts with the caller's active lanes. -/
def execCall (_h : Hd) (_two : Bool) (callee : BitVec 16) (_n : BitVec 5) (own : List Opnd) (s : State) : Out :=
  withCur s fun gid g =>
    let f := callee.toNat
    let key := s.keyOf gid g f noResume
    match s.lookup gid g key with
    | (.miss, s1) => s1.waitXlat gid g key
    | (.refused code off, s1) => s1.xlFault gid { g with got := none } code off f
    | (.hit _, s1) =>
      let g1 := { g with got := none }
      if 262144 < (g1.nat.scalar 0).toNat + s1.stackBytes gid g1 g1.frames + 16 + s1.frameBytes gid g1 f then s1.fail gid g1 Code.spillOverflow
      else
        let fr := s1.calleeFrame gid g1 f (s1.defNum gid g1) (s1.branchOps gid g1 own)
        let g2 := { g1.setFrame { g1.frame with word := s1.npc } with frames := fr :: { g1.frame with word := s1.npc } :: g1.frames.drop 1 }
        (s1.setGroup gid g2).endCourse gid

end Sys2Proof.Machine
end

