-- ==== Sys2Proof/Machine/Tensor.lean ====
section
/-! DEFINITION. Tensor shape records (R165-R167), their elements and rows in memory, ranges of bytes in a window or in L2 staging and their checks (R310, R171, R475). -/

namespace Sys2Proof.Machine

/-- A tensor shape record, unpacked (R165). Lists run over dimensions 0 to 4; the stride of dimension 0 is not stored. -/
structure Rec where
  base : W64
  ext : List Nat
  stride : List Nat
  tile : List Nat
  rank : Nat
  slot : Nat
  ovl : Bool
  ro : Bool
  swz : Nat
  clean : Bool     -- the zero bits are zero
  deriving DecidableEq, Repr

def Rec.ofBytes (b : List Byte) : Rec :=
  { base := BitVec.ofNat 64 (fld b 0 8)
    ext := (List.range 5).map fun d => fld b (8 + 4 * d) 4
    stride := 0 :: (List.range 4).map fun d => fld b (28 + 6 * d) 6
    tile := (List.range 5).map fun d => fld b (52 + 2 * d) 2
    rank := fld b 62 1 / 8 % 8
    slot := fld b 62 1 % 8
    ovl := fld b 63 1 / 32 % 2 == 1
    ro := fld b 63 1 / 16 % 2 == 1
    swz := fld b 63 1 % 16
    clean := fld b 62 1 / 64 == 0 && fld b 63 1 / 64 == 0 }

/-- Extent of dimension d: 1 at or above RANK (R166). -/
def Rec.e (r : Rec) (d : Nat) : Nat := if d < r.rank then r.ext.getD d 0 else 1
/-- Tile extent of dimension d. -/
def Rec.t (r : Rec) (d : Nat) : Nat := if d < r.rank then r.tile.getD d 0 else 1
def Rec.st (r : Rec) (d : Nat) : Nat := if d < r.rank then r.stride.getD d 0 else 0

/-- How the elements of a tensor lie in a row (R165): q4 elements by words of 8 in 4 bytes, every other element by itself. -/
structure Elem where
  per : Nat      -- elements of one unit
  bytes : Nat    -- bytes of one unit
  block : Nat    -- the slot's block size
  deriving DecidableEq, Repr
def Slot.elemOf (s : Slot) : Elem :=
  if s.elem = 13 then ⟨8, 4, 8⟩
  else if s.block = 2 then ⟨1, 1, 32⟩
  else ⟨1, Ty.memSize ((tyOfCode s.elem).getD .void), 1⟩
/-- RAW and ROWARG: 4-byte elements (R182). -/
def Elem.raw : Elem := ⟨1, 4, 1⟩
/-- Bytes of n elements of a row. -/
def Elem.size (e : Elem) (n : Nat) : Nat := (n + e.per - 1) / e.per * e.bytes

/-- The row bytes of R165: EXT0 × e, a part of a byte rounded up. -/
def Rec.rowBytes (r : Rec) (e : Elem) : Nat := (r.e 0 * e.bytes + e.per - 1) / e.per

/-- span of R167 for dimensions up to d; an extent of zero takes a stride off. -/
def Rec.span (r : Rec) (e : Elem) : Nat → Int
  | 0 => r.rowBytes e
  | d + 1 => ((r.e (d + 1) : Int) - 1) * r.st (d + 1) + Rec.span r e d

/-- The checks of R167 in their order; org0 is the dimension-0 origin, wr whether the command writes through the record. -/
def Rec.check (r : Rec) (e : Elem) (org0 : Nat) (wr : Bool) : Option Nat :=
  let dims := (List.range 5).filter fun d => decide (1 ≤ d ∧ d < r.rank)
  let upper := (List.range 5).filter fun d => decide (r.rank ≤ d)
  let product := (List.range 5).foldl (fun p d => p * r.e d) 1
  if r.rank = 0 || 5 < r.rank || !r.clean || upper.any (fun d => r.ext.getD d 0 != 0 || r.stride.getD d 0 != 0 || r.tile.getD d 0 != 0)
      || 3 < r.swz || (r.swz != 0 && winOf r.base != .scratch) || (r.ovl && !r.ro) then some Code.tsrForm
  else if 2 ^ 48 ≤ product || (2 ^ 48 : Nat) ≤ r.span e (r.rank - 1) then some Code.tsrRange
  else if r.base.toNat % 16 != 0 || dims.any (fun d => r.st d % 16 != 0) || (r.swz != 0 && r.st 1 % (16 * 2 ^ r.swz) != 0)
      || r.e 0 % e.block != 0 || r.t 0 % e.block != 0 || org0 % e.block != 0 then some Code.tsrAlign
  else if !(r.ro && r.ovl) && dims.any (fun d => decide ((r.st d : Int) < r.span e (d - 1))) then some Code.tsrOverlap
  else if r.ro && wr then some Code.tsrReadonly
  else none

/-- A record that makes its command a no-op (R167). -/
def Rec.empty (r : Rec) : Bool := (List.range 5).any fun d => r.e d == 0 || r.t d == 0

/-- A row of a tensor: indices of dimensions 1 to 4. -/
structure Row where
  i1 : Nat
  i2 : Nat
  i3 : Nat
  i4 : Nat
  deriving DecidableEq, Repr

/-- The row index r of R166. -/
def Rec.rowIndex (r : Rec) (w : Row) : Nat := w.i1 + r.e 1 * (w.i2 + r.e 2 * (w.i3 + r.e 3 * w.i4))
/-- Byte offset of a row from BASE. -/
def Rec.rowOff (r : Rec) (w : Row) : Nat := w.i1 * r.st 1 + w.i2 * r.st 2 + w.i3 * r.st 3 + w.i4 * r.st 4
/-- Whether a row lies within the extents. -/
def Rec.has (r : Rec) (w : Row) : Bool := decide (w.i1 < r.e 1 ∧ w.i2 < r.e 2 ∧ w.i3 < r.e 3 ∧ w.i4 < r.e 4)

/-- Origin of dimension d. -/
def orgOf (org : List Nat) (d : Nat) : Nat := org.getD d 0

/-- The rows of a tile in ascending row index, absent ones included. -/
def Rec.tileRows (r : Rec) (org : List Nat) : List Row :=
  (List.range (r.t 4)).flatMap fun a => (List.range (r.t 3)).flatMap fun b => (List.range (r.t 2)).flatMap fun c =>
    (List.range (r.t 1)).map fun d => Row.mk (orgOf org 1 + d) (orgOf org 2 + c) (orgOf org 3 + b) (orgOf org 4 + a)

/-- Where a byte of a row lies, with the scratch swizzle (R166). -/
def Rec.byteAddr (r : Rec) (w : Row) (x : Nat) : W64 :=
  let y := if r.swz = 0 then x else (x / 16 ^^^ (r.rowIndex w % 2 ^ r.swz)) * 16 + x % 16
  r.base + BitVec.ofNat 64 (r.rowOff w + y)

/-- A run of bytes to check: address and length. -/
abbrev Seg := W64 × Nat

/-- The bytes a tile touches in a row: n bytes from x, one run, or one for each 16-byte chunk under a swizzle. -/
def Rec.rowSegs (r : Rec) (w : Row) (x n : Nat) : List Seg :=
  if n = 0 then []
  else if r.swz = 0 then [(r.byteAddr w x, n)]
  else (List.range ((x + n - 1) / 16 - x / 16 + 1)).map fun i =>
    let lo := Nat.max x ((x / 16 + i) * 16)
    let hi := Nat.min (x + n) ((x / 16 + i + 1) * 16)
    (r.byteAddr w lo, hi - lo)

/-- Elements of a tile's row that lie within EXT0. -/
def Rec.present (r : Rec) (org : List Nat) : Nat := Nat.min (r.t 0) (r.e 0 - orgOf org 0)

/-- The runs of a tile's present rows, with each row's index (R171). -/
def Rec.segs (r : Rec) (e : Elem) (org : List Nat) : List (Nat × Seg) :=
  ((r.tileRows org).filter r.has).flatMap fun w =>
    (r.rowSegs w (e.size (orgOf org 0)) (e.size (r.present org))).map fun g => (r.rowIndex w, g)

-- staging (R310) -------------------------------------------------------------

/-- Whether n bytes at a staging address lie within one window of a job on a die. -/
def State.stageOk (s : State) (sock job a n : Nat) : Bool :=
  let slice := a / 2 ^ 23 % 16
  let off := a % 2 ^ 23
  decide (a < 2 ^ 27) && (s.die sock).wins.any fun p =>
    let w := p.2.reg.toNat
    !p.2.zeroing && w / 2 ^ 63 == 1 && fieldNat w 59 48 == job && fieldNat w 47 44 == slice
      && decide (fieldNat w 11 0 * 4096 ≤ off ∧ off + n ≤ (fieldNat w 11 0 + fieldNat w 27 16) * 4096)
def State.stageBytes (s : State) (sock a n : Nat) : List Byte := SMap.bytes (s.die sock).staging a n
def State.putStage (s : State) (sock a : Nat) (bs : List Byte) : State :=
  let d := s.die sock
  s.setDie sock { d with staging := SMap.putBytes d.staging a bs }

-- checks of runs of bytes ----------------------------------------------------

/-- The outcome of a check of runs: the address that fails with it. -/
inductive SegChk where
  | ok | wait (a : W64) | fault (code : Nat) (a : W64) (row : Nat)
  deriving DecidableEq, Repr

/-- The first address of a list of pages that does not translate. -/
def State.segPages (s : State) (job : Nat) (acc : Acc) (peerOk : Bool) (row : Nat) : List Nat → SegChk
  | [] => .ok
  | va :: rest =>
    match s.walk job acc va with
    | .ok _ => State.segPages s job acc peerOk row rest
    | .wait => .wait (BitVec.ofNat 64 va)
    | .peer _ _ => if peerOk then State.segPages s job acc peerOk row rest else .fault Code.peerAccess (BitVec.ofNat 64 va) row
    | .fault c => .fault c (BitVec.ofNat 64 va) row

/-- Checks 1-8 of R147 for a run of bytes. -/
def State.checkSeg (s : State) (w : Who) (acc : Acc) (peerOk : Bool) (row align : Nat) (g : Seg) : SegChk :=
  match s.check14 w acc g.1 g.2 align with
  | some c => .fault c g.1 row
  | none => if winOf g.1 = .global then s.segPages w.job acc peerOk row (pagesOf g.1.toNat g.2) else .ok

/-- The first run of a list that fails. -/
def State.checkSegs (s : State) (w : Who) (acc : Acc) (peerOk : Bool) : List (Nat × Seg) → SegChk
  | [] => .ok
  | (row, g) :: rest =>
    match s.checkSeg w acc peerOk row 1 g with
    | .ok => State.checkSegs s w acc peerOk rest
    | r => r

/-- Whether a run touches a peer page, and its link. -/
def State.peerOf (s : State) (w : Who) (acc : Acc) (g : Seg) : Option Nat :=
  if winOf g.1 != .global then none
  else (pagesOf g.1.toNat (Nat.max g.2 1)).foldl (fun r va => match r with
    | some l => some l
    | none => match s.walk w.job acc va with | .peer _ l => some l | _ => none) none

/-- Whether a run in scratch breaches a phase (R374). -/
def State.segBreach (s : State) (tid : Nat) (phase : Option Nat) (acc : Acc) (g : Seg) : Bool :=
  winOf g.1 == .scratch && s.breach tid phase acc (offOf g.1) g.2

/-- The addresses in the global window of a list of runs, one a page, for the arbiter (R324). -/
def segVas (gs : List Seg) : List Nat := (gs.filter fun g => winOf g.1 == .global).flatMap fun g => pagesOf g.1.toNat g.2

/-- The bytes of a row of a tile: x is the byte offset in the row; absent elements are zero bytes (R332). -/
def State.rowBytes (s : State) (w : Who) (r : Rec) (row : Row) (x : Nat) : Nat → List Byte
  | 0 => []
  | n + 1 => s.byteAt w (r.byteAddr row x) :: State.rowBytes s w r row (x + 1) n

/-- Where byte rel of a tile's row lies; none where it is absent (R167). -/
def Rec.place (r : Rec) (e : Elem) (org : List Nat) (row : Row) (rel : Nat) : Option W64 :=
  if r.has row && decide (rel < e.size (r.present org)) then some (r.byteAddr row (e.size (orgOf org 0) + rel)) else none
/-- The places of a tile's bytes in row-major order (R179, R342). -/
def Rec.places (r : Rec) (e : Elem) (org : List Nat) : List (Option W64) :=
  (r.tileRows org).flatMap fun row => (List.range (e.size (r.t 0))).map fun rel => r.place e org row rel

/-- Writes the present bytes of a tile from row-major bytes. -/
def State.putRow (s : State) (w : Who) (r : Rec) (row : Row) (x : Nat) : List Byte → State
  | [] => s
  | b :: bs => State.putRow (s.putByte w (r.byteAddr row x) b) w r row (x + 1) bs

end Sys2Proof.Machine
end

