-- ==== Sys2Proof/Machine/Sync.lean ====
section
/-! DEFINITION. Handles (R32), barriers (R361-R369), timed waits (R371), byte-count barriers (R337-R339), spools (R345, R346), deterministic phases (R372, R373). Each instruction acts once for the group on the elected lane's operands (R330, R362). -/

namespace Sys2Proof.Machine

-- handles (R32): bits [63:56] the kind, bits [31:0] the index (log 7) ---------

/-- The kinds of handle. -/
def hndToken : Nat := 1
def hndStream : Nat := 2
def hndSpool : Nat := 3
def mkHnd (kind i : Nat) : W64 := BitVec.ofNat 64 (kind * 2 ^ 56 + i % 2 ^ 32)

/-- What a handle given to a consumer of one kind names: a retired token is stale for any (R172), another kind raises HND_KIND (R32), else the object's index. -/
def State.hndCheck (s : State) (tid kind : Nat) (a : W64) : Except Nat Nat :=
  let i := a.toNat % 2 ^ 32
  let retired := match (s.team tid).toks[i]? with | some k => k.retired | none => false
  if a.toNat / 2 ^ 56 = hndToken ∧ retired = true then .error Code.hndStale
  else if a.toNat / 2 ^ 56 = kind then .ok i else .error Code.hndKind

/-- Reads operands once for the group, from the elected lane; a lost one raises DATA_LOSS. -/
def State.elect (s : State) (gid : GId) (g : Group) (ins : List (Ty × Opnd)) (k : List Lane → State) : State :=
  let rs := ins.map fun i => s.read gid g i.1 i.2
  match lostOf rs with
  | some l => s.dataLoss gid g l
  | none => k (rs.map fun r => r.elect g)

/-- Delivers one result to every active lane. -/
def State.deliver (s : State) (gid : GId) (g : Group) (h : Hd) (x : Lane) : State :=
  s.finish gid g h g.active [(h.ty, List.replicate 32 x)] 0

/-- Replaces a barrier or spool of a team. -/
def State.setBar (s : State) (tid i : Nat) (b : Bar) : State := let t := s.team tid; s.setTeam tid { t with bars := setAt t.bars i b }
def State.setSpool (s : State) (tid i : Nat) (p : Spool) : State := let t := s.team tid; s.setTeam tid { t with spools := setAt t.spools i p }
def State.barOf (s : State) (tid i : Nat) : Bar := (s.team tid).bars.getD i .reset

-- waits ----------------------------------------------------------------------

/-- Cycles of the bay clock where a group is resident (R371). -/
def State.bayNow (s : State) (gid : GId) : Nat := let t := s.team gid.tid; (s.bay t.sock (bayOf t.core)).cycles.toNat

/-- A timed wait whose condition does not hold (R371): it delivers 0 once its limit of bay cycles has passed, and parks until then. -/
def State.timedWait (s : State) (gid : GId) (g : Group) (h : Hd) (lim : W64) : State :=
  let start := match g.waits.tstart with | some t => t | none => (s.bayNow gid, lim.toNat)
  if start.1 + start.2 ≤ s.bayNow gid then s.deliver gid { g with waits := { g.waits with tstart := none } } h 0
  else s.park gid { g with waits := { g.waits with tstart := some start } }
/-- A timed wait whose condition holds delivers 1. -/
def State.timedDone (s : State) (gid : GId) (g : Group) (h : Hd) : State :=
  s.deliver gid { g with waits := { g.waits with tstart := none } } h 1

/-- The bay clock reaches a cycle. -/
def State.bayReach (s : State) (sock bay n : Nat) : State :=
  let b := s.bay sock bay
  s.setBay sock bay { b with cycles := BitVec.ofNat 64 (Nat.max b.cycles.toNat n) }
/-- TIMED_WAIT_EXPIRY (R371): the bay clock of a group that stands in a timed wait reaches the wait's limit, and the wait is tested again. -/
def execTimedWaitExpiry (gid : GId) (s : State) : Out :=
  .next (match s.group gid with
    | none => s
    | some g =>
      match g.waits.tstart with
      | none => s
      | some st =>
        if g.status != .wait then s
        else
          let t := s.team gid.tid
          (s.setGroup gid { g with status := .ready }).bayReach t.sock (bayOf t.core) (st.1 + st.2))

-- barriers (R361-R368) -------------------------------------------------------

/-- Whether phase p of a barrier is complete (R364). -/
def Bar.complete (b : Bar) (p : W32) : Bool := decide (1 ≤ (b.c - p).toNat ∧ (b.c - p).toNat < 2 ^ 31)

/-- The checks of R363, in order. -/
def State.barCheck (s : State) (gid : GId) (g : Group) (i : Nat) (lm gm : W32) : Option Nat :=
  let b := s.barOf gid.tid i
  let n := (s.team gid.tid).groups.length
  let m := gm.extractLsb' 0 16
  if gm.extractLsb' 16 15 != 0 || decide (2 ^ n ≤ m.toNat) || !m.getLsbD gid.g then some Code.barrierMask
  else if lm &&& ~~~g.ended != g.active then some Code.barrierMask
  else if b.opn && (b.arrived.getLsbD gid.g || b.sent) then some Code.barrierAgain
  else if b.opn && (b.m != m || b.d != gm.getLsbD 31) then some Code.barrierMask
  else none

/-- The group's number is set in a set of groups. -/
def withBit (m : BitVec 16) (g : Nat) : BitVec 16 := m ||| ((1 : BitVec 16) <<< g)

/-- Applies an arrival (R364) and completes the phase if it was the last; the answer is the phase. -/
def State.arrive (s : State) (gid : GId) (i : Nat) (gm : W32) : State :=
  let b := s.barOf gid.tid i
  let b0 := if b.opn then b else { b with opn := true, m := gm.extractLsb' 0 16, arrived := 0, d := gm.getLsbD 31, order := [], sent := false }
  let b1 := { b0 with arrived := withBit b0.arrived gid.g, order := gid.g :: b0.order,
                      last := (gid.g, b0.c) :: b0.last.filter fun p => p.1 != gid.g }
  let t := s.team gid.tid
  ((s.setBar gid.tid i b1).barSettle gid.tid i).dieSettle t.lid t.sock

/-- An arrival by bar or bar.arrive: an ordering point, then the checks, then k with the masks. -/
def State.arrival (s : State) (gid : GId) (g : Group) (lm gm : Opnd) (i : Nat) (k : State → Group → W32 → State) : State :=
  s.orderPoint gid g fun s g => s.elect gid g [(.i32, lm), (.i32, gm)] fun xs =>
    let l := (xs.getD 0 0).setWidth 32
    let m := (xs.getD 1 0).setWidth 32
    match s.barCheck gid g i l m with
    | some c => s.fail gid g c
    | none => k s g m

/-- A bar stands at its WAIT point until its phase is complete, then delivers the keystone flag (R364, R367). -/
def State.barReturn (s : State) (gid : GId) (g : Group) (h : Hd) (w : BarWait) : State :=
  if (s.barOf gid.tid w.bar).complete w.phase then
    s.deliver gid { g with waits := { g.waits with bar := none } } h (if w.key then 1 else 0)
  else s.park gid g

/-- bar (R362-R367): it arrives once, and waits for its phase. -/
def execBar (h : Hd) (b : BitVec 4) (lm gm : Opnd) (s : State) : Out :=
  withCur s fun gid g =>
    match g.waits.bar with
    | some w => s.barReturn gid g h w
    | none =>
      s.arrival gid g lm gm b.toNat fun s g m =>
        let w : BarWait := ⟨b.toNat, (s.barOf gid.tid b.toNat).c, false, false⟩
        let s1 := (s.setGroup gid { g with waits := { g.waits with bar := some w } }).arrive gid b.toNat m
        let g1 := (s1.group gid).getD g
        s1.barReturn gid g1 h (g1.waits.bar.getD w)

/-- bar.arrive: arrives and delivers the phase. -/
def execBarArrive (h : Hd) (b : BitVec 4) (lm gm : Opnd) (s : State) : Out :=
  withCur s fun gid g => s.arrival gid g lm gm b.toNat fun s g m =>
    let ph := (s.barOf gid.tid b.toNat).c
    let s1 := s.arrive gid b.toNat m
    s1.deliver gid ((s1.group gid).getD g) h (ph.setWidth 64)

/-- bar.wait (R368). -/
def execBarWait (b : BitVec 4) (ph : Opnd) (s : State) : Out :=
  withCur s fun gid g => s.elect gid g [(.i32, ph)] fun xs =>
    if (s.barOf gid.tid b.toNat).complete ((xs.getD 0 0).setWidth 32) then s.advance gid g true else s.park gid g
def execBarWaitTimed (h : Hd) (b : BitVec 4) (ph lim : Opnd) (s : State) : Out :=
  withCur s fun gid g => s.elect gid g [(.i32, ph), (.i64, lim)] fun xs =>
    if (s.barOf gid.tid b.toNat).complete ((xs.getD 0 0).setWidth 32) then s.timedDone gid g h else s.timedWait gid g h (xs.getD 1 0)

-- byte-count barriers (R337-R339) --------------------------------------------

/-- Whether a pointer names a byte-count barrier of a team (R337). -/
def State.xbOk (s : State) (tid : Nat) (a : W64) : Bool :=
  winOf a == .scratch && a.toNat % 16 == 0 && decide (offOf a + 16 ≤ (s.launch (s.team tid).lid).scratch)
/-- A 32-bit field of scratch. -/
def Team.word (t : Team) (off : Nat) : W32 := BitVec.ofNat 32 (leNat (SMap.bytes t.scratch off 4))
def Team.setWord (t : Team) (off : Nat) (x : W32) : Team := { t with scratch := SMap.putBytes t.scratch off (natLe x.toNat 4) }

/-- EXPECT changes by n; at 0 DONE counts up (R338). -/
def Team.xbAdd (t : Team) (off : Nat) (n : W32) : Team :=
  let e := t.word off + n
  let t1 := t.setWord off e
  if e = 0 then t1.setWord (off + 4) (t1.word (off + 4) + 1) else t1
/-- k bytes arrive on the object at xb; 0 names none. -/
def State.xbArrive (s : State) (tid : Nat) (xb : W64) (k : Nat) : State :=
  if xb = 0 then s else s.setTeam tid ((s.team tid).xbAdd (offOf xb) (0 - BitVec.ofNat 32 k))
/-- ERR is set when it is 0 (R340, R389). -/
def State.xbFail (s : State) (tid : Nat) (xb : W64) (err : Nat) : State :=
  let t := s.team tid
  if t.word (offOf xb + 8) = 0 then s.setTeam tid (t.setWord (offOf xb + 8) (BitVec.ofNat 32 err)) else s

/-- The codes that ERR names, from 1 (R340). -/
def errCodes : List Nat :=
  [Code.hodForm, Code.xbWindow, Code.stageRange, Code.tsrForm, Code.tsrRange, Code.tsrAlign, Code.tsrOverlap, Code.tsrReadonly, Code.hodOverlap,
   Code.addrWindow, Code.addrRange, Code.addrWrite, Code.spillAccess, Code.pagePerm, Code.peerLink, Code.dataLoss, Code.rwsetOutside, Code.reelNokey]
/-- The ERR value of a code. -/
def errOf (code : Nat) : Nat := match errCodes.findIdx? (· == code) with | some i => i + 1 | none => 1

/-- The operations that counted on an object join at a wait that returns on it (R339, R372). -/
def State.xbJoin (s : State) (tid : Nat) (a : W64) : State :=
  let t := s.team tid
  s.setTeam tid { t with copies := t.copies.map (fun c => if !c.live && !c.held && fld c.req 24 8 == a.toNat then { c with joined := true } else c),
                         toks := t.toks.map (fun k => if k.done && k.xb == a then { k with joined := true } else k),
                         phased := t.phased.filter fun o => o.req.isSome || o.xb != a }

/-- An xb instruction on a good pointer (R337). -/
def State.withXb (s : State) (gid : GId) (g : Group) (a : W64) (k : Nat → State) : State :=
  if s.xbOk gid.tid a then k (offOf a) else s.fail gid g Code.xbWindow

def execXbInit (h : Hd) (p n : Opnd) (s : State) : Out :=
  withCur s fun gid g => s.elect gid g [(.ptr, p), (.i32, n)] fun xs => s.withXb gid g (xs.getD 0 0) fun off =>
    let t := s.team gid.tid
    (s.setTeam gid.tid (((t.setWord off ((xs.getD 1 0).setWidth 32)).setWord (off + 4) 0).setWord (off + 8) 0)).advance gid g h.ce
def execXbExpect (h : Hd) (p n : Opnd) (s : State) : Out :=
  withCur s fun gid g => s.elect gid g [(.ptr, p), (.i32, n)] fun xs => s.withXb gid g (xs.getD 0 0) fun off =>
    (s.setTeam gid.tid ((s.team gid.tid).xbAdd off ((xs.getD 1 0).setWidth 32))).advance gid g h.ce

/-- The fault that a nonzero ERR names at an xb.wait (R339). -/
def State.xbErr (s : State) (gid : GId) (g : Group) (err : W32) : State :=
  match errCodes[err.toNat - 1]? with
  | some c => if c = Code.xbWindow then s.raise gid g c noLane 0 err else s.fail gid g c
  | none => s.raise gid g Code.xbWindow noLane 0 err

/-- xb.wait (R339): done returns, wait parks. -/
def State.xbWaitOn (s : State) (gid : GId) (g : Group) (a : W64) (done wait : State → State) : State :=
  s.withXb gid g a fun off =>
    let t := s.team gid.tid
    if t.word (off + 8) != 0 then s.xbErr gid g (t.word (off + 8))
    else if t.word off = 0 then done (s.xbJoin gid.tid a)
    else wait s
def execXbWait (p : Opnd) (s : State) : Out :=
  withCur s fun gid g => s.elect gid g [(.ptr, p)] fun xs =>
    s.xbWaitOn gid g (xs.getD 0 0) (fun s => s.advance gid g true) (fun s => s.park gid g)
def execXbWaitTimed (h : Hd) (p lim : Opnd) (s : State) : Out :=
  withCur s fun gid g => s.elect gid g [(.ptr, p), (.i64, lim)] fun xs =>
    s.xbWaitOn gid g (xs.getD 0 0) (fun s => s.timedDone gid g h) (fun s => s.timedWait gid g h (xs.getD 1 0))

-- spools (R345, R346) --------------------------------------------------------

/-- The scratch pointer of slot k. -/
def Spool.slot (p : Spool) (k : W32) : W64 := BitVec.ofNat 64 (0xFE * 2 ^ 56 + p.base + k.toNat % p.n * p.b)
/-- Whether a slot can be claimed. -/
def Spool.hasFree (p : Spool) : Bool := decide ((p.claim - p.head).toNat < p.n)
/-- The counts from lo up to hi. -/
def countsFrom (lo hi : W32) : List W32 := (List.range (hi - lo).toNat).map fun i => lo + BitVec.ofNat 32 i
/-- How many counts from c on are marked, in a row. -/
def runLen (marks : List W32) (c : W32) : Nat → Nat
  | 0 => 0
  | n + 1 => if marks.contains c then runLen marks (c + 1) n + 1 else 0
/-- Advances a prefix count over its marks, which are used up. -/
def advanceOver (marks : List W32) (c : W32) : W32 × List W32 :=
  let n := runLen marks c marks.length
  (c + BitVec.ofNat 32 n, marks.filter fun m => decide (n ≤ (m - c).toNat))
/-- Marks count k filled and advances TAIL. -/
def Spool.commit (p : Spool) (k : W32) : Spool := let r := advanceOver (k :: p.filled) p.tail; { p with tail := r.1, filled := r.2 }
/-- Marks count k free and advances HEAD. -/
def Spool.release (p : Spool) (k : W32) : Spool := let r := advanceOver (k :: p.freed) p.head; { p with head := r.1, freed := r.2 }

/-- A spool handle read for the group (R32). -/
def State.withSpool (s : State) (gid : GId) (g : Group) (a : W64) (k : Nat → Spool → State) : State :=
  match s.hndCheck gid.tid hndSpool a with
  | .error c => s.fail gid g c
  | .ok i => match (s.team gid.tid).spools[i]? with
    | some p => k i p
    | none => s.fail gid g Code.hndStale

def execSpoolClaim (h : Hd) (sp : Opnd) (s : State) : Out :=
  withCur s fun gid g => s.elect gid g [(.hnd, sp)] fun xs => s.withSpool gid g (xs.getD 0 0) fun i p =>
    if p.hasFree then (s.setSpool gid.tid i { p with claim := p.claim + 1 }).deliver gid g h (p.slot p.claim)
    else s.deliver gid g h 0
def execSpoolCommit (h : Hd) (sp p : Opnd) (s : State) : Out :=
  withCur s fun gid g => s.afterReds gid g (fun _ => true) fun s g => s.elect gid g [(.hnd, sp), (.ptr, p)] fun xs =>
    s.withSpool gid g (xs.getD 0 0) fun i q =>
      match (countsFrom q.tail q.claim).find? fun k => q.slot k == xs.getD 1 0 && !q.filled.contains k with
      | some k => (s.setSpool gid.tid i (q.commit k)).advance gid g h.ce
      | none => s.fail gid g Code.spoolSlot
def execSpoolWaitfilled (h : Hd) (sp : Opnd) (s : State) : Out :=
  withCur s fun gid g => s.elect gid g [(.hnd, sp)] fun xs => s.withSpool gid g (xs.getD 0 0) fun i p =>
    if p.take = p.tail then s.park gid g
    else (s.setSpool gid.tid i { p with take := p.take + 1 }).deliver gid g h (p.slot p.take)
def execSpoolRelease (h : Hd) (sp p : Opnd) (s : State) : Out :=
  withCur s fun gid g => s.afterReds gid g (fun _ => true) fun s g => s.elect gid g [(.hnd, sp), (.ptr, p)] fun xs =>
    s.withSpool gid g (xs.getD 0 0) fun i q =>
      match (countsFrom q.head q.take).find? fun k => q.slot k == xs.getD 1 0 && !q.freed.contains k with
      | some k => (s.setSpool gid.tid i (q.release k)).advance gid g h.ce
      | none => s.fail gid g Code.spoolSlot
def execSpoolWaitfree (sp : Opnd) (s : State) : Out :=
  withCur s fun gid g => s.elect gid g [(.hnd, sp)] fun xs => s.withSpool gid g (xs.getD 0 0) fun _ p =>
    if p.hasFree then s.advance gid g true else s.park gid g

-- deterministic phases (R372, R373) ------------------------------------------

/-- Whether a copy holds its phase (R372): until it joins, a bound one also until its last bytes have been taken. -/
def Team.holds (t : Team) (c : Copy) : Bool :=
  !c.joined && (match c.kind with
    | .stream x => (match t.streams[x]? with | some st => decide (st.taken < st.len) | .none => false)
    | _ => true)
/-- The group's current phase is held by an operation that no wait on an object joins, or by an alight (R372). -/
def State.holdPhase (s : State) (tid : Nat) (p : Option Nat) (req : Option Nat) (xb : W64) : State :=
  match p with
  | none => s
  | some p => let t := s.team tid; s.setTeam tid { t with phased := (t.phased.filter (· != ⟨req, xb, p⟩)) ++ [⟨req, xb, p⟩] }
/-- The phases that a team's other holders hold: other groups, unfetched kicks, and engine operations not joined. -/
def Team.phasesHeld (t : Team) (g : Nat) : List Nat :=
  ((List.range t.groups.length).filterMap fun i => if i = g then .none else match t.groups[i]? with | some x => if x.status = .out then .none else x.phase | .none => .none)
  ++ (t.hod0.kicks ++ t.hod1.kicks).filterMap (·.phase)
  ++ (t.copies.filter t.holds).filterMap (·.phase)
  ++ (t.toks.filter fun k => !k.joined).filterMap (·.phase)
  ++ t.phased.map (·.phase)
/-- Whether two lists of ranges share a byte. -/
def meets (a b : List (Nat × Nat)) : Bool := a.any fun x => b.any fun y => decide (Nat.max x.1 y.1 < Nat.min x.2 y.2)
/-- Whether two phases conflict (R373). -/
def State.conflict (s : State) (tid p q : Nat) : Bool :=
  let rd (x : Nat) := s.rwRanges tid x 0
  let wr (x : Nat) := s.rwRanges tid x 1
  p != q && (meets (wr p) (rd q) || meets (wr p) (wr q) || meets (wr q) (rd p))
/-- phase.decl (R372): no effect in a launch that is not phase-checked. -/
def execPhaseDecl (p : BitVec 4) (s : State) : Out :=
  withCur s fun gid g =>
    if !(s.launch (s.team gid.tid).lid).phased then s.advance gid g true
    else if ((s.team gid.tid).phasesHeld gid.g).any fun q => s.conflict gid.tid p.toNat q then s.fail gid g Code.rwsetOverlap
    else s.advance gid { g with phase := some p.toNat } true

end Sys2Proof.Machine
end

