-- ==== Sys2Proof/Machine/Hod.lean ====
section
/-! DEFINITION. The Hod copy engines (R331-R344): requests and their checks, the request rings, copies by chunks, failures, stream values, peer transfers; the FIFO granules of the core store (R302); emit (R128-R130). A byte of a peer package reads as a free value (log 21). -/

namespace Sys2Proof.Machine

-- core-store banks (R302) ----------------------------------------------------

/-- Store banks of a core (R302). -/
def storeBanks (sock : Nat) : Nat := if sock < 2 then 48 else 32
/-- A bank at reset: scratchpad, the two highest FIFO. -/
def bankReset (sock n : Nat) : StoreBank := if storeBanks sock ≤ n + 2 then ⟨false, 2, 2⟩ else ⟨false, 1, 1⟩
def Core.store (c : Core) (sock n : Nat) : StoreBank := SMap.get (bankReset sock n) c.cfg n
def Core.setStore (c : Core) (sock n : Nat) (b : StoreBank) : Core := { c with cfg := SMap.put (bankReset sock n) c.cfg n b }

/-- The teams that hold something of a core. -/
def State.teamsOn (s : State) (sock core : Nat) : List (Nat × Team) :=
  s.teams.filter fun p => p.2.sock == sock && p.2.core == core && p.2.state != .saved && p.2.state != .done

/-- Whether a stream still holds its granule and its place in flight (R335, R342). -/
def Stream.inUse (x : Stream) : Bool := decide (x.taken < x.len)
/-- Granules of store bank n that queues hold. -/
def State.fifoUse (s : State) (sock core n : Nat) : Nat :=
  (s.teamsOn sock core).foldl (fun k p => k + (p.2.streams.filter fun x => x.inUse && x.bank == n).length + p.2.emitBanks.count n) 0
/-- Granules of store bank n that teams hold. -/
def State.scratchUse (s : State) (sock core n : Nat) : Nat :=
  (s.teamsOn sock core).foldl (fun k p => k + ((p.2.grans.filter fun x => x.1 == n).map (·.2)).foldl (· + ·) 0) 0
/-- GRAN of CST_BANKCFG_n (R302). -/
def State.granUse (s : State) (sock core n : Nat) : Nat := s.fifoUse sock core n + s.scratchUse sock core n
/-- The free granules of FIFO-mode banks not leaving their mode, each by its bank, lowest first. -/
def State.fifoFree (s : State) (sock core : Nat) : List Nat :=
  (List.range (storeBanks sock)).flatMap fun n =>
    let b := (s.core sock core).store sock n
    if b.cur == 2 && !b.pend then List.replicate (8 - s.fifoUse sock core n) n else []
/-- The bank of the lowest free granule. -/
def State.freeFifo (s : State) (sock core : Nat) : Option Nat := (s.fifoFree sock core).head?

-- requests in flight (R335) --------------------------------------------------

/-- HOD_INFLIGHT of a core. -/
def State.inflight (s : State) (sock core : Nat) : Nat :=
  (s.teamsOn sock core).foldl (fun k p =>
    k + (p.2.copies.filter fun c => c.live && (match c.kind with | .stream _ => false | _ => true)).length
      + (p.2.streams.filter Stream.inUse).length) 0

-- the checks of R333 ---------------------------------------------------------

/-- How a request reaches its engine. -/
inductive HodMode where
  | kick | bind | put | get
  deriving DecidableEq, Repr

/-- What an issued request does: the runs it reads and writes with their row indices, its records, its bytes as a stream, its destination chunks. -/
structure Plan where
  recS : List Byte
  recD : List Byte
  src : List (Nat × Seg)
  dst : List (Nat × Seg)
  len : Nat
  chunks : List Nat

/-- The outcome of an issue: a wait or a page miss may hold a kicked request (R340). -/
inductive HodRes where
  | ok (p : Plan) | wait (a : W64) | fault (code : Nat) (a : W64)

def opc (r : List Byte) : Nat := fld r 0 1
def reqSstg (r : List Byte) : Bool := fld r 1 1 % 2 == 1
def reqDstg (r : List Byte) : Bool := fld r 1 1 / 2 % 2 == 1
def reqSemit (r : List Byte) : Bool := fld r 1 1 / 4 % 2 == 1
def reqLen (r : List Byte) : Nat := fld r 4 4
def reqSrc (r : List Byte) : W64 := BitVec.ofNat 64 (fld r 8 8)
def reqDst (r : List Byte) : W64 := BitVec.ofNat 64 (fld r 16 8)
def reqXb (r : List Byte) : W64 := BitVec.ofNat 64 (fld r 24 8)
def reqSorg (r : List Byte) : List Nat := (List.range 3).map fun d => fld r (40 + 4 * d) 4
def reqDorg (r : List Byte) : List Nat := (List.range 3).map fun d => fld r (52 + 4 * d) 4

/-- Check 1 of R333 on the request's bytes alone: true when it passes. A staging flag of a TILE, or of the source of a FILL, is invalid: those fields name no staging address (log 20). -/
def formOk (r : List Byte) (m : HodMode) : Bool :=
  let tile := opc r == 1
  let fill := opc r == 2
  let bind := m == .bind
  let ptrOk (a : W64) (w : Bool) : Bool := winOf a != .priv && !(w && winOf a == .const)
  decide (opc r ≤ 2) && decide (fld r 1 1 < 8) && fld r 2 2 == 0 && fld r 36 4 == 0
  && !(reqSstg r && reqSemit r) && !(reqSemit r && opc r != 0) && !(tile && (reqSstg r || reqDstg r)) && !(fill && reqSstg r)
  && (tile || (reqLen r % 16 == 0 && zeroAt r 40 24)) && !(tile && reqLen r != 0) && (fill || fld r 32 4 == 0)
  && !((fill || reqSemit r) && reqSrc r != 0)
  && (fill || reqSemit r || (if reqSstg r then fld r 8 8 % 16 == 0 && fld r 12 4 == 0
                             else ptrOk (reqSrc r) false && (reqSrc r).toNat % (if tile then 64 else 16) == 0))
  && (if bind then reqDst r == 0 && !reqDstg r && zeroAt r 52 12
      else if reqDstg r then fld r 16 8 % 16 == 0 && fld r 20 4 == 0
      else ptrOk (reqDst r) true && (reqDst r).toNat % (if tile then 64 else 16) == 0)

/-- Sequences checks: the first that does not pass is the answer. -/
def HodRes.andThen : List SegChk → HodRes → HodRes
  | [], k => k
  | .ok :: rest, k => HodRes.andThen rest k
  | .wait a :: _, _ => .wait a
  | .fault c a _ :: _, _ => .fault c a

/-- The slot of the issuing grid that a record names, as its elements lie. -/
def State.recElem (s : State) (tid : Nat) (r : Rec) : Elem := ((s.launch (s.team tid).lid).slot r.slot).elemOf

/-- A nonzero origin of a dimension at or above RANK (R332). -/
def orgBad (r : Rec) (org : List Nat) : Bool := (List.range 3).any fun d => decide (r.rank ≤ d) && orgOf org d != 0

/-- Whether two lists of runs share an address of one window. -/
def segsOverlap (a b : List (Nat × Seg)) : Bool :=
  a.any fun x => b.any fun y => winOf x.2.1 == winOf y.2.1 && overlap x.2.1.toNat x.2.2 y.2.1.toNat y.2.2

/-- The aligned 16-byte chunks that runs touch, by address, each once. -/
def chunkAddrs (gs : List (Nat × Seg)) : List Nat :=
  (gs.flatMap fun p => if p.2.2 = 0 then [] else
    let a := p.2.1.toNat
    (List.range ((a + p.2.2 - 1) / 16 - a / 16 + 1)).map fun i => (a / 16 + i) * 16).eraseDups

/-- A link that runs need and that is absent or down (R333 check 7). -/
def State.linkDown? (s : State) (w : Who) (acc : Acc) (gs : List (Nat × Seg)) : Bool :=
  gs.any fun p => match s.peerOf w acc p.2 with
    | some l => !(s.boot.peersPresent.getLsbD l && s.boot.peersUp.getLsbD l)
    | none => false

/-- Whether the pages of runs are all local or all peer, as put and get require. -/
def State.peerWant (s : State) (w : Who) (acc : Acc) (want : Bool) (a : W64) : Bool :=
  match (if winOf a = .global then s.walk w.job acc a.toNat else .ok 0) with
  | .ok _ => !want
  | .peer _ _ => want
  | _ => true

/-- Checks 2-7 of R333, and the phase sets of R374, for a request with its runs. -/
def State.hodChecks (s : State) (w : Who) (sock : Nat) (phase : Option Nat) (r : List Byte) (p : Plan)
    (tsr : Option Nat) (stgLen : Nat) : HodRes :=
  let a := reqSrc r
  let b := reqDst r
  if reqXb r != 0 && !s.xbOk w.tid (reqXb r) then .fault Code.xbWindow 0
  else if (reqSstg r && !s.stageOk sock w.job (fld r 8 4) stgLen) || (reqDstg r && !s.stageOk sock w.job (fld r 16 4) stgLen) then .fault Code.stageRange 0
  else match tsr with
  | some c => .fault c 0
  | none =>
    if segsOverlap p.src p.dst || (reqSstg r && reqDstg r && overlap a.toNat stgLen b.toNat stgLen) then .fault Code.hodOverlap 0
    else HodRes.andThen [s.checkSegs w .read true p.src, s.checkSegs w .write true p.dst]
      (if s.linkDown? w .read p.src || s.linkDown? w .write p.dst then .fault Code.peerLink 0
       else if p.src.any (fun x => s.segBreach w.tid phase .read x.2) || p.dst.any (fun x => s.segBreach w.tid phase .write x.2) then .fault Code.rwsetOutside 0
       else .ok p)

/-- Issues a request (R333): its checks in order, and its plan. -/
def State.hodIssue (s : State) (w : Who) (sock : Nat) (phase : Option Nat) (r : List Byte) (m : HodMode) : HodRes :=
  if !formOk r m then .fault Code.hodForm 0
  else if opc r = 1 then
    HodRes.andThen ([s.checkSeg w .read false 0 64 (reqSrc r, 64)] ++ (if m = .bind then [] else [s.checkSeg w .read false 0 64 (reqDst r, 64)]))
      (let rs := s.getBytes w (reqSrc r) 64
       let rd := if m = .bind then [] else s.getBytes w (reqDst r) 64
       let a := Rec.ofBytes rs
       let b := Rec.ofBytes rd
       let ea := s.recElem w.tid a
       let eb := s.recElem w.tid b
       let same := (List.range 5).all (fun d => a.t d == b.t d) && ea.per == eb.per && ea.bytes == eb.bytes
       let priv := winOf a.base == .priv || (m != .bind && (winOf b.base == .priv || winOf b.base == .const))
       let peer := match m with
         | .put => s.peerWant w .read false a.base && s.peerWant w .write true b.base
         | .get => s.peerWant w .read true a.base && s.peerWant w .write false b.base
         | _ => true
       if priv || !peer || (m != .bind && !same) then .fault Code.hodForm 0
       else
         let ta := (a.check ea (orgOf (reqSorg r) 0) false).or (if orgBad a (reqSorg r) then some Code.tsrForm else none)
         let tb := if m = .bind then none else (b.check eb (orgOf (reqDorg r) 0) true).or (if orgBad b (reqDorg r) then some Code.tsrForm else none)
         let none' := a.empty || (m != .bind && b.empty)
         let segA := if none' then [] else a.segs ea (reqSorg r)
         let segB := if none' || m = .bind then [] else b.segs eb (reqDorg r)
         let len := if none' then 0 else ea.size (a.t 0) * (a.tileRows (reqSorg r)).length
         s.hodChecks w sock phase r
           { recS := rs, recD := rd, src := segA, dst := segB, len := len,
             chunks := if m = .bind then List.range ((len + 15) / 16) else chunkAddrs segB } (ta.or tb) 0)
  else
    let n := reqLen r
    let srcs := if opc r = 2 || reqSstg r || reqSemit r || n = 0 then [] else [(0, (reqSrc r, n))]
    let dsts := if m = .bind || reqDstg r || n = 0 then [] else [(0, (reqDst r, n))]
    let srcPtr := opc r != 2 && !reqSstg r && !reqSemit r
    let peer := match m with
      | .put => (!srcPtr || s.peerWant w .read false (reqSrc r)) && !reqDstg r && s.peerWant w .write true (reqDst r)
      | .get => srcPtr && s.peerWant w .read true (reqSrc r) && (reqDstg r || s.peerWant w .write false (reqDst r))
      | _ => true
    if !peer then .fault Code.hodForm 0
    else s.hodChecks w sock phase r { recS := [], recD := [], src := srcs, dst := dsts, len := n, chunks := List.range (n / 16) } none n

-- copies ---------------------------------------------------------------------

/-- Takes up to n bytes of the records left for a SEMIT request (R341), those for Hod 0 alone only for it; the answer holds what is left. -/
def takeEmit (zero : Bool) : Nat → List (Bool × List Byte) → List Byte × List (Bool × List Byte)
  | _, [] => ([], [])
  | n, (only, bs) :: cs =>
    if only && !zero then
      let r := takeEmit zero n cs
      (r.1, (only, bs) :: r.2)
    else
      let r := takeEmit zero (n - bs.length) cs
      (bs.take n ++ r.1, if bs.length ≤ n then r.2 else (only, bs.drop n) :: r.2)

/-- FIFO granules that n bytes take (R302). -/
def fifoGrans (n : Nat) : Nat := (n + 4095) / 4096
/-- FIFO granules that a team's waiting records take: those for its matrix stream, and those that came from a bound peer for Hod 0 (R302). -/
def Team.fifoNeed (t : Team) : Nat :=
  fifoGrans t.emitMx.length + fifoGrans ((t.emitHod.filter Prod.fst).map fun p => p.2.length).sum
/-- A team whose waiting records changed: it takes the granules they need, and frees its oldest ones. -/
def State.setEmit (s : State) (tid : Nat) (t : Team) : State :=
  let have' := t.emitBanks.length
  let need := t.fifoNeed
  s.setTeam tid { t with emitBanks := if have' ≤ need then (t.emitBanks ++ s.fifoFree t.sock t.core).take need else t.emitBanks.drop (have' - need) }

/-- A copy of a request; a request with no chunk completes at once. -/
def mkCopy (ptr : W64) (r : List Byte) (p : Plan) (e g job : Nat) (k : CopyKind) (phase : Option Nat) (gen : Nat) (held : Bool) : Copy :=
  { req := r, ptr := ptr, recS := p.recS, recD := p.recD, engine := e, kind := k, g := g, job := job, phase := phase, left := p.chunks, emitted := [],
    held := held, live := held || !p.chunks.isEmpty, joined := false, gen := gen }

/-- Adds a copy to its team; a SEMIT one takes the records already emitted. -/
def State.addCopy (s : State) (tid : Nat) (c : Copy) : State :=
  let t := s.team tid
  if reqSemit c.req then
    let r := takeEmit (c.engine == 0) (reqLen c.req) t.emitHod
    s.setEmit tid { t with copies := t.copies ++ [{ c with emitted := r.1 }], emitHod := r.2 }
  else s.setTeam tid { t with copies := t.copies ++ [c] }

/-- Who a copy is to memory. -/
def Copy.who (c : Copy) (tid : Nat) : Who := ⟨c.job, tid, c.g, 0, 0, []⟩

/-- Records the failure of a kicked request or of a copy (R340): ERR of its object, or an entry of the Hod log. -/
def State.hodFail (s : State) (tid : Nat) (r : List Byte) (where' : W64) (g code : Nat) (a : W64) : State :=
  if reqXb r != 0 && s.xbOk tid (reqXb r) then s.xbFail tid (reqXb r) (errOf code)
  else s.logAsync tid 1 ⟨a, where', code, opc r, 0, g, (s.team tid).idx⟩

def Team.ring (t : Team) (e : Nat) : HodRing := if e = 0 then t.hod0 else t.hod1
def Team.setRing (t : Team) (e : Nat) (r : HodRing) : Team := if e = 0 then { t with hod0 := r } else { t with hod1 := r }

/-- Fetched requests of an engine that are held (H of R334). -/
def Team.heldCount (t : Team) (e : Nat) : Nat := (t.copies.filter fun c => c.held && c.engine == e && c.kind == .kicked).length

/-- The scratch address of ring entry i. -/
def ringPtr (e i : Nat) : W64 := BitVec.ofNat 64 (0xFE * 2 ^ 56 + 4096 * e + 64 * (i % 64))

/-- Whether a result holds a kicked request rather than failing it (R340). -/
def HodRes.holds : HodRes → Option W64
  | .wait a => some a
  | .fault c a => if c = Code.pageMiss then some a else none
  | .ok _ => none

/-- The first held kicked request of an engine whose pages now translate, or that now fails. -/
def State.heldReady (s : State) (tid sock e : Nat) : List Copy → Nat → Option (Nat × Copy × HodRes)
  | [], _ => none
  | c :: cs, i =>
    if c.held && c.engine == e && c.kind == .kicked then
      let r := s.hodIssue (c.who tid) sock c.phase c.req .kick
      match r.holds with
      | none => some (i, c, r)
      | some _ => State.heldReady s tid sock e cs (i + 1)
    else State.heldReady s tid sock e cs (i + 1)

/-- HOD_FETCH (R334, R340): a held request whose fault is answered is issued again; else the next kicked entry is fetched, marked 0xFF, and issued. -/
def execHodFetch (tid : Nat) (engine : BitVec 1) (s : State) : Out :=
  let t := s.team tid
  let e := engine.toNat
  .next (if t.fenced || t.state == .saved || t.state == .done then s
    else match s.heldReady tid t.sock e t.copies 0 with
    | some (i, c, .ok p) =>
      s.setTeam tid { t with copies := setAt t.copies i { c with held := false, recS := p.recS, recD := p.recD, left := p.chunks, live := !p.chunks.isEmpty } }
    | some (i, c, .fault code a) =>
      (s.setTeam tid { t with copies := setAt t.copies i { c with held := false, live := false } }).hodFail tid c.req c.ptr c.g code a
    | some (_, _, .wait _) => s
    | none =>
      let r := t.ring e
      match r.kicks with
      | [] => s
      | kk :: ks =>
        if 256 ≤ s.inflight t.sock t.core then s
        else
          let off := 4096 * e + 64 * (r.f.toNat % 64)
          let req := SMap.bytes t.scratch off 64
          let ptr := ringPtr e r.f.toNat
          let t1 := { t with scratch := SMap.put 0 t.scratch off 0xFF }.setRing e { r with f := r.f + 1, kicks := ks }
          let s1 := s.setTeam tid t1
          let w : Who := ⟨kk.job, tid, kk.g, 0, 0, []⟩
          let gen := (s.core t.sock t.core).gen
          let res := s1.hodIssue w t.sock kk.phase req .kick
          match res, res.holds with
          | _, some a =>
            let s2 := s1.addCopy tid (mkCopy ptr req ⟨[], [], [], [], 0, []⟩ e kk.g kk.job .kicked kk.phase gen true)
            (match res with
            | .fault _ _ => s2.irq (.hodMiss t.sock t.core tid a)
            | _ => s2)
          | .ok p, _ => s1.addCopy tid (mkCopy ptr req p e kk.g kk.job .kicked kk.phase gen false)
          | .fault code a, _ => s1.hodFail tid req ptr kk.g code a
          | .wait _, _ => s1)

/-- Sixteen free bytes of a peer package (log 21). -/
def State.peerBytes (s : State) : List Byte × State :=
  (natLe (Config.freeWord s.fresh).toNat 8 ++ natLe (Config.freeWord (s.fresh + 1)).toNat 8, { s with fresh := s.fresh + 2 })

/-- n bytes a copy reads at a pointer: none while a page does not translate, or with a line in error. -/
inductive SrcRead where
  | bytes (bs : List Byte) (s : State) | notYet | bad (a : W64)
def State.readSrc (s : State) (w : Who) (a : W64) (n : Nat) : SrcRead :=
  match s.checkSeg w .read true 0 1 (a, n) with
  | .ok =>
    (match s.peerOf w .read (a, n) with
     | some _ => let r := s.peerBytes; .bytes (r.1.take n) r.2
     | none => if (s.poisonAt w a).isSome then .bad a else .bytes (s.getBytes w a n) s)
  | _ => .notYet

/-- The byte a TILE copy reads at a place: zero where it is absent, a free value from a page of a peer (log 21); none in a line in error. -/
def State.tileByte (s : State) (w : Who) : Option W64 → Option (Byte × State)
  | none => some (0, s)
  | some a =>
    if (s.peerOf w .read (a, 1)).isSome then some ((Config.freeWord s.fresh).setWidth 8, { s with fresh := s.fresh + 1 })
    else if (s.poisonAt w a).isSome then none
    else some (s.byteAt w a, s)
/-- The bytes at a list of places, or the first place in error. -/
def State.tileRead (s : State) (w : Who) : List (Option W64) → Except W64 (List Byte × State)
  | [] => .ok ([], s)
  | p :: ps => match s.tileByte w p with
    | none => .error (p.getD 0)
    | some (b, s1) => match State.tileRead s1 w ps with
      | .error a => .error a
      | .ok (bs, s2) => .ok (b :: bs, s2)

/-- The bytes of a destination chunk of a TILE copy: each with the place of its source, at the same place of the tile. -/
def State.tileChunk (s : State) (w : Who) (c : Copy) (chunk : Nat) : List (W64 × Option W64) :=
  let a := Rec.ofBytes c.recS
  let b := Rec.ofBytes c.recD
  let ea := s.recElem w.tid a
  let eb := s.recElem w.tid b
  let so := reqSorg c.req
  let d := reqDorg c.req
  ((a.tileRows so).zip (b.tileRows d)).flatMap fun p =>
    if !b.has p.2 then []
    else (List.range (eb.size (b.present d))).filterMap fun rel =>
      let addr := b.byteAddr p.2 (eb.size (orgOf d 0) + rel)
      if addr.toNat / 16 * 16 = chunk then some (addr, a.place ea so p.1 rel) else none
def State.putPairs (s : State) (w : Who) : List (W64 × Byte) → State
  | [] => s
  | (a, b) :: rest => State.putPairs (s.putByte w a b) w rest

/-- What a chunk step does: bytes to write, as a state change and their count. -/
inductive ChunkRes where
  | done (s : State) (n : Nat) | notYet | bad (a : W64)

/-- The source bytes of chunk i of a LINEAR or FILL request, n of them. -/
def State.linearSrc (s : State) (w : Who) (sock : Nat) (c : Copy) (i n : Nat) : SrcRead :=
  let r := c.req
  if opc r = 2 then .bytes (((List.range 4).flatMap fun _ => natLe (fld r 32 4) 4).take n) s
  else if reqSemit r then (if 16 * i + n ≤ c.emitted.length then .bytes ((c.emitted.drop (16 * i)).take n) s else .notYet)
  else if reqSstg r then .bytes (s.stageBytes sock (fld r 8 4 + 16 * i) n) s
  else s.readSrc w (reqSrc r + BitVec.ofNat 64 (16 * i)) n

/-- Writes 16 bytes of a LINEAR or FILL request at its destination. -/
def State.linearDst (s : State) (w : Who) (sock : Nat) (r : List Byte) (i : Nat) (bs : List Byte) : ChunkRes :=
  let a := reqDst r + BitVec.ofNat 64 (16 * i)
  if reqDstg r then .done (s.putStage sock (fld r 16 4 + 16 * i) bs) bs.length
  else match s.checkSeg w .write true 0 1 (a, bs.length) with
  | .ok => .done (if (s.peerOf w .write (a, bs.length)).isSome then s else s.putBytes w a bs) bs.length
  | _ => .notYet

/-- One destination chunk of a copy to memory (R332). -/
def State.memChunk (s : State) (w : Who) (sock : Nat) (c : Copy) (chunk : Nat) : ChunkRes :=
  if opc c.req = 1 then
    let a := Rec.ofBytes c.recS
    let b := Rec.ofBytes c.recD
    match s.checkSegs w .read true (a.segs (s.recElem w.tid a) (reqSorg c.req)), s.checkSegs w .write true (b.segs (s.recElem w.tid b) (reqDorg c.req)) with
    | .ok, .ok =>
      let ps := s.tileChunk w c chunk
      (match s.tileRead w (ps.map Prod.snd) with
       | .error a => .bad a
       | .ok (bs, s1) => .done (s1.putPairs w ((ps.map Prod.fst).zip bs)) ps.length)
    | _, _ => .notYet
  else match s.linearSrc w sock c chunk 16 with
  | .bytes bs s1 => s1.linearDst w sock c.req chunk bs
  | .notYet => .notYet
  | .bad a => .bad a

/-- The next bytes of a bound copy, in source order (R342). -/
def State.streamChunk (s : State) (w : Who) (sock : Nat) (c : Copy) (len chunk : Nat) : SrcRead :=
  let n := Nat.min 16 (len - 16 * chunk)
  if opc c.req = 1 then
    let a := Rec.ofBytes c.recS
    let ea := s.recElem w.tid a
    match s.checkSegs w .read true (a.segs ea (reqSorg c.req)) with
    | .ok => (match s.tileRead w (((a.places ea (reqSorg c.req)).drop (16 * chunk)).take n) with
      | .ok (bs, s1) => .bytes bs s1
      | .error a => .bad a)
    | _ => .notYet
  else s.linearSrc w sock c chunk n

def State.setCopy (s : State) (tid i : Nat) (c : Copy) : State := let t := s.team tid; s.setTeam tid { t with copies := setAt t.copies i c }
def State.setStream (s : State) (tid i : Nat) (x : Stream) : State := let t := s.team tid; s.setTeam tid { t with streams := setAt t.streams i x }

/-- A copy's pages, for the arbiter (R324): of its byte ranges, or of its tiles' rows. -/
def State.copyVas (s : State) (tid : Nat) (c : Copy) : List Nat :=
  let stream := match c.kind with | .stream _ => true | _ => false
  let ends : List Seg × List Seg :=
    if opc c.req = 1 then
      let a := Rec.ofBytes c.recS
      let b := Rec.ofBytes c.recD
      ((a.segs (s.recElem tid a) (reqSorg c.req)).map Prod.snd, (b.segs (s.recElem tid b) (reqDorg c.req)).map Prod.snd)
    else ([(reqSrc c.req, reqLen c.req)], [(reqDst c.req, reqLen c.req)])
  segVas (if stream then ends.1 else ends.1 ++ ends.2)

/-- Ends a copy that met a line in error (R340): DATA_LOSS to its object or the log, or to its stream, which ends after the bytes before it (R343). -/
def State.copyBad (s : State) (tid i : Nat) (c : Copy) (a : W64) : State :=
  let s1 := s.setCopy tid i { c with left := [], live := false }
  match c.kind with
  | .stream x => match (s1.team tid).streams[x]? with
    | some st => s1.setStream tid x { st with fail := Code.dataLoss, len := st.arrived }
    | none => s1
  | _ => s1.hodFail tid c.req c.ptr c.g Code.dataLoss a

/-- A quarantined read (R417): after the fence, 16 bytes for scratch wait in the core's buffer of 4096 chunks. -/
def State.quarantine (s : State) (tid : Nat) (c : Copy) (chunk : Nat) (bs : List Byte) : Option State :=
  let t := s.team tid
  let k := s.core t.sock t.core
  let a := reqDst c.req + BitVec.ofNat 64 (16 * chunk)
  if t.fenced && winOf a == .scratch && !reqDstg c.req && opc c.req == 0 && decide (k.quar.length < 4096) then
    let xb : W32 := if reqXb c.req = 0 then 0xFFFFFFFF else BitVec.ofNat 32 (offOf (reqXb c.req))
    some (s.setCore t.sock t.core { k with quar := k.quar ++ [⟨tid, BitVec.ofNat 32 (offOf a), xb, bs⟩] })
  else none

/-- Whether a copy goes to or comes from a peer package. -/
def State.copyPeer (s : State) (tid : Nat) (c : Copy) : Bool :=
  c.kind == .put || c.kind == .get || (s.peerOf (c.who tid) .read (reqSrc c.req, 1)).isSome || (s.peerOf (c.who tid) .write (reqDst c.req, 1)).isSome
/-- HOD_CHUNK_DONE (R332, R338): one aligned chunk of a copy is written whole and counted; IO1 holds what a peer sends or takes for a job that a Doff has away (R441); a bound copy's chunks enter its buffer in order while it has room. -/
def execHodChunkDone (tid : Nat) (idx chunk : Nat) (s : State) : Out :=
  let t := s.team tid
  .next (match t.copies[idx]? with
    | none => s
    | some c =>
      if !c.live || c.held || !c.left.contains chunk || (s.away t.job && s.copyPeer tid c) then s
      else
        let w := c.who tid
        let left := c.left.erase chunk
        let c' := { c with left := left, live := !left.isEmpty }
        match c.kind with
        | .stream x =>
          (match t.streams[x]? with
           | none => s
           | some st =>
             if c.left.head? != some chunk || decide (4096 < st.buf.length + 16) then s
             else match s.streamChunk w t.sock c st.len chunk with
               | .bytes bs s1 =>
                 ((((s1.setCopy tid idx c').setStream tid x { st with buf := st.buf ++ bs, arrived := st.arrived + bs.length }).devTouch c.job (s.copyVas tid c)).xbArrive
                   tid (reqXb c.req) bs.length).jobCount t.job.toNat 5 bs.length
               | .notYet => s
               | .bad a => s.copyBad tid idx c a)
        | _ =>
          (match (match s.linearSrc w t.sock c chunk 16 with | .bytes bs s1 => if opc c.req = 0 then s1.quarantine tid c chunk bs else none | _ => none) with
           | some s1 => s1.setCopy tid idx c'
           | none => match s.memChunk w t.sock c chunk with
             | .done s1 n => (((s1.setCopy tid idx c').devTouch c.job (s.copyVas tid c)).xbArrive tid (reqXb c.req) n).jobCount t.job.toNat 5 n
             | .notYet => s
             | .bad a => s.copyBad tid idx c a))

-- group instructions ---------------------------------------------------------

/-- A fault of an elected instruction (R330): an access fault names the elected lane and the address, another names no lane (log 19). -/
def State.elFault (s : State) (gid : GId) (g : Group) (code : Nat) (a : W64) (d1 : W32) : State :=
  if Code.cls code = 1 then s.raise gid g code (BitVec.ofNat 32 (lowest g.active)) a d1 else s.raise gid g code noLane 0 d1

/-- hod.kick (R334). It forks its requests: the group's earlier accesses come before theirs (R356). -/
def execHodKick (h : Hd) (engine : BitVec 1) (n : Opnd) (s : State) : Out :=
  withCur s fun gid g => s.afterReds gid g (fun _ => true) fun s g => s.elect gid g [(.i32, n)] fun xs =>
    let t := s.team gid.tid
    let e := engine.toNat
    let n := uns 32 (xs.getD 0 0)
    let r := t.ring e
    if (s.launch t.lid).scratch < 4096 * (e + 1) then s.elFault gid g Code.addrRange (ringPtr e 0) 0
    else if 64 < n ∨ 64 < r.kicks.length + n + t.heldCount e then s.fail gid g Code.hodRing
    else
      let kk : Kick := ⟨gid.g, if (s.launch t.lid).phased then g.phase else none, (s.who gid g 0).job⟩
      (s.setTeam gid.tid (t.setRing e { r with k := r.k + BitVec.ofNat 32 n, kicks := r.kicks ++ List.replicate n kk })).advance gid g h.ce

/-- Reads the 64-byte request an instruction names (R331, R475), in the elected lane's private memory where it lies there (R330), and goes on with it. -/
def State.withReq (s : State) (gid : GId) (g : Group) (a : W64) (k : List Byte → State) : State :=
  let w := s.who gid g (lowest g.active)
  match s.checkSeg w .read false 0 64 (a, 64) with
  | .fault c x _ => s.elFault gid g c x 0
  | .wait _ => s.park gid g
  | .ok => k (s.getBytes w a 64)

/-- hod.bind (R342): the request is issued as a bound copy, and its stream handle delivered at once; with no free FIFO granule the group parks. -/
def execHodBind (h : Hd) (engine : BitVec 1) (req : Opnd) (s : State) : Out :=
  withCur s fun gid g => s.afterReds gid g (fun _ => true) fun s g => s.elect gid g [(.ptr, req)] fun xs => s.withReq gid g (xs.getD 0 0) fun r =>
    let t := s.team gid.tid
    let w := { s.who gid g 0 with privSize := 0 }
    match s.hodIssue w t.sock g.phase r .bind with
    | .fault c a => s.elFault gid g c a 0
    | .wait _ => s.park gid g
    | .ok p =>
      if 256 ≤ s.inflight t.sock t.core then s.fail gid g Code.hodFull
      else match s.freeFifo t.sock t.core with
        | none => s.park gid g
        | some b =>
          let x := t.streams.length
          let st : Stream := ⟨p.len, [], 0, 0, false, 0, b⟩
          let s1 := s.setTeam gid.tid { t with streams := t.streams ++ [st] }
          let p' := { p with chunks := List.range ((p.len + 15) / 16) }
          let s2 := s1.addCopy gid.tid (mkCopy (xs.getD 0 0) r p' engine.toNat gid.g w.job (.stream x) g.phase (s.core t.sock t.core).gen false)
          s2.deliver gid g h (mkHnd hndStream x)

/-- hod.put and hod.get (R344). -/
def peerCopy (m : HodMode) (k : CopyKind) (h : Hd) (engine : BitVec 1) (req : Opnd) (s : State) : Out :=
  withCur s fun gid g => s.afterReds gid g (fun _ => true) fun s g => s.elect gid g [(.ptr, req)] fun xs => s.withReq gid g (xs.getD 0 0) fun r =>
    let t := s.team gid.tid
    let w := { s.who gid g 0 with privSize := 0 }
    match s.hodIssue w t.sock g.phase r m with
    | .fault c a => s.elFault gid g c a 0
    | .wait _ => s.park gid g
    | .ok p =>
      if 256 ≤ s.inflight t.sock t.core then s.fail gid g Code.hodFull
      else (s.addCopy gid.tid (mkCopy (xs.getD 0 0) r p engine.toNat gid.g w.job k g.phase (s.core t.sock t.core).gen false)).advance gid g h.ce
def execHodPut (h : Hd) (engine : BitVec 1) (req : Opnd) (s : State) : Out := peerCopy .put .put h engine req s
def execHodGet (h : Hd) (engine : BitVec 1) (req : Opnd) (s : State) : Out := peerCopy .get .get h engine req s

/-- A stream handle read for the group (R32): its index and the stream. -/
def State.withStream (s : State) (gid : GId) (g : Group) (a : W64) (k : Nat → Stream → State) : State :=
  match s.hndCheck gid.tid hndStream a with
  | .error c => s.fail gid g c
  | .ok i => match (s.team gid.tid).streams[i]? with
    | some x => k i x
    | none => s.fail gid g Code.hndStale

/-- sread (R343). -/
def execSread (h : Hd) (st : Opnd) (s : State) : Out :=
  withCur s fun gid g => s.elect gid g [(.hnd, st)] fun xs => s.withStream gid g (xs.getD 0 0) fun i x =>
    let size := Ty.memSize h.ty
    let rem := x.len - x.taken
    let n := Nat.min (32 * size) rem
    if x.busy then s.fail gid g Code.streamBusy
    else if rem = 0 then (if x.fail = 0 then s.fail gid g Code.streamEnd else s.elFault gid g x.fail 0 0)
    else if n ≤ x.buf.length then
      let r := x.buf.take n
      let lane (l : Nat) : Lane := ofMem h.ty ((r.drop (l * size)).take size)
      (s.setStream gid.tid i { x with buf := x.buf.drop n, taken := x.taken + n }).finish gid g h g.active [(h.ty, lanes32.map lane)] 0
    else s.park gid g

-- emit (R128-R130) -----------------------------------------------------------

/-- The record of an emit (R128): inactive lanes give zero bytes. -/
def emitRecord (ty : Ty) (active : Mask) (v : Rd) : List Byte :=
  lanes32.flatMap fun l => if active.getLsbD l then toMem ty (v.lane l) else List.replicate (Ty.memSize ty) 0

/-- Bytes of A an EMITTED stream command still lacks (R179). -/
def MxCmd.lacks (c : MxCmd) (s : State) : Nat :=
  let r := Rec.ofBytes c.rec0
  let need := (s.recElem c.tid r).size (r.t 0) * r.t 1
  match c.op with
  | .stream => if fld c.pb 94 1 / 16 % 2 = 1 then need - c.data.length else 0
  | _ => 0
/-- Gives bytes to the EMITTED commands of a team in acceptance order; the answer holds what is left. -/
def feedMx (s : State) (tid : Nat) : List MxCmd → List Byte → List MxCmd × List Byte
  | [], bs => ([], bs)
  | c :: cs, bs =>
    if c.tid = tid then
      let n := c.lacks s
      let r := feedMx s tid cs (bs.drop n)
      ({ c with data := c.data ++ bs.take n } :: r.1, r.2)
    else let r := feedMx s tid cs bs; (c :: r.1, r.2)
/-- Whether some EMITTED command of a team on a bank lacks bytes. -/
def State.mxOpen (s : State) (sock core tid : Nat) : Bool :=
  let k := s.core sock core
  (k.b0.queue ++ k.b1.queue).any fun c => c.tid == tid && decide (0 < c.lacks s)
/-- Gives a record to the matrix queue of a team: what no command takes waits in FIFO granules (R302). -/
def State.feedMatrix (s : State) (tid : Nat) (bs : List Byte) : State :=
  let t := s.team tid
  let k := s.core t.sock t.core
  let b := k.bank t.bank
  let r := feedMx s tid b.queue (t.emitMx ++ bs)
  let s1 := s.setCore t.sock t.core (k.setBank t.bank { b with queue := r.1 })
  s1.setEmit tid { t with emitMx := r.2 }
/-- Whether a record can go to a queue of a core that FIFO granules back: it waits while every one is in use (R302). -/
def State.fifoRoom (s : State) (sock core : Nat) : Bool := (s.freeFifo sock core).isSome

/-- Whether a copy takes emitted bytes, those for Hod 0 alone only where zero. -/
def Copy.takesEmit (zero : Bool) (c : Copy) : Bool := c.live && reqSemit c.req && (!zero || c.engine == 0)
/-- Gives emitted bytes to SEMIT copies in fetch order; the answer holds what is left (R341). -/
def feedCopies (zero : Bool) : List Copy → List Byte → List Copy × List Byte
  | [], bs => ([], bs)
  | c :: cs, bs =>
    if c.takesEmit zero then
      let n := reqLen c.req - c.emitted.length
      let r := feedCopies zero cs (bs.drop n)
      ({ c with emitted := c.emitted ++ bs.take n } :: r.1, r.2)
    else let r := feedCopies zero cs bs; (c :: r.1, r.2)
/-- Whether a fetched SEMIT request still lacks bytes (R341), of Hod 0 where zero. -/
def Team.hodLacks (zero : Bool) (t : Team) : Bool := t.copies.any fun c => c.takesEmit zero && decide (c.emitted.length < reqLen c.req)
def State.feedHod (s : State) (tid : Nat) (zero : Bool) (bs : List Byte) : State :=
  let t := s.team tid
  let r := feedCopies zero t.copies bs
  s.setEmit tid { t with copies := r.1, emitHod := if r.2.isEmpty then t.emitHod else t.emitHod ++ [(zero, r.2)] }

/-- The team of a job on a core that consumes the records of an engine's queue, else any team of the job there (R305). -/
def State.peerTeam (s : State) (eng sock core job : Nat) : Option Nat :=
  let ts := (s.teamsOn sock core).filter fun p => p.2.job.toNat == job
  ((ts.find? fun p => if eng = 0 then s.mxOpen sock core p.1 else p.2.hodLacks true).or ts.head?).map (·.1)

/-- The target of a core's bound peer queue for a job (R305): engine, socket, core. -/
def State.qbind (s : State) (tid : Nat) : Option (Nat × Nat × Nat) :=
  let t := s.team tid
  let q := (s.core t.sock t.core).qbind.toNat
  if q / 2 ^ 31 = 1 ∧ q % 4096 = t.job.toNat then some (fieldNat q 30 30, fieldNat q 27 24, fieldNat q 23 18) else none

/-- What one consumer of an emit can do with the record: a fault, a wait, or taking it. -/
inductive Accept where
  | fault (code : Nat) | wait | yes
  deriving DecidableEq, Repr

/-- Consumer bit n of an emit of a team, with the spool index (R129, R130). -/
def State.emitCan (s : State) (gid : GId) (g : Group) (n : Nat) (rec : List Byte) (sp : Option Nat) : Accept :=
  let t := s.team gid.tid
  let l := s.launch t.lid
  match n with
  | 0 => if !s.mxOpen t.sock t.core gid.tid then .fault Code.emitUnbound else if s.fifoRoom t.sock t.core then .yes else .wait
  | 1 => if t.hodLacks false then .yes else .wait
  | 2 =>
    (match sp with
     | none => .fault Code.emitUnbound
     | some i => match t.spools[i]? with
       | none => .fault Code.hndStale
       | some p =>
         if p.b < rec.length then .fault Code.emitSize
         else if p.hasFree then (if s.breach gid.tid g.phase .write (offOf (p.slot p.claim)) rec.length then .fault Code.rwsetOutside else .yes)
         else .wait)
  | 3 => if l.reelq = 0 then .fault Code.emitUnbound else if 64 < rec.length then .fault Code.emitSize
         else if t.reelPay.isSome then .wait else .yes
  | _ =>
    match s.qbind gid.tid with
    | none => .fault Code.emitUnbound
    | some (eng, so, co) =>
      match s.peerTeam eng so co t.job.toNat with
      | none => .wait
      | some tid => if s.fifoRoom so co && (eng = 0 || (s.team tid).hodLacks true) then .yes else .wait

/-- Delivers a record to consumer n. -/
def State.emitTo (s : State) (gid : GId) (n : Nat) (rec : List Byte) (sp : Option Nat) : State :=
  let t := s.team gid.tid
  match n with
  | 0 => s.feedMatrix gid.tid rec
  | 1 => s.feedHod gid.tid false rec
  | 2 =>
    (match sp with
     | none => s
     | some i => match t.spools[i]? with
       | none => s
       | some p =>
         let t1 := { t with scratch := SMap.putBytes t.scratch (offOf (p.slot p.claim)) rec }
         s.setTeam gid.tid { t1 with spools := setAt t1.spools i (({ p with claim := p.claim + 1 }).commit p.claim) })
  | 3 => s.setTeam gid.tid { t with reelPay := some (rec ++ List.replicate (64 - rec.length) 0) }
  | _ =>
    match s.qbind gid.tid with
    | none => s
    | some (eng, so, co) =>
      match s.peerTeam eng so co t.job.toNat with
      | none => s
      | some tid => if eng = 0 then s.feedMatrix tid rec else s.feedHod tid true rec
def State.emitAll (s : State) (gid : GId) (rec : List Byte) (sp : Option Nat) : List Nat → State
  | [] => s
  | n :: ns => State.emitAll (s.emitTo gid n rec sp) gid rec sp ns

/-- The consumers a mask names. -/
def consumers (mask : BitVec 5) : List Nat := (List.range 5).filter fun n => mask.getLsbD n
/-- The first fault of a list, else whether every consumer can accept. -/
def acceptAll : List Accept → Accept
  | [] => .yes
  | .fault c :: _ => .fault c
  | a :: as => match acceptAll as with | .fault c => .fault c | r => if a = .yes then r else .wait

/-- emit (R128, R129): to every named consumer in one step, or to none, after the group's earlier accesses (R356). -/
def execEmit (h : Hd) (mask : BitVec 5) (v : Opnd) (sp : Option Opnd) (s : State) : Out :=
  withCur s fun gid g => s.afterReds gid g (fun _ => true) fun s g =>
    let r := s.read gid g h.ty v
    let hr := match sp with | some o => s.read gid g .hnd o | none => .all 0
    match lostOf [r, hr] with
    | some l => s.dataLoss gid g l
    | none =>
      let bs := emitRecord h.ty g.active r
      let idx : Except Nat (Option Nat) := match sp with
        | none => .ok none
        | some _ => match s.hndCheck gid.tid hndSpool (hr.elect g) with | .ok i => .ok (some i) | .error c => .error c
      match idx with
      | .error c => s.fail gid g c
      | .ok i =>
        match acceptAll ((consumers mask).map fun n => s.emitCan gid g n bs i) with
        | .fault c => s.fail gid g c
        | .wait => s.park gid g
        | .yes =>
          let s1 := (s.emitAll gid bs i (consumers mask)).holdPhase gid.tid (if (consumers mask).isEmpty then none else g.phase) none 0
          s1.advance gid ((s1.group gid).getD g) h.ce

end Sys2Proof.Machine
end

