-- ==== Sys2Proof/Machine/Matrix.lean ====
section
/-! DEFINITION. The matrix engine (R168-R184): parameter blocks, the checks of R170, acceptance, planes, streams and semirings, sparse and compressed operands, drains and tile updates. A command is performed whole when MX_COMMAND_DONE reaches it: the oldest that no earlier one holds back (R173, log 22). -/

namespace Sys2Proof.Machine

-- parameter blocks (R168) ----------------------------------------------------

def pbPtr (pb : List Byte) (o : Nat) : W64 := BitVec.ofNat 64 (fld pb o 8)
def pbRec0 (pb : List Byte) : W64 := pbPtr pb 0
def pbRec1 (pb : List Byte) : W64 := pbPtr pb 8
def pbScale (pb : List Byte) : W64 := pbPtr pb 16
def pbBand (pb : List Byte) : W64 := pbPtr pb 24
def pbAux0 (pb : List Byte) : W64 := pbPtr pb 32
def pbAux1 (pb : List Byte) : W64 := pbPtr pb 40
def pbXb (pb : List Byte) : W64 := pbPtr pb 48
def pbXbytes (pb : List Byte) : Nat := fld pb 56 4
def pbOrg (pb : List Byte) : List Nat := (List.range 5).map fun d => fld pb (64 + 4 * d) 4
def pbOrg1 (pb : List Byte) : List Nat := (List.range 2).map fun d => fld pb (84 + 4 * d) 4
def pbAcc (pb : List Byte) : Nat := fld pb 92 1
def pbSemi (pb : List Byte) : Nat := fld pb 93 1
/-- Bit n of FLAGS: 0 CLEAR, 1 RAW, 2 ROWARG, 3 DCLEAR, 4 EMITTED, 5 SGN. -/
def pbFlag (pb : List Byte) (n : Nat) : Bool := fld pb 94 1 / 2 ^ n % 2 == 1
def pbShape (pb : List Byte) : Nat := fld pb 95 1
def pbArow (pb : List Byte) : Nat := fld pb 96 1
def pbAcol (pb : List Byte) : Nat := fld pb 97 1
def pbSpn (pb : List Byte) : Nat := fld pb 98 1
def pbSpk (pb : List Byte) : Nat := fld pb 99 1

/-- Whether a slot's elements are integers: unscaled i8 (R178). -/
def Slot.isInt (s : Slot) : Bool := s.elem == 2 && s.block == 0
/-- Whether the slot is scaled. -/
def Slot.scaled (s : Slot) : Bool := s.scale == 1

/-- The forms of the matrix instructions. -/
def MxOp.isStream : MxOp → Bool
  | .stream | .bound _ => true
  | _ => false
def MxOp.isDrain : MxOp → Bool
  | .drain | .drainAdd => true
  | _ => false
/-- A drain with RAW or ROWARG consults no slot (R182). -/
def rawForm (op : MxOp) (pb : List Byte) : Bool := op.isDrain && (pbFlag pb 1 || pbFlag pb 2)

/-- FLAGS bits an operation uses. -/
def flagMask (op : MxOp) : Nat :=
  match op with
  | .stream => 0x31
  | .bound _ => 0x31
  | .drain | .drainAdd => 0x2E
  | .compress => 0
  | _ => 0x20

/-- Check 3 of R170 on the block alone: fields not used are zero, used ones within their limits (R168). -/
def paramOk (op : MxOp) (pb : List Byte) (sl : Slot) : Bool :=
  let z (o n : Nat) : Bool := zeroAt pb o n
  let stream := op.isStream
  let drain := op.isDrain
  let sp := op == .spgather
  let comp := op == .compress
  let scaled := sl.scaled && !rawForm op pb && !sp && !comp
  let rowarg := drain && pbFlag pb 2
  (comp || z 8 8) && (scaled || z 16 8) && ((scaled && sl.band) || z 24 8) && (sp || comp || z 32 8) && (sp || z 40 8) && z 60 4
  && (!sp || z 64 20) && (comp || z 84 8) && (if stream || drain then decide (pbAcc pb < 8) else z 92 1)
  && (if stream then decide (pbSemi pb ≤ 4) else z 93 1)
  && fld pb 94 1 &&& flagMask op == fld pb 94 1
  && (if comp then decide (pbShape pb < 16) && decide (pbShape pb % 4 ≤ 1) && decide (pbShape pb / 4 ≤ 2) else z 95 1)
  && (if stream || drain then decide (pbArow pb < 128) else z 96 1)
  && (if drain then decide (pbAcol pb < 64) else z 97 1)
  && (if sp || rowarg then decide (1 ≤ pbSpn pb ∧ pbSpn pb ≤ 64) else z 98 1)
  && (if sp then decide (1 ≤ pbSpk pb ∧ pbSpk pb ≤ 128) else z 99 1)
  && z 100 28
  && !(match op with | .bound _ => pbFlag pb 4 | _ => false)
  && (!stream || sl.isEmpty || (if sl.isInt then pbSemi pb == 0 || pbSemi pb == 4 else pbSemi pb != 4))
  && !(op == .drainAdd && (pbFlag pb 2 || (!pbFlag pb 1 && !sl.isEmpty && !([6, 7, 8].contains sl.elem && sl.block == 0))))

/-- Check 3 where it needs REC1. -/
def paramRec1Ok (pb : List Byte) (r1 : Rec) : Bool := !(r1.rank == 1 && orgOf (pbOrg1 pb) 1 != 0)
/-- Check 3 where it needs REC0: origins above RANK, a drain's window, RAW and ROWARG without a slot. -/
def paramRec0Ok (op : MxOp) (pb : List Byte) (ac : Nat) (r0 : Rec) : Bool :=
  (List.range 5).all (fun d => decide (d < r0.rank) || orgOf (pbOrg pb) d == 0)
  && !(rawForm op pb && (r0.slot != 0 || ac != 0))
  && !(op.isDrain && winOf r0.base != .global && winOf r0.base != .scratch)

/-- ELEM codes that suit a command (R174, R181, R182). -/
def elemOk (op : MxOp) (sl : Slot) : Bool :=
  match op with
  | .compress => sl.block == 0 && [2, 6, 7, 8, 11, 12].contains sl.elem
  | .drain | .drainAdd => true
  | _ => [2, 6, 7, 11, 12, 13].contains sl.elem

-- what the engine's order makes known at acceptance (R173, R175) ------------

/-- The planes as commands after the queue will find them; cells are not followed. -/
def planesAfter (s : State) : List MxCmd → Plane → Plane → Plane × Plane
  | [], a, b => (a, b)
  | c :: cs, a, b =>
    let sl := (s.launch (s.team c.tid).lid).slot c.slot
    let r := Rec.ofBytes c.rec0
    match c.op with
    | .swap => planesAfter s cs b a
    | .ldst => planesAfter s cs a ⟨true, r.t 0, r.t 1, c.slot, pbFlag c.pb 5, sl.isInt, c.tid, []⟩
    | .spgather => planesAfter s cs a ⟨true, pbSpk c.pb, pbSpn c.pb, c.slot, pbFlag c.pb 5, sl.isInt, c.tid, []⟩
    | _ => planesAfter s cs a b

/-- The bank's tile that a team's ACC names (R209). -/
def tileNum (t : Team) (acc : Nat) : Nat := t.accBase + acc

/-- Whether a tile will be i32 after the queue: a stream with CLEAR sets its type (R176). -/
def intAfter (s : State) (n : Nat) : List MxCmd → Bool → Bool
  | [], b => b
  | c :: cs, b =>
    let t := s.team c.tid
    if c.op.isStream && pbFlag c.pb 0 && tileNum t (pbAcc c.pb) == n then
      intAfter s n cs (((s.launch t.lid).slot c.slot).accum == 4)
    else intAfter s n cs b

/-- Rows that a tile's lost mark covers are cleared by a stream with CLEAR over all of them (R407). -/
def Bank.tile (b : Bank) (n : Nat) : Tile := SMap.get Tile.reset b.tiles n
def Bank.setTile (b : Bank) (n : Nat) (x : Tile) : Bank := { b with tiles := SMap.put Tile.reset b.tiles n x }

-- runs a command touches (R171) ----------------------------------------------

/-- A run to pre-translate: its operand (0 REC0, 1 SCALE0, 2 BAND0, 3 REC1, 4 AUX0, 5 AUX1, 6 XB), row, access, alignment, the run, and whether it is data checked against the phase (R374). -/
structure Touch where
  opnd : Nat
  row : Nat
  acc : Acc
  align : Nat
  seg : Seg
  data : Bool

/-- Bytes of a row of the scale plane (R166). -/
def scaleStride (r : Rec) (e : Elem) : Nat := 12 * ((r.e 0 + 8 * e.block - 1) / (8 * e.block))
/-- The 12-byte runs of scales that a row of a tile uses. -/
def scaleSeg (r : Rec) (e : Elem) (plane : W64) (org : List Nat) (row : Row) : Seg :=
  let j0 := orgOf org 0 / e.block / 8
  let n := r.present org
  let j1 := (orgOf org 0 + n - 1) / e.block / 8
  (plane + BitVec.ofNat 64 (r.rowIndex row * scaleStride r e + 12 * j0), 12 * (j1 + 1 - j0))
def bandSeg (r : Rec) (band : W64) (row : Row) : Seg := (band + BitVec.ofNat 64 (2 * (r.rowIndex row / 64)), 2)

/-- The rows of a record's tile as touches. -/
def recTouches (opnd : Nat) (acc : Acc) (r : Rec) (e : Elem) (org : List Nat) : List Touch :=
  (r.segs e org).map fun p => ⟨opnd, p.1, acc, 1, p.2, true⟩

/-- The group and kept sizes of mx.compress (R181). -/
def compG (pb : List Byte) : Nat := if pbShape pb % 4 = 0 then 4 else 8
def compP (pb : List Byte) : Nat := 2 ^ (pbShape pb / 4)
/-- Nibbles of metadata. -/
def compNibbles (pb : List Byte) (r0 : Rec) : Nat := r0.t 0 / compG pb * compP pb * (r0.tileRows (pbOrg pb)).length

/-- The rows of REC0's tile that a command touches: a drain writes those of its first matrix alone (R182). -/
def touchRec (op : MxOp) (r : Rec) : Rec := if op.isDrain then { r with tile := [r.t 0, r.t 1, 1, 1, 1] } else r

/-- Everything a command touches, in the order of R171. -/
def touches (op : MxOp) (pb : List Byte) (sl : Slot) (rec0 r1 : Rec) : List Touch :=
  let r0 := touchRec op rec0
  let e := if rawForm op pb then Elem.raw else sl.elemOf
  let org := pbOrg pb
  let mem := match op with | .bound _ => false | .stream => !pbFlag pb 4 | _ => true
  let acc : Acc := match op with | .drain => .write | .drainAdd => .rw | _ => .read
  let scaled := sl.scaled && !rawForm op pb && op != .spgather && op != .compress
  let rows := if r0.present org = 0 then [] else (r0.tileRows org).filter r0.has
  let sacc : Acc := if op.isDrain then .rw else .read
  (if mem then recTouches 0 acc r0 e org else [])
  ++ (if scaled then rows.map fun w => ⟨1, r0.rowIndex w, sacc, 4, scaleSeg r0 e (pbScale pb) org w, true⟩ else [])
  ++ (if scaled && sl.band then rows.map fun w => ⟨2, r0.rowIndex w, .read, 2, bandSeg r0 (pbBand pb) w, true⟩ else [])
  ++ (if op == .compress then recTouches 3 .write r1 e (pbOrg1 pb) else [])
  ++ (if op == .spgather then [⟨4, 0, .read, 4, (pbAux0 pb, 4 * (pbSpn pb + 1)), true⟩] else [])
  ++ (if op == .compress then [⟨4, 0, .write, 1, (pbAux0 pb, (compNibbles pb r0 + 1) / 2), true⟩] else [])
  ++ (if op == .spgather && r0.t 0 != 0 then [⟨5, 0, .read, 4, (pbAux1 pb, 4 * r0.t 0), true⟩] else [])
  ++ (if pbXb pb = 0 then [] else [⟨6, 0, .rw, 16, (pbXb pb, 16), false⟩])

/-- The first touch that fails: its fault, address and DETAIL1 (operand in bits [31:24], row in [23:0], log 22). -/
inductive TouchChk where
  | ok | wait | fault (code : Nat) (a : W64) (d1 : W32)
  deriving DecidableEq, Repr
def State.checkTouches (s : State) (w : Who) (phase : Option Nat) : List Touch → TouchChk
  | [] => .ok
  | t :: ts =>
    let d1 : W32 := BitVec.ofNat 32 (t.opnd * 2 ^ 24 + t.row % 2 ^ 24)
    match s.checkSeg w t.acc false t.row t.align t.seg with
    | .fault c a _ => .fault c a d1
    | .wait _ => .wait
    | .ok => if t.data && s.segBreach w.tid phase t.acc t.seg then .fault Code.rwsetOutside 0 0 else State.checkTouches s w phase ts

-- shapes (check 7) -----------------------------------------------------------

/-- Tile extents above dimension 1 are 1 (R174, R176). -/
def flat (r : Rec) : Bool := r.t 2 == 1 && r.t 3 == 1 && r.t 4 == 1

/-- i8 against float (R178): a stream's operand and the plane it will meet, at check 5 of R170 with the other FMT_MISMATCH. -/
def State.planeMixed (s : State) (op : MxOp) (sl : Slot) (t : Team) (tid : Nat) : Bool :=
  let b := (s.core t.sock t.core).bank t.bank
  let p := (planesAfter s b.queue b.act b.shd).1
  op.isStream && p.loaded && p.tid == tid && p.int != sl.isInt

/-- Check 7 of R170 for a command: MX_SHAPE, MX_PLANE, MX_ACC, and DATA_LOSS for a lost tile that it reads (R407). A stream's plane is checked before its K is compared with it (log 22). -/
def State.shapeCheck (s : State) (op : MxOp) (pb : List Byte) (sl : Slot) (r0 r1 : Rec) (t : Team) (tid : Nat) : Option Nat :=
  let b := (s.core t.sock t.core).bank t.bank
  let n := tileNum t (pbAcc pb)
  let tile := b.tile n
  let isInt := intAfter s n b.queue tile.int
  match op with
  | .ldst => if r0.t 0 ≤ 128 ∧ r0.t 1 ≤ 64 ∧ flat r0 then none else some Code.mxShape
  | .spgather => if r0.rank = 1 ∧ r0.t 0 = r0.e 0 then none else some Code.mxShape
  | .compress =>
    if compP pb < compG pb ∧ r0.t 0 % compG pb = 0 ∧ r1.t 0 = r0.t 0 * compP pb / compG pb
        ∧ r1.t 1 = r0.t 1 ∧ r1.t 2 = r0.t 2 ∧ r1.t 3 = r0.t 3 ∧ r1.t 4 = r0.t 4 then none else some Code.mxShape
  | .swap => none
  | .drain | .drainAdd =>
    let rowarg := pbFlag pb 2
    if 128 < pbArow pb + r0.t 1 || (!rowarg && 64 < pbAcol pb + r0.t 0) || (rowarg && (r0.t 0 != 2 || 64 < pbAcol pb + pbSpn pb || 64 < pbAcol pb + 2))
      then some Code.mxShape
    else if t.acct ≤ pbAcc pb || (rowarg && isInt) then some Code.mxAcc
    else if tile.lost.isSome then some Code.dataLoss
    else none
  | _ =>
    let p := (planesAfter s b.queue b.act b.shd).1
    if 128 < r0.t 1 || 128 < pbArow pb + r0.t 1 || !flat r0 then some Code.mxShape
    else if !p.loaded || p.tid != tid then some Code.mxPlane
    else if r0.t 0 != p.k then some Code.mxShape
    else if t.acct ≤ pbAcc pb || (!pbFlag pb 0 && (sl.accum == 4) != isInt) then some Code.mxAcc
    else if tile.lost.isSome && !pbFlag pb 0 then some Code.dataLoss
    else none

/-- Unsigned i32 values of an array in memory. -/
def State.i32s (s : State) (w : Who) (a : W64) (n : Nat) : List Nat :=
  (List.range n).map fun i => leNat (s.getBytes w (a + BitVec.ofNat 64 (4 * i)) 4)
/-- Whether row pointers rise from 0 to nnz. -/
def rowPtrsOk (nnz : Nat) : List Nat → Nat → Bool
  | [], last => last == nnz
  | p :: ps, last => decide (last ≤ p) && rowPtrsOk nnz ps p
/-- The columns of row n of a sparse operand. -/
def rowCols (rowptr cols : List Nat) (n : Nat) : List Nat := (cols.drop (rowptr.getD n 0)).take (rowptr.getD (n + 1) 0 - rowptr.getD n 0)
/-- Whether sparse arrays are well formed (R180). -/
def sparseOk (spn spk nnz : Nat) (rowptr cols : List Nat) : Bool :=
  rowptr.head? == some 0 && rowPtrsOk nnz rowptr 0 && cols.all (fun c => decide (c < spk))
  && (List.range spn).all fun n => (rowCols rowptr cols n).Nodup

-- acceptance (R170-R173) -----------------------------------------------------

/-- Whether a Doff in its halt acts on a bank as CTX_PREEMPT does: the bank holds a row of its job (R436). -/
def State.doffBank (s : State) (sock core bank : Nat) : Bool :=
  s.doff.busy && s.doff.phase == 1 && (s.teamsOn sock core).any fun p => p.2.bank == bank && p.2.job == s.doff.ctl.setWidth 12
/-- Whether a pre-emption of the group's bank keeps the engine from accepting a command (R416, R436). -/
def State.mxHeld (s : State) (t : Team) (op : MxOp) (pb : List Byte) : Bool :=
  let c := s.core t.sock t.core
  let mine := c.preempt.getLsbD 31 && (if c.preempt.getLsbD 24 then 1 else 0) == t.bank || s.doffBank t.sock t.core t.bank
  let openTile := ((c.bank t.bank).tile (tileNum t (pbAcc pb))).opn
  mine && !(op.isDrain || op == .swap || (op.isStream && !pbFlag pb 0 && openTile))

/-- Adds a token to the issuing team: its index. -/
def State.addTok (s : State) (gid : GId) (g : Group) (xb : W64) (done : Bool) : Nat × State :=
  let t := s.team gid.tid
  (t.toks.length, s.setTeam gid.tid { t with toks := t.toks ++ [⟨done, false, none, xb, gid.g, g.phase, false⟩] })

/-- The parts of a matrix command read at issue. -/
structure MxIssue where
  pb : List Byte
  b0 : List Byte
  b1 : List Byte
  rowptr : List Nat
  colidx : List Nat
  map : SMap Nat

/-- The translations kept for global addresses (R171). -/
def State.keepMap (s : State) (job : Nat) (vas : List Nat) : SMap Nat :=
  vas.foldl (fun m va => match s.pageWalk job .read va with | .ok p => SMap.put 0 m (va / 65536) (p + 1) | _ => m) []

/-- Accepts a command (R172, R173): one credit taken, the token delivered, the command last in the engine's queue. A stream with CLEAR opens its tile (R416); a bound stream is held; an EMITTED one takes the records already delivered. -/
def State.mxAccept (s : State) (gid : GId) (g : Group) (h : Hd) (op : MxOp) (ac : Nat) (x : MxIssue) : State :=
  let t := s.team gid.tid
  let (tok, s1) := s.addTok gid g (pbXb x.pb) false
  let c := s1.core t.sock t.core
  let b := c.bank t.bank
  let n := tileNum t (pbAcc x.pb)
  let b1 := if op.isStream && pbFlag x.pb 0 then b.setTile n { b.tile n with opn := true } else b
  let cmd : MxCmd := ⟨op, x.pb, x.b0, x.b1, ac, gid.tid, gid.g, tok, (s.who gid g 0).job, [], x.rowptr, x.colidx, x.map⟩
  let s2 := s1.setCore t.sock t.core (c.setBank t.bank { b1 with queue := b1.queue ++ [cmd] })
  let s3 := match op with
    | .bound i => (match (s2.team gid.tid).streams[i]? with | some st => s2.setStream gid.tid i { st with busy := true } | none => s2)
    | .stream => if pbFlag x.pb 4 then s2.feedMatrix gid.tid [] else s2
    | _ => s2
  s3.deliver gid { g with credits := g.credits - 1 } h (mkHnd hndToken tok)

/-- A no-op command (R167): accepted without a credit, complete at once. -/
def State.mxNoop (s : State) (gid : GId) (g : Group) (h : Hd) (pb : List Byte) : State :=
  let (tok, s1) := s.addTok gid g (pbXb pb) true
  (s1.xbArrive gid.tid (pbXb pb) (pbXbytes pb)).deliver gid g h (mkHnd hndToken tok)

/-- Checks 5-10 of R170 and acceptance, once block and records are read. -/
def State.mxChecks (s : State) (gid : GId) (g : Group) (h : Hd) (op : MxOp) (ac : Nat) (pb b0 b1 : List Byte) : State :=
  let t := s.team gid.tid
  let w := { s.who gid g 0 with privSize := 0 }
  let sl := (s.launch t.lid).slot ac
  let raw := rawForm op pb
  let e := if raw then Elem.raw else sl.elemOf
  let r0 := Rec.ofBytes b0
  let r1 := Rec.ofBytes b1
  let comp := op == .compress
  if !raw && sl.isEmpty then s.fail gid g Code.fmtEmpty
  else if (!raw && (!elemOk op sl || r0.slot != ac || (comp && r1.slot != ac))) || s.planeMixed op sl t gid.tid then s.fail gid g Code.fmtMismatch
  else match (r0.check e (orgOf (pbOrg pb) 0) op.isDrain).or (if comp then r1.check e (orgOf (pbOrg1 pb) 0) true else none) with
  | some c => s.fail gid g c
  | none =>
    if r0.empty || (comp && r1.empty) then s.mxNoop gid g h pb
    else match s.shapeCheck op pb sl r0 r1 t gid.tid with
    | some c => s.fail gid g c
    | none =>
      let ts := touches op pb sl r0 r1
      let sp := op == .spgather
      let arrays := ts.filter fun x => x.opnd == 4 || x.opnd == 5
      let readable := sp && s.checkTouches w none arrays == .ok
      let rowptr := if readable then s.i32s w (pbAux0 pb) (pbSpn pb + 1) else []
      let cols := if readable then s.i32s w (pbAux1 pb) (r0.t 0) else []
      if readable && !sparseOk (pbSpn pb) (pbSpk pb) (r0.t 0) rowptr cols then s.fail gid g Code.mxSparse
      else if g.credits = 0 then s.fail gid g Code.mxCredit
      else match s.checkTouches w g.phase ts with
      | .fault c a d1 => s.elFault gid g c a d1
      | .wait => s.park gid g
      | .ok => if s.mxHeld t op pb then s.park gid g else s.mxAccept gid g h op ac ⟨pb, b0, b1, rowptr, cols, s.keepMap w.job (segVas (ts.map Touch.seg))⟩

/-- Checks 1-4 of R170. -/
def State.mxIssue (s : State) (gid : GId) (g : Group) (h : Hd) (op : MxOp) (ac : Nat) (p : W64) : State :=
  let w := s.who gid g 0
  let sl := (s.launch (s.team gid.tid).lid).slot ac
  if op == .compress && s.boot.mode == 0 then s.fail gid g Code.mode
  else match s.checkSeg w .read false 0 64 (p, 128) with
  | .fault c a _ => s.elFault gid g c a 0
  | .wait _ => s.park gid g
  | .ok =>
    if winOf p = .priv then s.fail gid g Code.mxParam
    else
      let pb := s.getBytes w p 128
      let comp := op == .compress
      let c0 := s.checkSeg w .read false 0 64 (pbRec0 pb, 64)
      let c1 := if comp then s.checkSeg w .read false 0 64 (pbRec1 pb, 64) else .ok
      let b0 := if c0 = .ok then s.getBytes w (pbRec0 pb) 64 else []
      let b1 := if comp && c1 = .ok then s.getBytes w (pbRec1 pb) 64 else []
      if !paramOk op pb sl || (c0 == .ok && !paramRec0Ok op pb ac (Rec.ofBytes b0)) || (comp && c1 == .ok && !paramRec1Ok pb (Rec.ofBytes b1)) then s.fail gid g Code.mxParam
      else if pbXb pb != 0 && !s.xbOk gid.tid (pbXb pb) then s.fail gid g Code.xbWindow
      else match c0, c1 with
      | .fault c a _, _ => s.elFault gid g c a 0
      | .wait _, _ => s.park gid g
      | .ok, .fault c a _ => s.elFault gid g c a 0
      | .ok, .wait _ => s.park gid g
      | .ok, .ok => s.mxChecks gid g h op ac pb b0 b1

/-- The shape of a matrix instruction: one parameter block, on the elected lane; the group's earlier accesses come before the command's (R173, R356). -/
def mxInstr (op : MxOp) (h : Hd) (slot : BitVec 3) (pb : Opnd) (s : State) : Out :=
  withCur s fun gid g => s.afterReds gid g (fun _ => true) fun s g => s.elect gid g [(.ptr, pb)] fun xs => s.mxIssue gid g h op slot.toNat (xs.getD 0 0)
def execMxLdst (h : Hd) (slot : BitVec 3) (pb : Opnd) (s : State) : Out := mxInstr .ldst h slot pb s
def execMxStream (h : Hd) (slot : BitVec 3) (pb : Opnd) (s : State) : Out := mxInstr .stream h slot pb s
def execMxSpgather (h : Hd) (slot : BitVec 3) (pb : Opnd) (s : State) : Out := mxInstr .spgather h slot pb s
def execMxCompress (h : Hd) (slot : BitVec 3) (pb : Opnd) (s : State) : Out := mxInstr .compress h slot pb s
def execMxDrain (h : Hd) (slot : BitVec 3) (pb : Opnd) (s : State) : Out := mxInstr .drain h slot pb s
def execMxDrainAdd (h : Hd) (slot : BitVec 3) (pb : Opnd) (s : State) : Out := mxInstr .drainAdd h slot pb s
/-- mx.stream.bound (R179). -/
def execMxStreamBound (h : Hd) (slot : BitVec 3) (pb st : Opnd) (s : State) : Out :=
  withCur s fun gid g => s.afterReds gid g (fun _ => true) fun s g => s.elect gid g [(.ptr, pb), (.hnd, st)] fun xs =>
    s.withStream gid g (xs.getD 1 0) fun i x =>
      if x.busy then s.fail gid g Code.streamBusy else s.mxIssue gid g h (.bound i) slot.toNat (xs.getD 0 0)

/-- Exchanges the planes of a bank (R175). -/
def Bank.swapPlanes (b : Bank) : Bank := { b with act := b.shd, shd := b.act }
/-- A command that uses a plane, and one that loads one. -/
def MxOp.loads (op : MxOp) : Bool := op == .ldst || op == .spgather
def MxOp.usesPlane (op : MxOp) : Bool := op.loads || op.isStream || op == .swap
/-- Whether an earlier command e is to be complete before c (R173): through the planes (R175), or through one accumulator tile. -/
def MxCmd.before (s : State) (e c : MxCmd) : Bool :=
  (e.op == .swap && c.op.usesPlane) || (c.op == .swap && e.op.usesPlane) || (e.op.loads && c.op.loads)
  || ((e.op.isStream || e.op.isDrain) && (c.op.isStream || c.op.isDrain) && tileNum (s.team e.tid) (pbAcc e.pb) == tileNum (s.team c.tid) (pbAcc c.pb))
/-- The first command of a queue that p holds of and no earlier one holds back. -/
def firstFree (s : State) (q : List MxCmd) (p : MxCmd → Bool) : Option Nat :=
  (List.range q.length).find? fun i => match q[i]? with
    | some c => p c && !(q.take i).any fun e => e.before s c
    | none => false
/-- Swaps that no earlier command of the queue holds back take effect; n bounds them. -/
def runSwaps (s : State) : Nat → Bank → Bank
  | 0, b => b
  | n + 1, b => match firstFree s b.queue fun c => c.op == .swap with
    | some i => runSwaps s n { b.swapPlanes with queue := b.queue.eraseIdx i }
    | none => b
/-- mx.swap (R175): in acceptance order. -/
def execMxSwap (ce : Bool) (s : State) : Out :=
  withCur s fun gid g =>
    let t := s.team gid.tid
    let c := s.core t.sock t.core
    let b := c.bank t.bank
    let b' := runSwaps s 1 { b with queue := b.queue ++ [⟨.swap, [], [], [], 0, gid.tid, gid.g, 0, 0, [], [], [], []⟩] }
    (s.setCore t.sock t.core (c.setBank t.bank b')).advance gid g ce

/-- mx.wait (R172): it returns when the command is complete, and retires the token; a command that met an error raises DATA_LOSS (R407). -/
def execMxWait (tok : Opnd) (s : State) : Out :=
  withCur s fun gid g => s.elect gid g [(.hnd, tok)] fun xs =>
    let t := s.team gid.tid
    match s.hndCheck gid.tid hndToken (xs.getD 0 0) with
    | .error c => s.fail gid g c
    | .ok i =>
      match t.toks[i]? with
      | none => s.fail gid g Code.hndStale
      | some k =>
        if k.retired then s.fail gid g Code.hndStale
        else if !k.done then s.park gid g
        else match k.lost with
        | some line => s.dataLoss gid g (line, 0)
        | none => (s.setTeam gid.tid { t with toks := setAt t.toks i { k with retired := true, joined := true } }).advance gid g true

-- decoding elements (R53, R166) ----------------------------------------------

/-- The code of element x of a row whose byte i is given. -/
def codeAt (sl : Slot) (byte : Nat → Byte) (x : Nat) : Nat :=
  if sl.elem = 13 then (byte (x / 2)).toNat / 16 ^ (x % 2) % 16
  else
    let n := sl.elemOf.bytes
    leNat ((List.range n).map fun i => byte (x * n + i))

/-- The value of an element code under a scale and band (R53, R56). -/
def elemVal (sl : Slot) (sg : Bool) (code : Nat) (scale : Option Nat) (band : FVal) : FVal × Ev :=
  let el := match elemFmt sl.elem with | some f => f.decode code | none => intVal 8 sg code
  match scale with
  | none => (el, 0)
  | some sc => scaledVal el sc band

/-- The scale of element x of a row (R52, R166). -/
def State.scaleOf (s : State) (w : Who) (r : Rec) (e : Elem) (plane : W64) (row : Row) (x : Nat) : Nat :=
  let j := x / e.block
  let run := leNat (s.getBytes w (plane + BitVec.ofNat 64 (r.rowIndex row * scaleStride r e + 12 * (j / 8))) 12)
  scaleAt run (j % 8)
/-- The band scale of a row. -/
def State.bandOf (s : State) (w : Who) (sl : Slot) (r : Rec) (band : W64) (row : Row) : FVal :=
  if sl.band then bandVal (leNat (s.getBytes w (bandSeg r band row).1 2)) else bandOne

/-- Who a command is to memory. -/
def MxCmd.who (c : MxCmd) : Who := ⟨c.job, c.tid, c.g, 0, 0, c.map⟩
def MxCmd.slotOf (c : MxCmd) (s : State) : Slot := (s.launch (s.team c.tid).lid).slot c.slot

/-- Whether some byte of a run lies in a line in error (R407). -/
def State.segLost (s : State) (w : Who) (g : Seg) : Bool :=
  !s.pln.poison.isEmpty && (List.range g.2).any fun i => (s.poisonAt w (g.1 + BitVec.ofNat 64 i)).isSome
/-- Whether the scale or band that a row of REC0 uses from element x on, n of them, is in error. -/
def State.scaleLost (s : State) (c : MxCmd) (r : Rec) (row : Row) : Bool :=
  let sl := c.slotOf s
  sl.scaled && (s.segLost c.who (scaleSeg r sl.elemOf (pbScale c.pb) (pbOrg c.pb) row) || (sl.band && s.segLost c.who (bandSeg r (pbBand c.pb) row)))
/-- Whether what n bytes of a row from byte x hold is in error. -/
def State.bytesLost (s : State) (c : MxCmd) (r : Rec) (row : Row) (x n : Nat) : Bool := (r.rowSegs row x n).any (s.segLost c.who)

/-- Element x of a row of REC0, from memory or from the bytes taken (R179): its code, scale and band; none where it is absent. -/
def State.cellRaw (s : State) (c : MxCmd) (r : Rec) (row : Row) (m k : Nat) : Option (Nat × Option Nat × FVal) :=
  let sl := c.slotOf s
  let e := sl.elemOf
  let w := c.who
  let x := orgOf (pbOrg c.pb) 0 + k
  let fromData := match c.op with | .bound _ => true | .stream => pbFlag c.pb 4 | _ => false
  if r.e 0 ≤ x || !r.has row then none
  else
    let code := if fromData then codeAt sl (fun i => c.data.getD (m * e.size (r.t 0) + i) 0) k
                else codeAt sl (fun i => s.byteAt w (r.byteAddr row i)) x
    let sc := if sl.scaled then some (s.scaleOf w r e (pbScale c.pb) row x) else none
    some (code, sc, s.bandOf w sl r (pbBand c.pb) row)

/-- The value of an element, and its events. -/
def State.cell (s : State) (c : MxCmd) (r : Rec) (row : Row) (m k : Nat) : Option (FVal × Ev) :=
  (s.cellRaw c r row m k).map fun q => elemVal (c.slotOf s) (pbFlag c.pb 5) q.1 q.2.1 q.2.2

/-- The integer a decoded i8 stands for. -/
def intOf : FVal → Int
  | .fin true n _ => -(n : Int)
  | .fin false n _ => (n : Int)
  | _ => 0

/-- A cell as R420 saves it: an i8 sign-extended; a value as an exact f64; a NaN with its sign and significand at the top of the f64's, a NaN that a decode rule makes being the canonical one. -/
def cellImage (sl : Slot) (v : FVal) (q : Nat × Option Nat × FVal) : W64 :=
  match elemFmt sl.elem with
  | none => BitVec.ofInt 64 (intOf v)
  | some f =>
    let own := (f.decode q.1).isNan && !q.2.2.isNan && (match q.2.1 with | some sc => (scaleVal sc).isSome | none => true)
    if v.isNan && own then
      BitVec.ofNat 64 (q.1 / 2 ^ (f.bits - 1) % 2 * 2 ^ 63 + 0x7FF * 2 ^ 52 + q.1 % 2 ^ f.mbits * 2 ^ (52 - f.mbits))
    else BitVec.ofNat 64 (deliver .f64 (.plain .rne) v).1
/-- The value of a plane's cell. -/
def cellValue (isInt : Bool) (x : W64) : FVal := if isInt then intVal 64 true x.toNat else Fmt.f64.decode x.toNat
/-- A cell of a plane being loaded: its image and its events. One that depends on bytes in error is not loaded (R407, log 13). -/
def State.cellLoad (s : State) (c : MxCmd) (r : Rec) (row : Row) (m k : Nat) : Option (W64 × Ev) :=
  let e := (c.slotOf s).elemOf
  let x := orgOf (pbOrg c.pb) 0 + k
  if s.scaleLost c r row || s.bytesLost c r row (x / e.per * e.bytes) e.bytes then none
  else (s.cellRaw c r row m k).map fun q =>
    let v := elemVal (c.slotOf s) (pbFlag c.pb 5) q.1 q.2.1 q.2.2
    (cellImage (c.slotOf s) v.1 q, v.2)

/-- Row m of REC0's tile, over dimension 1 (R174, R176). -/
def rowAt (pb : List Byte) (m : Nat) : Row :=
  let org := pbOrg pb
  ⟨orgOf org 1 + m, orgOf org 2, orgOf org 3, orgOf org 4⟩

-- planes (R174, R180) --------------------------------------------------------

/-- Cells of a plane from (index, value) pairs. -/
def putCells (m : SMap (Option W64)) : List (Nat × W64) → SMap (Option W64)
  | [] => m
  | (i, v) :: rest => putCells (SMap.put none m i (some v)) rest

/-- The plane that mx.ldst loads, and its events. -/
def State.ldstPlane (s : State) (c : MxCmd) : Plane × Ev :=
  let r := Rec.ofBytes c.rec0
  let cells := (List.range (r.t 1)).flatMap fun n => (List.range (r.t 0)).filterMap fun k =>
    (s.cellLoad c r (rowAt c.pb n) n k).map fun v => (n * 128 + k, v)
  (⟨true, r.t 0, r.t 1, c.slot, pbFlag c.pb 5, (c.slotOf s).isInt, c.tid, putCells [] (cells.map fun p => (p.1, p.2.1))⟩,
   cells.foldl (fun e p => e ||| p.2.2) 0)

/-- The plane that mx.spgather builds. -/
def State.spPlane (s : State) (c : MxCmd) : Plane × Ev :=
  let r := Rec.ofBytes c.rec0
  let cells := (List.range (pbSpn c.pb)).flatMap fun n =>
    let lo := c.rowptr.getD n 0
    (List.range (c.rowptr.getD (n + 1) 0 - lo)).filterMap fun i =>
      (s.cellLoad c r ⟨0, 0, 0, 0⟩ 0 (lo + i)).map fun v => (n * 128 + c.colidx.getD (lo + i) 0, v)
  (⟨true, pbSpk c.pb, pbSpn c.pb, c.slot, pbFlag c.pb 5, (c.slotOf s).isInt, c.tid, putCells [] (cells.map fun p => (p.1, p.2.1))⟩,
   cells.foldl (fun e p => e ||| p.2.2) 0)

-- streams (R61, R176, R177) --------------------------------------------------

/-- One chunk of R61: the exact sum of its products, added to the accumulator with one rounding. -/
def chunkSum (acc : Nat) (ps : List (FVal × FVal)) : Nat × Ev :=
  match ps.map fun p => mulVal p.1 p.2 with
  | [] => (acc, 0)
  | q :: qs =>
    let sum := qs.foldl (fun r p => let a := addVal .rne r.1 p.1; (a.1, r.2 ||| p.2 ||| a.2)) q
    let t := addVal .rne (Fmt.f32.decode acc) sum.1
    let d := deliver .f32 (.plain .rne) t.1
    (d.1, sum.2 ||| t.2 ||| d.2)
/-- Chunks of 32 positions in ascending order. -/
def chunkedSum (acc : Nat) (ps : List (Nat × FVal × FVal)) : Nat → Nat → Nat × Ev
  | 0, _ => (acc, 0)
  | n + 1, c =>
    let r := chunkSum acc ((ps.filter fun p => p.1 / 32 == c).map (·.2))
    let q := chunkedSum r.1 ps n (c + 1)
    (q.1, r.2 ||| q.2)

/-- A pairing of semirings 1-3 into f32 (R177). -/
def pairF (semi : Nat) (a b : FVal) : Nat × Ev := deliver2 .f32 (.plain .rne) (if semi = 3 then mulVal a b else addVal .rne a b)

/-- The identity of a semiring. -/
def semiId (semi : Nat) : Nat :=
  match semi with
  | 1 => Fmt.f32.infBits false
  | 2 => Fmt.f32.infBits true
  | 3 => Fmt.f32.infBits true
  | _ => 0

/-- One accumulator element of a stream: the new bits and the events. -/
def streamElem (semi : Nat) (isInt : Bool) (t : Nat) (ps : List (Nat × FVal × FVal)) : Nat × Ev :=
  if semi = 0 then
    if isInt then ((((t : Int) + (ps.map fun p => intOf p.2.1 * intOf p.2.2).foldl (· + ·) 0) % (2 ^ 32 : Nat)).toNat, 0)
    else chunkedSum t ps 4 0
  else if semi = 4 then (if ps.any (fun p => intOf p.2.1 != 0 && intOf p.2.2 != 0) then t ||| 1 else t, 0)
  else ps.foldl (fun r p => let q := pairF semi p.2.1 p.2.2; (pickFloat .f32 (semi == 1) r.1 q.1, r.2 ||| q.2)) (t, 0)

/-- Whether row m of a stream depends on bytes in error (R407): its scales and band, and its elements where they come from memory. -/
def State.rowLost (s : State) (c : MxCmd) (r : Rec) (m : Nat) : Bool :=
  let row := rowAt c.pb m
  let e := (c.slotOf s).elemOf
  let mem := match c.op with | .bound _ => false | _ => !pbFlag c.pb 4
  !s.pln.poison.isEmpty && r.has row
    && (s.scaleLost c r row || (mem && s.bytesLost c r row (e.size (orgOf (pbOrg c.pb) 0)) (e.size (r.present (pbOrg c.pb)))))

/-- Performs a stream on its tile (R176): the tile and the events. A row that depends on bytes in error is not written (R407). -/
def State.streamTile (s : State) (c : MxCmd) (p : Plane) (tile : Tile) : Tile × Ev :=
  let r := Rec.ofBytes c.rec0
  let sl := c.slotOf s
  let clear := pbFlag c.pb 0
  let isInt := sl.accum == 4
  let rows := ((List.range (r.t 1)).filter fun m => !s.rowLost c r m).map fun m => (m, (List.range (r.t 0)).filterMap fun k => (s.cell c r (rowAt c.pb m) m k).map fun v => (k, v))
  let outs := rows.flatMap fun row => (List.range p.n).map fun n =>
    let i := (pbArow c.pb + row.1) * 64 + n
    let t := if clear then semiId (pbSemi c.pb) else (SMap.get 0 tile.cells i).toNat
    let ps := row.2.filterMap fun a => (SMap.get none p.cells (n * 128 + a.1)).map fun b => (a.1, a.2.1, cellValue p.int b)
    (i, streamElem (pbSemi c.pb) isInt t ps)
  let cells := outs.foldl (fun m o => SMap.put 0 m o.1 (BitVec.ofNat 32 o.2.1)) tile.cells
  let whole := clear && pbArow c.pb == 0 && r.t 1 == 128
  ({ tile with int := if clear then isInt else tile.int, cells := cells, lost := if whole || clear then none else tile.lost },
   outs.foldl (fun e o => e ||| o.2.2) (rows.foldl (fun e row => row.2.foldl (fun e a => e ||| a.2.2) e) 0))

-- drains (R182, R183) --------------------------------------------------------

/-- An accumulator element as an exact value. -/
def accVal (isInt sg : Bool) (bits : Nat) : FVal := if isInt then intVal 32 sg bits else Fmt.f32.decode bits

/-- An unscaled element of a converting drain (R182): the stored bits and the events. An f32 tile converts to i8 signed (log 22). -/
def drainElem (sl : Slot) (isInt sg : Bool) (bits : Nat) : Nat × Ev :=
  match elemFmt sl.elem with
  | some f =>
    if isInt then deliver f sl.mode (intVal 32 sg bits)
    else
      let v := Fmt.f32.decodeFtz sl.ftz bits
      let r := cvtDeliver f sl.mode sl.sat v.1
      (r.1, r.2 ||| v.2)
  | none =>
    if isInt then
      if sl.sat then
        let v : Int := if sg then sgn 32 (BitVec.ofNat 64 bits) else (bits : Int)
        let lo : Int := if sg then -128 else 0
        let hi : Int := if sg then 127 else 255
        if v < lo then (Machine.bits 8 lo, Ev.saturate) else if hi < v then (Machine.bits 8 hi, Ev.saturate) else (Machine.bits 8 v, 0)
      else (bits % 256, 0)
    else
      let v := Fmt.f32.decodeFtz sl.ftz bits
      let r := toInt 8 true sl.round v.1
      (r.1, r.2 ||| v.2)

/-- Packs element codes of a run into bytes: q4 codes by nibbles, others by their size. -/
def packCodes (sl : Slot) (codes : List Nat) : List Byte :=
  if sl.elem = 13 then natLe (packNibbles codes) ((codes.length + 1) / 2)
  else codes.flatMap fun c => natLe c sl.elemOf.bytes

/-- Writes scale j of a row (12 bits of its 96-bit run). -/
def State.putScale (s : State) (w : Who) (r : Rec) (e : Elem) (plane : W64) (row : Row) (j code : Nat) : State :=
  let a := plane + BitVec.ofNat 64 (r.rowIndex row * scaleStride r e + 12 * (j / 8))
  let run := leNat (s.getBytes w a 12)
  let old := scaleAt run (j % 8)
  s.putBytes w a (natLe (run - old * 2 ^ (12 * (j % 8)) + code * 2 ^ (12 * (j % 8))) 12)

/-- An accumulator element that a drain's slot converts: FTZ flushes a subnormal one of an f32 tile (R60). -/
def accFtz (ftz isInt sg : Bool) (bits : Nat) : FVal × Ev := if isInt then (intVal 32 sg bits, 0) else Fmt.f32.decodeFtz ftz bits

/-- One block of a scaled drain (R54, R182): columns from x of a row. Nothing is written of what depends on a band or a run of scales in error (R407). -/
def State.drainBlock (s : State) (c : MxCmd) (r : Rec) (tile : Tile) (m n : Nat) : State × Ev :=
  let sl := c.slotOf s
  let e := sl.elemOf
  let w := c.who
  let row := rowAt c.pb m
  let x := orgOf (pbOrg c.pb) 0 + n
  let vals := (List.range e.block).map fun i =>
    accFtz sl.ftz tile.int (pbFlag c.pb 5) (SMap.get 0 tile.cells ((pbArow c.pb + m) * 64 + pbAcol c.pb + n + i)).toNat
  if sl.band && s.segLost w (bandSeg r (pbBand c.pb) row) then (s, 0)
  else
    let b := encodeBlock sl.elem sl.round sl.ftz (s.bandOf w sl r (pbBand c.pb) row) (vals.map (·.1))
    let s1 := s.putRow w r row (e.size x) (packCodes sl b.codes)
    (if s.segLost w (scaleSeg r e (pbScale c.pb) (pbOrg c.pb) row) then s1 else s1.putScale w r e (pbScale c.pb) row (x / e.block) b.scale,
     vals.foldl (fun a v => a ||| v.2) b.ev)

/-- One unscaled element of a drain: the bits written, by the form, and the events; old is the element's value in memory for add-on-store. Saturation takes an overflow, and an infinite accumulator that is converted into the slot's format, but not an infinity that the element holds already (R59, log 14). -/
def drainOne (c : MxCmd) (sl : Slot) (tile : Tile) (bits old : Nat) : Nat × Ev :=
  let raw := pbFlag c.pb 1
  let sg := pbFlag c.pb 5
  if c.op == .drainAdd then
    if raw then
      if tile.int then ((old + bits) % 2 ^ 32, 0)
      else deliver2 .f32 (.plain .rne) (addVal .rne (Fmt.f32.decode old) (Fmt.f32.decode bits))
    else
      let f := (elemFmt sl.elem).getD .f32
      let o := f.decodeFtz sl.ftz old
      let a := accFtz sl.ftz tile.int sg bits
      let t := addVal sl.round o.1 a.1
      let d := cvtDeliver f sl.mode (sl.sat && !o.1.isInf) t.1
      (d.1, o.2 ||| a.2 ||| t.2 ||| d.2)
  else if raw then (bits, 0)
  else drainElem sl tile.int sg bits

/-- Writes one element of a drain's row m, column n; add-on-store leaves an element in error (R407). -/
def State.drainCell (s : State) (c : MxCmd) (r : Rec) (tile : Tile) (m n : Nat) : State × Ev :=
  let sl := c.slotOf s
  let e := if rawForm c.op c.pb then Elem.raw else sl.elemOf
  let w := c.who
  let row := rowAt c.pb m
  let x := (orgOf (pbOrg c.pb) 0 + n) * e.bytes
  let old := leNat (s.rowBytes w r row x e.bytes)
  let bits := (SMap.get 0 tile.cells ((pbArow c.pb + m) * 64 + pbAcol c.pb + n)).toNat
  if c.op == .drainAdd && s.bytesLost c r row x e.bytes then (s, 0)
  else
    let o := drainOne c sl tile bits old
    (s.putRow w r row x (natLe o.1 e.bytes), o.2)

/-- The pair of R66 over the columns of a row (ROWARG). -/
def rowArg (tile : Tile) (row col : Nat) (n : Nat) : Nat × Nat :=
  let v (i : Nat) : Nat := (SMap.get 0 tile.cells (row * 64 + col + i)).toNat
  (List.range n).foldl (fun r i => pickPair .f32 false r.1 r.2 (v i) i) (pickPair .f32 false (v 0) 0 (v 0) 0)

/-- Runs a step over a list, gathering events. -/
def runSteps {α : Type} (s : State) (f : State → α → State × Ev) : List α → State × Ev
  | [] => (s, 0)
  | x :: xs => let r := f s x; let q := runSteps r.1 f xs; (q.1, r.2 ||| q.2)

/-- Performs a drain (R182, R183): the memory it writes, and the events. -/
def State.drainMem (s : State) (c : MxCmd) (tile : Tile) : State × Ev :=
  let r := Rec.ofBytes c.rec0
  let sl := c.slotOf s
  let org := pbOrg c.pb
  let rows := (List.range (r.t 1)).filter fun m => r.has (rowAt c.pb m)
  let cols := r.present org
  if pbFlag c.pb 2 then
    runSteps s (fun s m =>
      let p := rowArg tile (pbArow c.pb + m) (pbAcol c.pb) (pbSpn c.pb)
      let x := orgOf org 0 * 4
      (s.putRow c.who r (rowAt c.pb m) x ((natLe p.1 4 ++ natLe p.2 4).take (4 * cols)), 0)) rows
  else if sl.scaled && !pbFlag c.pb 1 then
    let b := sl.elemOf.block
    runSteps s (fun s p => s.drainBlock c r tile p.1 p.2) (rows.flatMap fun m => (List.range (cols / b)).map fun j => (m, j * b))
  else runSteps s (fun s p => s.drainCell c r tile p.1 p.2) (rows.flatMap fun m => (List.range cols).map fun n => (m, n))

/-- The tile after a drain: DCLEAR zeroes the drained region, and the tile is no longer open (R182, R416). -/
def drainedTile (c : MxCmd) (tile : Tile) : Tile :=
  let r := Rec.ofBytes c.rec0
  let n := if pbFlag c.pb 2 then pbSpn c.pb else r.t 0
  let cells := if pbFlag c.pb 3 then
      tile.cells.filter fun p => !(decide (pbArow c.pb ≤ p.1 / 64 ∧ p.1 / 64 < pbArow c.pb + r.t 1) && decide (pbAcol c.pb ≤ p.1 % 64 ∧ p.1 % 64 < pbAcol c.pb + n))
    else tile.cells
  { tile with cells := cells, opn := false }

-- compression (R181) ---------------------------------------------------------

/-- Whether a comes before b among magnitudes: strictly higher (R65). -/
def magHigher (sl : Slot) (a b : Nat) : Bool :=
  match elemFmt sl.elem with
  | some f =>
    let m (x : Nat) : FVal := f.decode (x % 2 ^ (f.bits - 1))
    totalLt (m b) (m a)
  | none =>
    let m (x : Nat) : Nat := if x < 128 then x else 256 - x
    decide (m b < m a)
/-- Index of the highest magnitude among positions not yet kept; the lowest wins a tie. -/
def bestIdx (sl : Slot) (codes : List Nat) (kept : List Nat) : Nat :=
  let free := (List.range codes.length).filter fun i => !kept.contains i
  free.foldl (fun b i => if magHigher sl (codes.getD i 0) (codes.getD b 0) then i else b) (free.headD 0)
/-- The P kept positions of a group, ascending. -/
def keepGo (sl : Slot) (codes : List Nat) : Nat → List Nat → List Nat
  | 0, kept => (List.range codes.length).filter fun i => kept.contains i
  | n + 1, kept => keepGo sl codes n (bestIdx sl codes kept :: kept)

/-- Writes nibble i of the metadata plane. -/
def State.putNibble (s : State) (w : Who) (a : W64) (i v : Nat) : State :=
  let p := a + BitVec.ofNat 64 (i / 2)
  let old := (s.byteAt w p).toNat
  let new := if i % 2 = 0 then old / 16 * 16 + v else old % 16 + v * 16
  s.putByte w p (BitVec.ofNat 8 new)

/-- One group of a row: kept values to REC1, their indices to the metadata; nothing of a group in error (R407). -/
def State.compGroup (s : State) (c : MxCmd) (r0 r1 : Rec) (ri : Nat) (rows : Row × Row) (j : Nat) : State × Ev :=
  let sl := c.slotOf s
  let e := sl.elemOf
  let w := c.who
  let g := compG c.pb
  let p := compP c.pb
  let org0 := orgOf (pbOrg c.pb) 0
  let codes := (List.range g).map fun i =>
    let x := org0 + j * g + i
    if r0.e 0 ≤ x || !r0.has rows.1 then 0 else codeAt sl (fun b => s.byteAt w (r0.byteAddr rows.1 b)) x
  let kept := if s.bytesLost c r0 rows.1 ((org0 + j * g) * e.bytes) (g * e.bytes) then [] else keepGo sl codes p []
  let per := r0.t 0 / g * p
  let x1 := orgOf (pbOrg1 c.pb) 0 + j * p
  runSteps s (fun s q =>
    let s1 := if r1.e 0 ≤ x1 + q.1 || !r1.has rows.2 then s
              else s.putRow w r1 rows.2 ((x1 + q.1) * e.bytes) (natLe (codes.getD q.2 0) e.bytes)
    (s1.putNibble w (pbAux0 c.pb) (ri * per + j * p + q.1) q.2, 0)) ((List.range p).zip kept)
def State.compressMem (s : State) (c : MxCmd) : State × Ev :=
  let r0 := Rec.ofBytes c.rec0
  let r1 := Rec.ofBytes c.rec1
  let rows := (r0.tileRows (pbOrg c.pb)).zip (r1.tileRows (pbOrg1 c.pb))
  runSteps s (fun s q => s.compGroup c r0 r1 q.1 q.2.1 q.2.2)
    (((List.range rows.length).zip rows).flatMap fun q => (List.range (r0.t 0 / compG c.pb)).map fun j => (q.1, q.2, j))

-- completion -----------------------------------------------------------------

/-- The first line in error among the runs a command reads (R407). -/
def State.cmdPoison (s : State) (c : MxCmd) : Option Nat :=
  if s.pln.poison.isEmpty then none
  else ((touches c.op c.pb (c.slotOf s) (Rec.ofBytes c.rec0) (Rec.ofBytes c.rec1)).filter fun t => t.acc != .write).foldl
    (fun r t => r.or ((List.range t.seg.2).foldl (fun q i => q.or (s.poisonAt c.who (t.seg.1 + BitVec.ofNat 64 i))) none)) none

/-- Bytes of A a bound stream command needs. -/
def MxCmd.need (c : MxCmd) (s : State) : Nat := let r := Rec.ofBytes c.rec0; (c.slotOf s).elemOf.size (r.t 0) * r.t 1

/-- A bound command takes what its stream holds (R179). -/
def State.takeBound (s : State) (c : MxCmd) : State × MxCmd :=
  match c.op with
  | .bound i =>
    match (s.team c.tid).streams[i]? with
    | none => (s, c)
    | some st =>
      let n := Nat.min (c.need s - c.data.length) st.buf.length
      (s.setStream c.tid i { st with buf := st.buf.drop n, taken := st.taken + n }, { c with data := c.data ++ st.buf.take n })
  | _ => (s, c)
/-- Every bound command of a queue takes what its stream holds. -/
def State.takeBounds (s : State) : List MxCmd → State × List MxCmd
  | [] => (s, [])
  | c :: cs => let r := s.takeBound c; let q := State.takeBounds r.1 cs; (q.1, r.2 :: q.2)

/-- Whether a command's operand bytes have arrived. -/
def MxCmd.arrived (c : MxCmd) (s : State) : Bool :=
  match c.op with
  | .bound _ => decide (c.need s ≤ c.data.length)
  | .stream => !pbFlag c.pb 4 || decide (c.need s ≤ c.data.length)
  | _ => true

/-- What a command does to its bank and to memory (R174-R183): the state and the events. -/
def State.mxPerform (s : State) (c : MxCmd) : State × Ev :=
  let t := s.team c.tid
  let k := s.core t.sock t.core
  let b := k.bank t.bank
  let n := tileNum t (pbAcc c.pb)
  let put (s : State) (b : Bank) : State := let k := s.core t.sock t.core; s.setCore t.sock t.core (k.setBank t.bank b)
  match c.op with
  | .ldst => let r := s.ldstPlane c; (put s { b with shd := r.1 }, r.2)
  | .spgather => let r := s.spPlane c; (put s { b with shd := r.1 }, r.2)
  | .compress => s.compressMem c
  | .swap => (put s b.swapPlanes, 0)
  | .drain => let r := s.drainMem c (b.tile n); (put r.1 (b.setTile n (drainedTile c (b.tile n))), r.2)
  | .drainAdd => let r := s.drainMem c (b.tile n); (put r.1 (b.setTile n (drainedTile c (b.tile n))), r.2)
  | .stream => let r := s.streamTile c b.act (b.tile n); (put s (b.setTile n r.1), r.2)
  | .bound _ => let r := s.streamTile c b.act (b.tile n); (put s (b.setTile n r.1), r.2)

/-- The tile of a command that met an error is lost (R407). -/
def State.mxLost (s : State) (c : MxCmd) (line : Nat) : State :=
  let t := s.team c.tid
  let k := s.core t.sock t.core
  let b := k.bank t.bank
  let n := tileNum t (pbAcc c.pb)
  if c.op.isStream || c.op.isDrain then s.setCore t.sock t.core (k.setBank t.bank (b.setTile n { b.tile n with lost := some line })) else s

/-- Command i of a queue completes (R172): its token, credit, byte count and stream, and the engine's queue. -/
def State.mxFinish (s : State) (sock core bank i : Nat) (c : MxCmd) (lost : Option Nat) : State :=
  let t := s.team c.tid
  let toks := match t.toks[c.tok]? with | some k => setAt t.toks c.tok { k with done := true, lost := lost } | none => t.toks
  let groups := match t.groups[c.g]? with | some g => setAt t.groups c.g { g with credits := g.credits + 1 } | none => t.groups
  let streams := match c.op with
    | .bound i => (match t.streams[i]? with | some st => setAt t.streams i { st with busy := false } | none => t.streams)
    | _ => t.streams
  let s1 := s.setTeam c.tid { t with toks := toks, groups := groups, streams := streams }
  let k := s1.core sock core
  let b := k.bank bank
  let s2 := s1.setCore sock core (k.setBank bank (runSwaps s1 b.queue.length { b with queue := b.queue.eraseIdx i }))
  s2.xbArrive c.tid (pbXb c.pb) (pbXbytes c.pb)

/-- MX_COMMAND_DONE (R172, R173, R184): a bank's oldest command whose operand bytes have arrived, and that no earlier one holds back, is performed whole and completes; its events count to its context (R67). -/
def execMxCommandDone (sock core bank : Nat) (s : State) : Out :=
  let k := s.core sock core
  let b := k.bank bank
  let r := s.takeBounds b.queue
  let s1 := r.1.setCore sock core (k.setBank bank { b with queue := r.2 })
  .next (match firstFree s1 r.2 fun c => c.op != .swap && c.arrived s1 with
    | none => s1
    | some i => match r.2[i]? with
      | none => s1
      | some c =>
        let q := s1.mxPerform c
        let lost := s1.cmdPoison c
        let s2 := match lost with | some line => q.1.mxLost c line | none => q.1
        let vas := segVas ((touches c.op c.pb (c.slotOf s) (Rec.ofBytes c.rec0) (Rec.ofBytes c.rec1)).map Touch.seg)
        ((s2.devTouch c.job vas).mxFinish sock core bank i c lost).countEv ⟨c.tid, c.g⟩ q.2)

end Sys2Proof.Machine
end

