-- ==== Sys2Proof/Machine/Done.lean ====
section
/-! DEFINITION. Ends of teams and launches: DONE words and their outcomes (R196), dependants that fail, the freeing of rows (R197), the termination of a launch (R413), and the withdrawal of Reel requests (R394). -/

namespace Sys2Proof.Machine

-- DONE words (R196, R470) ----------------------------------------------------

/-- The dispatcher as a job to memory: the global window only. -/
def dspWho (job : Nat) : Who := ⟨job, 0, 0, 0, 0, []⟩
/-- The check of the dispatcher's own access to global memory: another window has no bytes for it. -/
def State.dspCheck (s : State) (job : Nat) (acc : Acc) (a n align : Nat) : Chk :=
  let x := BitVec.ofNat 64 a
  if winOf x = .global then s.check (dspWho job) acc x n align
  else if winOf x = .none then .fault Code.addrWindow else .fault Code.addrRange

/-- Whether the store of a DONE word waits for a page being moved (R318). -/
def State.doneWaits (s : State) (job addr : Nat) : Bool := addr != 0 && s.dspCheck job .write addr 8 8 == .wait

/-- Sets bits of DSP_QSTAT of a queue. -/
def State.qstat (s : State) (n : Nat) (m : BitVec 6) : State := let q := s.queue n; s.setQueue n { q with stat := q.stat ||| m }

/-- Writes a DONE word (R196), or drops it with DONEF; counts the launch (R467, R470) and raises the interrupts. -/
def State.doneStore (s : State) (q : BitVec 6) (seq : W32) (job addr status slot : Nat) (irq : Bool) : State :=
  let word := status * 2 ^ 48 + slot * 2 ^ 40 + q.toNat * 2 ^ 32 + seq.toNat
  let s1 :=
    if addr = 0 then s
    else if s.dspCheck job .write addr 8 8 = .ok then s.putBytes (dspWho job) (BitVec.ofNat 64 addr) (natLe word 8)
    else (s.qstat q.toNat 0x10).irq (.launch q seq)
  (if irq then s1.irq (.launch q seq) else s1).jobCount job (if status = 0 then 0 else 1) 1

-- outcomes of launches -------------------------------------------------------

/-- The teams of a launch that have not completed. -/
def State.teamsOf (s : State) (lid : Nat) : List Nat := (s.teams.filter fun p => p.2.lid == lid && p.2.state != .done).map (·.1)

/-- Whether the last team of a launch has completed. -/
def State.gridOver (s : State) (lid : Nat) : Bool :=
  let l := s.launch lid
  (s.teamsOf lid).isEmpty && (l.status.isSome || l.failed || decide (l.teams ≤ l.events.length))

/-- The status a live launch can end with now (R196, R382, R413): none while teams run or slots are held. -/
def State.outcome (s : State) (lid : Nat) : Option Nat :=
  let l := s.launch lid
  if !l.live || l.reelHeld != 0 then none
  else if l.status = some 10 then (if (s.teamsOf lid).isEmpty then some 10 else none)
  else if l.failed then (if l.started.length ≤ l.events.length then some 9 else none)
  else if l.teams ≤ l.events.length then some 0
  else none

/-- The live launches that depend on a launch. -/
def State.dependants (s : State) (lid : Nat) : List Nat := (s.launches.filter fun p => p.2.live && p.2.deps.contains lid).map (·.1)

/-- No further team of a launch starts: a producer of it failed. -/
def State.failLaunch (s : State) (lid : Nat) : State := let l := s.launch lid; s.setLaunch lid { l with failed := true }

/-- Appends an event to the agenda, once. -/
def State.soon (s : State) (i : Instr) : State := if s.agenda.contains i then s else { s with agenda := s.agenda ++ [i] }

/-- Ends launches that can end (R196): the verification record first (R471), then DONE; dependants of one that failed fail in turn. -/
def settleGo : Nat → List Nat → State → State
  | 0, _, s => s
  | _ + 1, [], s => s
  | n + 1, lid :: rest, s =>
    match s.outcome lid with
    | none => settleGo n rest s
    | some st =>
      let l := s.launch lid
      if st != 10 && l.vfy then settleGo n rest (s.soon (.verifyRecord l.queue l.seq))
      else if s.doneWaits l.job.toNat l.done then settleGo n rest s
      else
        let s1 := (s.doneStore l.queue l.seq l.job.toNat l.done st 0 (l.flags / 4 % 2 == 1)).setLaunch lid { l with live := false, status := some st }
        if st = 0 then settleGo n rest s1
        else
          let ds := s1.dependants lid
          settleGo n (rest ++ ds) (ds.foldl State.failLaunch s1)
def State.settle (s : State) (lids : List Nat) : State := settleGo (lids.length + 6 * s.launches.length + 1) lids s

-- the Reel's port (R280, R394) -----------------------------------------------

/-- A slot counts against its grid's quota no more (R382). -/
def State.reelRelease (s : State) (lid : Nat) : State := let l := s.launch lid; s.setLaunch lid { l with reelHeld := l.reelHeld - 1 }

/-- Takes a request out of a stop's port. -/
def State.dropReq (s : State) (sock core id : Nat) : State :=
  let c := s.core sock core
  s.setCore sock core { c with port := c.port.filter fun r => r.id != id }

/-- A group's accepted and unapplied board, capture or fence is withdrawn without effect (R394): a board's emitted payload is its team's again, or waits for the group where the team holds another. -/
def State.withdraw (s : State) (gid : GId) : State :=
  match s.group gid with
  | none => s
  | some g =>
    match g.waits.reelReq with
    | none => s
    | some id =>
      let t := s.team gid.tid
      match (s.core t.sock t.core).port.find? fun r => r.id == id with
      | none => s
      | some r =>
        let s1 := s.dropReq t.sock t.core id
        let pay := match r.kind with | .board p => if r.hint.isSome then some (p.flatMap fun f => natLe f.toNat 8) else g.waits.pay | _ => g.waits.pay
        let s2 := match r.kind with | .board _ => s1.reelRelease t.lid | _ => s1
        let t2 := s2.team gid.tid
        let s3 := if t2.reelPay.isNone then s2.setTeam gid.tid { t2 with reelPay := pay } else s2
        s3.setGroup gid { g with waits := { g.waits with reelReq := none, pay := if t2.reelPay.isNone then none else pay } }

-- ends of teams --------------------------------------------------------------

/-- A row becomes FREE: it is offered in the next placement pass (R199). -/
def State.freeRow (s : State) (t : Team) : State :=
  ({ s with dsp := { s.dsp with freed := s.dsp.freed ++ [(t.sock, t.core, t.bank, t.row, t.job.toNat)] } }).soon .placementPass

/-- The groups of a team are out, and nothing of it issues. -/
def State.stopTeam (s : State) (tid : Nat) : State :=
  let t := s.team tid
  let s1 := (List.range t.groups.length).foldl (fun s i => s.withdraw ⟨tid, i⟩) s
  let t1 := s1.team tid
  let c := s1.core t1.sock t1.core
  let s2 := s1.setCore t1.sock t1.core { c with meetings := c.meetings.filter fun m => m.tid != tid }
  let s3 := s2.setTeam tid { t1 with groups := t1.groups.map fun g => { g with status := .out, active := 0, saved := none, trap := none } }
  { s3 with cur := match s3.cur with | some c => if c.tid = tid then none else some c | none => none }

/-- A team of a terminated launch (R413): its groups stop, unstarted Hod requests are discarded, accepted operations run on; a saved team has nothing left. -/
def State.endTeam (s : State) (tid : Nat) : State :=
  if (s.team tid).state = .saved then s.setTeam tid .none
  else
    let s1 := s.stopTeam tid
    let t := s1.team tid
    let drop (r : HodRing) : HodRing := { r with f := r.k, kicks := [] }
    (s1.setTeam tid { t with state := .draining, hod0 := drop t.hod0, hod1 := drop t.hod1,
                             copies := t.copies.map fun c => if c.held then { c with held := false, live := false } else c }).soon (.completionEvent tid)

/-- Terminates a launch (R413). -/
def State.terminate (s : State) (lid : Nat) : State :=
  let l := s.launch lid
  if !l.live || l.status.isSome then s
  else
    let s1 := s.setLaunch lid { l with status := some 10 }
    ((s1.teamsOf lid).foldl State.endTeam s1).settle [lid]

/-- Terminates launches together (R440, R454, R457, R458): each ends with status 10, also where it depends on another of them. -/
def State.terminateAll (s : State) (lids : List Nat) : State :=
  let mine := lids.eraseDups.filter fun lid => let l := s.launch lid; l.live && l.status.isNone
  let s1 := mine.foldl (fun s lid => s.setLaunch lid { s.launch lid with status := some 10 }) s
  ((mine.flatMap s1.teamsOf).foldl State.endTeam s1).settle mine

/-- Whether every operation of a draining team has joined (R197, R360). A stream that no command takes is discarded. -/
def State.teamJoined (s : State) (tid : Nat) : Bool :=
  let t := s.team tid
  t.hod0.kicks.isEmpty && t.hod1.kicks.isEmpty && t.reds.isEmpty && t.toks.all (fun k => k.done)
  && t.copies.all (fun c => !c.live || (match c.kind with | .stream _ => true | _ => false))
  && (s.core t.sock t.core).port.all fun r => r.tid != tid

/-- A group has ended: it retired, and did not leave by `ctx.bank` (R423). -/
def Group.gone (g : Group) : Bool := g.status == .out && !g.bankDone
/-- When every group that has not ended has executed `ctx.bank`, the team is saved (R423): its row goes FREE, its allocations and what the core holds for it are given back. -/
def State.saveTeam (s : State) (tid : Nat) : State :=
  let t := s.team tid
  if t.state == .resident && t.groups.any Group.bankDone && t.groups.all (fun g => g.bankDone || g.gone) then
    let c := s.core t.sock t.core
    let s1 := s.setCore t.sock t.core { c with quar := c.quar.filter (fun q => q.tid != tid), meetings := c.meetings.filter fun m => m.tid != tid }
    let d := s1.die t.sock
    let s2 := s1.setDie t.sock { d with arrivals := d.arrivals.filter fun a => a.tid != tid }
    (s2.setTeam tid { t with state := .saved, grans := [], groups := t.groups.map fun g => { g with numTrap := [] } }).freeRow t
  else s

/-- COMPLETION_EVENT (R360, R467): a draining team whose operations have joined publishes its event; its row becomes FREE, and its launch may end. -/
def execCompletionEvent (tid : Nat) (s : State) : Out :=
  let t := s.team tid
  .next (if t.state == .resident then s.saveTeam tid
    else if t.state != .draining || !s.teamJoined tid then s
    else
      let l := s.launch t.lid
      let s1 := (s.setLaunch t.lid { l with events := l.events ++ [t.idx] }).jobCount t.job.toNat 2 1
      let s2 := (s1.setTeam tid .none).freeRow t
      (s2.dieSettle t.lid t.sock).settle [t.lid])

/-- The launch of a queue's record, while it is live. -/
def State.liveLaunch (s : State) (q : BitVec 6) (seq : W32) : Option Nat :=
  (s.launches.find? fun p => p.2.live && p.2.queue == q && p.2.seq == seq).map (·.1)

end Sys2Proof.Machine
end

