-- ==== Sys2Proof/Machine/Reel.lean ====
section
/-! DEFINITION. The Reel (R377-R397): the ring, its slots, the four instructions, passages at stops and at the seam. A passage is an event; one that no event names applies nothing (log 23). -/

namespace Sys2Proof.Machine

/-- The position of a core's stop (R377). -/
def ringPos (sock core : Nat) : Nat :=
  match sock with
  | 0 => 2 * core
  | 1 => 128 + 2 * core
  | 2 => 256 + 3 * core
  | _ => 384 + 3 * core
/-- The first time from now on at which slot i stands at position p (R378). -/
def passTime (now i p : Nat) : Nat := now + ((i + p) % 512 + 512 - now % 512) % 512

def State.slot (s : State) (i : Nat) : ReelSlot := SMap.get ReelSlot.reset s.reel.slots i
def State.setSlot (s : State) (i : Nat) (x : ReelSlot) : State :=
  { s with reel := { s.reel with slots := SMap.put ReelSlot.reset s.reel.slots i x } }
/-- Slots in the empty state. -/
def State.emptySlots (s : State) : Nat := 512 - (s.reel.slots.filter fun p => p.2.st != .empty).length

-- acceptance (R384, R385) ----------------------------------------------------

/-- Whether the stop of a group's core takes requests of its job: not during a sweep, nor of a bypassed die (R395, R396). -/
def State.stopOpen (s : State) (t : Team) : Bool := !s.reel.blocked.contains t.job && !s.reel.byp.getLsbD t.sock

/-- A hint operand (R385). -/
def hintOf (x : Lane) : Option (BitVec 9) := if x.toNat % 2 ^ 32 < 512 then some (x.setWidth 9) else none

/-- A request of a group, as its stop's port will hold it. -/
def State.mkReq (s : State) (gid : GId) (g : Group) (k : ReelKind) (key : W64) (hint : Option (BitVec 9)) (sx : Nat) : ReelReq :=
  { kind := k, id := s.reel.nextReq, tid := gid.tid, g := gid.g, job := (s.team gid.tid).job, key := key.setWidth 52, hint := hint, passes := 0,
    since := s.time, cohort := false, applied := false, wjob := (s.who gid g 0).job, sx := sx, lost := .none }
/-- Adds a request to the port of a group's stop. -/
def State.addReq (s : State) (gid : GId) (r : ReelReq) : State :=
  let t := s.team gid.tid
  let c := s.core t.sock t.core
  { s.setCore t.sock t.core { c with port := c.port ++ [r] } with reel := { s.reel with nextReq := s.reel.nextReq + 1 } }

/-- Whether a board, capture or fence can be accepted: five entries free (R384). -/
def State.portRoom (s : State) (gid : GId) : Bool :=
  let t := s.team gid.tid
  s.stopOpen t && decide ((s.core t.sock t.core).port.length ≤ 11)

/-- A waiting request accepted: the group parks until it has its result. -/
def State.reelAccept (s : State) (gid : GId) (g : Group) (r : ReelReq) : State :=
  (s.addReq gid r).park gid { g with waits := { g.waits with reelReq := some r.id } }

/-- The stages of a waiting Reel instruction: its result is there; its request waits; else it is to be requested. -/
def State.reelStage (s : State) (gid : GId) (g : Group) (h : Hd) (k : Unit → State) : State :=
  match g.waits.reelRes with
  | some x => s.deliver gid { g with waits := { g.waits with reelReq := none, reelRes := none } } h x
  | none => match g.waits.reelReq with
    | some _ => s.park gid g
    | none => k ()

/-- The 8 fields of 64 payload bytes. -/
def fieldsOf (bs : List Byte) : List (BitVec 64) := (List.range 8).map fun i => BitVec.ofNat 64 (fld bs (8 * i) 8)

/-- Check 1 of R384. -/
def keyOk (key : W64) : Bool := decide (key.toNat < 2 ^ 52)

/-- reel.board (R386, R387): the payload is read at acceptance, or the team's emitted payload is taken (hint then marks it, for R394). -/
def execReelBoard (h : Hd) (key pay : Opnd) (s : State) : Out :=
  withCur s fun gid g => s.reelStage gid g h fun _ => s.afterReds gid g (fun _ => true) fun s g =>
    s.elect gid g [(.i64, key), (.ptr, pay)] fun xs =>
      let t := s.team gid.tid
      let l := s.launch t.lid
      let k := xs.getD 0 0
      let p := xs.getD 1 0
      let w := s.who gid g (lowest g.active)
      let take (s : State) (g : Group) (bs : List Byte) (emitted : Bool) (lost : Option Nat) : State :=
        let r := s.mkReq gid g (.board (fieldsOf bs)) k (if emitted then some 0 else none) 0
        (s.setLaunch t.lid { l with reelHeld := l.reelHeld + 1 }).reelAccept gid g { r with lost := lost }
      if !keyOk k then s.fail gid g Code.reelKey
      else if l.reelq ≤ l.reelHeld then s.fail gid g Code.reelQuota
      else if p = 0 then
        if !s.portRoom gid then s.park gid g
        else match g.waits.pay with
          | some bs => take s { g with waits := { g.waits with pay := none } } bs true none
          | none => match t.reelPay with
            | some bs => take (s.setTeam gid.tid { t with reelPay := none }) g bs true none
            | none => s.park gid g
      else match s.checkSeg w .read false 0 64 (p, 64) with
        | .fault c a _ => s.elFault gid g c a 0
        | .wait _ => s.park gid g
        | .ok =>
          if winOf p = .priv then s.fail gid g Code.reelForm
          else if !s.portRoom gid then s.park gid g
          else take (s.devTouch w.job (segVas [(p, 64)])) g (s.getBytes w p 64) false (s.poisonAt w p)

/-- reel.capture (R388). -/
def execReelCapture (h : Hd) (op : ReelOp) (field : BitVec 3) (ord : Order) (key hint x y : Opnd) (s : State) : Out :=
  withCur s fun gid g => s.reelStage gid g h fun _ => s.afterReds gid g (fun _ => ord == .release || ord == .acqrel) fun s g =>
    s.elect gid g [(.i64, key), (.i32, hint), (.i64, x), (.i64, y)] fun xs =>
      let k := xs.getD 0 0
      if !keyOk k then s.fail gid g Code.reelKey
      else if !s.portRoom gid then s.park gid g
      else s.reelAccept gid g (s.mkReq gid g (.capture op field (xs.getD 2 0) (xs.getD 3 0)) k (hintOf (xs.getD 1 0))
        (op.code + 16 * field.toNat + 128 * ord.code))

/-- An alight that finds the port full stalls with its cluster held (R384). -/
def State.stall (s : State) (gid : GId) (g : Group) : State := { s.setGroup gid { g with status := .stall } with cur := none }

/-- reel.alight (R389): the group does not wait for it. -/
def execReelAlight (h : Hd) (key hint dst done : Opnd) (s : State) : Out :=
  withCur s fun gid g => s.afterReds gid g (fun _ => true) fun s g =>
    s.elect gid g [(.i64, key), (.i32, hint), (.ptr, dst), (.ptr, done)] fun xs =>
      let t := s.team gid.tid
      let k := xs.getD 0 0
      let d := xs.getD 2 0
      let n := xs.getD 3 0
      if !keyOk k then s.fail gid g Code.reelKey
      else match s.checkSeg (s.who gid g (lowest g.active)) .write false 0 64 (d, 64) with
        | .fault c a _ => s.elFault gid g c a 0
        | .wait _ => s.park gid g
        | .ok =>
          if winOf d != .global && winOf d != .scratch then s.fail gid g Code.reelForm
          else if n != 0 && !s.xbOk gid.tid n then s.fail gid g Code.xbWindow
          else if !s.stopOpen t then s.park gid g
          else if 16 ≤ (s.core t.sock t.core).port.length then s.stall gid g
          else ((s.holdPhase gid.tid g.phase (some s.reel.nextReq) n).addReq gid (s.mkReq gid g (.alight d n) k (hintOf (xs.getD 1 0)) 0)).advance gid g h.ce

/-- Whether the group's requests since its last reel.fence are settled (R390): no alight of it in the port, and every slot acted on has passed the seam. -/
def State.reelSettled (s : State) (gid : GId) (g : Group) : Bool :=
  let t := s.team gid.tid
  (s.core t.sock t.core).port.all (fun r => r.kind == .fence || r.tid != gid.tid || r.g != gid.g)
  && g.reelSince.all fun p => decide (p.2 ≤ (s.slot p.1).seams)

/-- reel.fence (R390). -/
def execReelFence (s : State) : Out :=
  withCur s fun gid g => s.afterReds gid g (fun _ => true) fun s g =>
    if s.reelSettled gid g then
      let t := s.team gid.tid
      let s1 := match g.waits.reelReq with | some id => s.dropReq t.sock t.core id | none => s
      s1.advance gid { g with reelSince := [], waits := { g.waits with reelReq := none } } true
    else match g.waits.reelReq with
      | some _ => s.park gid g
      | none => if s.portRoom gid then s.reelAccept gid g (s.mkReq gid g .fence 0 none 0) else s.park gid g

-- the stop (R385-R392) -------------------------------------------------------

/-- Whether a slot matches a request's key (R385). -/
def ReelReq.finds (r : ReelReq) (x : ReelSlot) : Bool := (x.st == .live || x.st == .alighting) && x.job == r.job && x.key == r.key
/-- Whether the request acts at a passage of slot i: by its hint, or in its search. -/
def ReelReq.looks (r : ReelReq) (i : Nat) : Bool :=
  match r.hint with
  | some h => h.toNat == i
  | none => decide (r.passes < 512)
/-- Whether a stop can apply a request to slot i as it passes (R386, R388, R389). An alight lets a slot that already alights go by (log 23). -/
def State.reelCan (s : State) (i : Nat) (x : ReelSlot) (r : ReelReq) : Bool :=
  let det := (s.launch (s.team r.tid).lid).det
  match r.kind with
  | .board _ => x.st == .empty && (!det || r.key.toNat % 512 == i)
  | .capture _ _ _ _ => r.looks i && r.finds x
  | .alight _ _ => !r.applied && r.looks i && r.finds x && x.st == .live
  | .fence => false

/-- A request whose slot goes by (R385): a hint that finds another key begins the search, and a search counts the passages with no match. -/
def ReelReq.goBy (r : ReelReq) (i : Nat) (x : ReelSlot) : ReelReq :=
  let search : Bool := match r.kind with | .capture _ _ _ _ => true | .alight _ _ => !r.applied | _ => false
  if !search then r
  else match r.hint with
    | some h =>
      if h.toNat != i || r.finds x || (x.st == .boarding && x.job == r.job && x.key == r.key) then r
      else { r with hint := none, passes := 1 }
    | none => { r with passes := if r.finds x then 0 else Nat.min 512 (r.passes + 1) }

/-- The order of a cohort: linear team index, then group (R392). -/
def State.reelBefore (s : State) (a b : ReelReq) : Bool :=
  let i := (s.team a.tid).idx
  let j := (s.team b.tid).idx
  decide (i < j) || (i == j && decide (a.g ≤ b.g))
/-- The first of a cohort. -/
def State.reelFirst (s : State) : List ReelReq → Option ReelReq
  | [] => none
  | r :: rs => match State.reelFirst s rs with
    | none => some r
    | some q => if s.reelBefore r q then some r else some q

/-- The request a stop applies among those that can act, and whether the rest form a cohort (R392). The mode is that of the earliest request's launch (log 23). -/
def State.reelPick (s : State) (rs : List ReelReq) : Option (ReelReq × Bool) :=
  match rs with
  | [] => none
  | r :: _ =>
    if !(s.launch (s.team r.tid).lid).det then some (r, false)
    else
      let held := rs.filter fun q => q.cohort
      match held with
      | [] => (s.reelFirst rs).map fun q => (q, true)
      | _ => (s.reelFirst held).map fun q => (q, false)

/-- The new value of a field under a capture (R388). -/
def captureNew (op : ReelOp) (f x y : W64) : W64 :=
  match op with
  | .read => f
  | .add => f + x
  | .min => if x.toInt < f.toInt then x else f
  | .max => if f.toInt < x.toInt then x else f
  | .argmax =>
    let p := pickPair .f32 false (f.toNat % 2 ^ 32) (f.toNat / 2 ^ 32) (x.toNat % 2 ^ 32) (x.toNat / 2 ^ 32)
    BitVec.ofNat 64 (p.1 + 2 ^ 32 * p.2)
  | .and => f &&& x
  | .or => f ||| x
  | .swap => x
  | .cas => if f = x then y else f
  | .incw => if x.toNat ≤ f.toNat then 0 else f + 1

/-- A group's request has its result: it goes on at once. reel.fence then waits for the slot's seam (R390). -/
def State.reelResult (s : State) (r : ReelReq) (i : Nat) (res : Option W64) : State :=
  let gid : GId := ⟨r.tid, r.g⟩
  match s.group gid with
  | none => s
  | some g =>
    let g1 := { g with reelSince := g.reelSince ++ [(i, (s.slot i).seams + 1)] }
    match res with
    | none => s.setGroup gid g1
    | some x => s.setGroup gid { g1 with waits := { g1.waits with reelRes := some x }, status := if g1.status = .wait then .ready else g1.status }

/-- Applies a request to slot i at a stop (R381, R386, R388, R389). A capture of a payload in error raises DATA_LOSS and writes nothing (R407). -/
def State.reelApply (s : State) (sock core i : Nat) (x : ReelSlot) (r : ReelReq) : State :=
  let t := s.team r.tid
  match r.kind with
  | .board p =>
    (((s.dropReq sock core r.id).holdPhase r.tid ((s.group ⟨r.tid, r.g⟩).bind Group.phase) none 0).setSlot i { x with st := .boarding, job := r.job, key := r.key, grid := t.lid, version := x.version + 1, fields := p, lost := r.lost }).reelResult
      r i (some (BitVec.ofNat 64 i))
  | .capture op k a b =>
    let s1 := s.dropReq sock core r.id
    (match x.lost with
     | some line => (match s1.group ⟨r.tid, r.g⟩ with
       | none => s1
       | some g => s1.raise ⟨r.tid, r.g⟩ { g with waits := { g.waits with reelReq := none } } Code.dataLoss noLane (BitVec.ofNat 64 line) 0)
     | none =>
       let f := x.fields.getD k.toNat 0
       (s1.setSlot i { x with fields := setAt x.fields k.toNat (captureNew op f a b) }).reelResult r i (some f))
  | .alight d n =>
    let c := s.core sock core
    let s1 := s.setCore sock core { c with port := c.port.map fun q => if q.id = r.id then { q with applied := true } else q }
    (s1.setSlot i { x with st := .alighting, dst := d, done := n, dtid := r.tid, wjob := r.wjob, own := some (coreKey sock core, r.id) }).reelResult r i none
  | .fence => s

-- the seam (R379, R381, R396, R397) ------------------------------------------

/-- Empties a slot: it counts against its grid's quota no more, and the launch may end (R382). -/
def State.emptySlot (s : State) (i : Nat) (x : ReelSlot) : State :=
  ((s.setSlot i { ReelSlot.reset with version := x.version, seams := x.seams }).reelRelease x.grid).settle [x.grid]

/-- The record that slot i takes at the seam while a Doffed job's slots are boarded again (R397): its own, else the first that found its slot held (marked by 512). -/
def takeBoard (i : Nat) : List (ReelSlot × Nat) → Option ((ReelSlot × Nat) × List (ReelSlot × Nat))
  | [] => none
  | b :: bs =>
    if b.2 = i || 512 ≤ b.2 then some (b, bs)
    else (takeBoard i bs).map fun r => (r.1, b :: r.2)

/-- An alight has counted on its object: a wait on it joins the alight (R372). -/
def State.alightCounted (s : State) (tid id : Nat) : State :=
  let t := s.team tid
  s.setTeam tid { t with phased := t.phased.map fun o => if o.req = some id then { o with req := none } else o }
/-- What the seam does as slot i passes (R379). -/
def State.seamAct (s : State) (i : Nat) : State :=
  let x0 := s.slot i
  let x := { x0 with seams := x0.seams + 1 }
  let s0 := s.setSlot i x
  let s1 : State :=
    match x.st with
    | .empty =>
      (match takeBoard i s0.reel.boards with
       | none => s0
       | some (b, rest) =>
         { s0.setSlot i { b.1 with st := .live, version := x.version + 1, seams := x.seams } with reel :=
           { (s0.setSlot i { b.1 with st := .live, version := x.version + 1, seams := x.seams }).reel with boards := rest } })
    | .alighting =>
     (let w : Who := ⟨x.wjob, x.dtid, 0, 0, 0, []⟩
      match s0.checkSeg w .write false 0 64 (x.dst, 64) with
      | .wait _ => s0
      | _ =>
        let s2 : State := (s0.putBytes w x.dst (x.fields.flatMap fun (f : W64) => natLe f.toNat 8)).devTouch x.wjob (segVas [(x.dst, 64)])
        let s3 := s2.xbArrive x.dtid x.done 64
        let s4 := match x.own with | some (c, id) => (s3.dropReq (c / 64) (c % 64) id).alightCounted x.dtid id | none => s3
        (s4.emptySlot i x).soon (.completionEvent x.dtid))
    | _ =>
      if s0.reel.sweep = some x.job then
        let s2 := s0.setSlot i { ReelSlot.reset with version := x.version, seams := x.seams }
        { s2 with reel := { s2.reel with swept := s2.reel.swept ++ [(0, x, i)] } }
      else if s0.gridOver x.grid then s0.emptySlot i x
      else s0.setSlot i { x with st := .live }
  let s2 := { s1 with reel := { s1.reel with boards := s1.reel.boards.map fun (b : ReelSlot × Nat) =>
    if b.2 = i && x.st != SlotState.empty then (b.1, b.2 + 512) else b } }
  { s2 with reel := { s2.reel with empty := BitVec.ofNat 10 s2.emptySlots } }

/-- SEAM_PASSAGE (R379): the slot's next passage of position 0. -/
def execSeamPassage (slot : BitVec 9) (s : State) : Out :=
  .next (State.seamAct { s with time := passTime s.time slot.toNat 0 } slot.toNat)

/-- REEL_PASSAGE (R385-R392): the slot's next passage of a core's stop. A seam passage on its way is made first. The stop applies at most one request to the slot; the rest see it go by. -/
def execReelPassage (slot : BitVec 9) (sock core : Nat) (s : State) : Out :=
  let i := slot.toNat
  let t := passTime s.time i (ringPos sock core)
  let s0 := if passTime s.time i 0 ≤ t then State.seamAct { s with time := passTime s.time i 0 } i else s
  let s1 := { s0 with time := t + 1 }
  .next (if s1.reel.byp.getLsbD sock then s1
    else
      let x := s1.slot i
      let c := s1.core sock core
      let can := c.port.filter fun r => s1.reelCan i x r
      match s1.reelPick can with
      | none => s1.setCore sock core { c with port := c.port.map fun r => r.goBy i x }
      | some (r, fresh) =>
        let rest := c.port.map fun q =>
          if q.id = r.id then { q with cohort := false }
          else if fresh && s1.reelCan i x q then { q with cohort := true, passes := 0 }
          else q.goBy i x
        (s1.setCore sock core { c with port := rest }).reelApply sock core i x r)

/-- REEL_NOKEY (R385, R389): a search that 512 passages did not end fails. A capture's group takes the fault; an alight sets its object's ERR to 18, or is logged. -/
def execReelNokey (sock core : Nat) (idx : Nat) (s : State) : Out :=
  .next (match (s.core sock core).port[idx]? with
    | none => s
    | some r =>
      if r.passes < 512 then s
      else
        let gid : GId := ⟨r.tid, r.g⟩
        let s1 := s.dropReq sock core r.id
        match r.kind with
        | .capture _ _ _ _ => (match s1.group gid with
          | none => s1
          | some g => s1.fail gid { g with waits := { g.waits with reelReq := none } } Code.reelNokey)
        | .alight _ n =>
          let s2 := if n != 0 then s1.xbFail r.tid n (errOf Code.reelNokey)
            else s1.logAsync r.tid 2 ⟨r.key.setWidth 64, 0, Code.reelNokey, r.sx, match s1.group gid with | some g => lowest g.active | none => 0, r.g, (s1.team r.tid).idx⟩
          s2.soon (.completionEvent r.tid)
        | _ => s)

end Sys2Proof.Machine
end

