-- ==== Sys2Proof/Machine/Section.lean ====
section
/-! DEFINITION. The save formats (R418-R422): group sections, team sections, divergence records, the record of shared team state; what each restores. -/

namespace Sys2Proof.Machine

-- group sections (R418) ------------------------------------------------------

/-- The frames of a section: one value entry. -/
def valEntry (v : Nat) (x : Val) (ty : Ty) (arg : Bool) : List Byte :=
  natLe v 2 ++ natLe ty.code.toNat 1 ++ natLe ((if x.lost.isSome then 1 else 0) + (if arg then 2 else 0)) 1 ++ natLe 0 4
  ++ (lanes32.flatMap fun l => natLe (if x.lost.isSome then 0 else (laneAt x.lanes l).toNat % 2 ^ ty.bits) (Ty.memSize ty))

/-- Value numbers that the divergence entries of a depth hold as arguments: those of every pending target and of P. -/
def argNums (bs : List BlockInfo) (div : List DivEntry) (depth : Nat) : List Nat :=
  let targets := ((div.filter fun e => e.depth == depth).flatMap fun e => e.p :: e.pending.map (·.1)).eraseDups
  sortBy (fun a b => decide (a ≤ b)) (targets.flatMap fun b => match bs[b]? with | some i => (List.range i.tys.length).map (i.val + ·) | none => []).eraseDups

/-- A frame with its values: the live set, then the arguments. -/
def frameBytes (ws : List W32) (f : Frame) (div : List DivEntry) (depth : Nat) : List Byte :=
  let one (arg : Bool) (v : Nat) : List Byte := let x := SMap.get Val.undef f.vals v; valEntry v x x.ty arg
  let live := liveAt ws f.word
  let args := argNums (blocksOf (items ws)) div depth
  let ents := live.flatMap (one false) ++ args.flatMap (one true)
  natLe f.func 2 ++ natLe (live.length + args.length) 2 ++ natLe f.word 4 ++ natLe f.block 2 ++ natLe 0 2 ++ natLe (16 + ents.length) 4 ++ ents

/-- The frames of a context, outermost first. -/
def framesBytes (ws : Nat → List W32) (div : List DivEntry) : List Frame → Nat → List Byte
  | [], _ => []
  | f :: fs, d => frameBytes (ws f.func) f div d ++ framesBytes ws div fs (d + 1)

/-- The words of a function of a team's module. -/
def State.teamWords (s : State) (tid f : Nat) : List W32 := match s.func (s.team tid).module f with | some fn => fn.words | none => []

/-- A group section (R418), the team section after its frames. The replay list is empty: a request of this model is started when it is accepted (log 24). -/
def State.groupSection (s : State) (gid : GId) (g : Group) (c : Ctx) (team : List Byte) : List Byte :=
  let fr := framesBytes (s.teamWords gid.tid) c.div c.frames.reverse 0
  let bar : Nat := match c.waits.bar with
    | none => 0
    | some w =>
      let done := (s.barOf gid.tid w.bar).complete w.phase
      2 ^ 31 + (if done then 2 ^ 30 + (if w.key then 2 ^ 29 else 0) else 0) + w.bar
  let ph : Nat := match c.waits.bar with | none => 0 | some w => w.phase.toNat
  natLe 1 2 ++ natLe gid.g 1 ++ natLe 0 1 ++ natLe (64 + fr.length + team.length) 4 ++ natLe (s.team gid.tid).module.toNat 8
  ++ natLe c.active.toNat 4 ++ natLe g.ended.toNat 4 ++ natLe c.trap.code 2 ++ natLe c.trap.reason 2
  ++ natLe (if team.isEmpty then 0 else 64 + fr.length) 4 ++ natLe 0 4 ++ natLe 0 4 ++ natLe c.frames.length 4 ++ natLe bar 4 ++ natLe ph 4 ++ natLe 0 12
  ++ fr ++ team

/-- A value entry read back. -/
structure VEnt where
  v : Nat
  ty : Ty
  arg : Bool
  val : Val

/-- Reads n value entries. -/
def readEnts : Nat → List Byte → Option (List VEnt × List Byte)
  | 0, b => some ([], b)
  | n + 1, b =>
    match Ty.ofCode (fld b 2 1) with
    | none => none
    | some ty =>
      let size := Ty.memSize ty
      if ty == .void || b.length < 8 + 32 * size then none
      else
        let flags := fld b 3 1
        let lanes := lanes32.map fun l => ofMem ty ((b.drop (8 + l * size)).take size)
        match readEnts n (b.drop (8 + 32 * size)) with
        | none => none
        | some (es, rest) => some (⟨fld b 0 2, ty, flags / 2 % 2 == 1, ⟨ty, lanes, if flags % 2 = 1 then some 0 else none⟩⟩ :: es, rest)

/-- Reads one frame: its function, word and entries. -/
def readFrame (b : List Byte) : Option ((Nat × Nat × List VEnt) × List Byte) :=
  if b.length < 16 then none
  else match readEnts (fld b 2 2) (b.drop 16) with
    | none => none
    | some (es, rest) => if b.length - rest.length = fld b 12 4 then some ((fld b 0 2, fld b 4 4, es), rest) else none
def readFrames : Nat → List Byte → Option (List (Nat × Nat × List VEnt))
  | 0, b => if b.isEmpty then some [] else none
  | n + 1, b =>
    match readFrame b with
    | none => none
    | some (f, rest) => (readFrames n rest).map (f :: ·)

/-- Whether a frame agrees with its function (R419): a point at its word, and the live set's numbers and types. -/
def frameOk (fns : List Func) (f : Nat × Nat × List VEnt) : Bool :=
  match fns[f.1]? with
  | none => false
  | some fn =>
    let c := cfnOf fns fn
    let want := (liveAt fn.words f.2.1).map fun v => (v, (c.vals[v]?).map fun (x : VInfo) => x.ty)
    pointOk fn.words f.2.1 && ((f.2.2.filter fun e => !e.arg).map fun e => (e.v, some e.ty)) == want

/-- The call that ends right before a word: its callee and first result. -/
def callBefore (ws : List W32) (word : Nat) : Option (Nat × Nat) :=
  match (items ws).find? fun it => it.word + it.len == word with
  | some it => (match it.instr with | .call _ _ f _ _ => some (f.toNat, it.val) | _ => none)
  | none => none

/-- Values of a frame from its entries. -/
def valsOf (es : List VEnt) : SMap Val := es.foldl (fun m e => SMap.put Val.undef m e.v e.val) []

/-- The frames of a section, outermost first in, innermost first out (R247): an outer frame stands at the word after the call of the next. Values already returned by some lanes of a frame are not saved, and are free (log 24). -/
def buildFrames (fns : List Func) (fresh : Nat) : List (Nat × Nat × List VEnt) → Nat → List Frame → Option (List Frame)
  | [], _, acc => some acc
  | f :: rest, dest, acc =>
    match fns[f.1]? with
    | none => none
    | some fn =>
      let rets : List Val := if acc.isEmpty then [] else
        ((retTys fns (fns.length + 1) f.1).getD []).map fun t => ⟨t, lanes32.map fun l => maskTy t (Config.freeWord (fresh + l)), none⟩
      let fr : Frame := ⟨f.1, f.2.1, blockAt fn.words f.2.1, valsOf f.2.2, dest, rets⟩
      match rest with
      | [] => some (fr :: acc)
      | nx :: _ =>
        match callBefore fn.words f.2.1 with
        | some (callee, d) => if callee = nx.1 then buildFrames fns fresh rest d (fr :: acc) else none
        | none => none

-- team sections (R420) -------------------------------------------------------

/-- The saved bytes of a tile. -/
def tileImage (x : Tile) : List Byte := (List.range 8192).flatMap fun i => natLe (SMap.get 0 x.cells i).toNat 4
/-- The saved bytes of a plane. -/
def planeBytes (p : Plane) : List Byte :=
  let pres (b : Nat) : Byte := BitVec.ofNat 8 (((List.range 8).filter fun i => (SMap.get none p.cells (8 * b + i)).isSome).foldl (fun x i => x + 2 ^ i) 0)
  natLe p.k 2 ++ natLe p.n 2 ++ natLe p.slot 1 ++ natLe (if p.sgn then 1 else 0) 1 ++ natLe 0 10
  ++ (List.range 1024).map pres ++ (List.range 8192).flatMap fun i => natLe ((SMap.get none p.cells i).getD 0).toNat 8

/-- A mask of tiles. -/
def tileMask (ts : List Tile) (p : Tile → Bool) : Nat := ((List.range ts.length).filter fun i => match ts[i]? with | some t => p t | none => false).foldl (fun x i => x + 2 ^ i) 0

/-- Held requests of a team, saved with their generation (R417, R420). -/
def Team.savedReqs (t : Team) : List Copy := t.copies.filter fun c => c.held && c.kind == .kicked

/-- The team section (R420). -/
def State.teamSection (s : State) (tid : Nat) : List Byte :=
  let t := s.team tid
  let c := s.core t.sock t.core
  let b := c.bank t.bank
  let ts := (List.range t.acct).map fun i => b.tile (tileNum t i)
  let pl (p : Plane) : Bool := p.loaded && p.tid == tid
  let q := c.quar.filter fun q => q.tid == tid
  let reqs := t.savedReqs
  let opn := tileMask ts (·.opn)
  let lost := tileMask ts (·.lost.isSome)
  natLe 1 2 ++ natLe t.acct 1
  ++ natLe ((if pl b.act then 1 else 0) + (if pl b.shd then 2 else 0) + (if opn = 0 then 0 else 4) + (if lost = 0 then 0 else 8)) 1
  ++ natLe q.length 4 ++ natLe reqs.length 4 ++ natLe (tileMask ts (·.int)) 4 ++ natLe lost 4 ++ natLe opn 4 ++ natLe 0 40
  ++ ts.flatMap tileImage ++ (if pl b.act then planeBytes b.act else []) ++ (if pl b.shd then planeBytes b.shd else [])
  ++ (q.flatMap fun x => natLe x.off.toNat 4 ++ natLe x.xb.toNat 4 ++ natLe 0 8 ++ x.data)
  ++ (reqs.flatMap fun r => r.req ++ natLe r.engine 4 ++ natLe r.gen 4 ++ natLe 0 8)

/-- A tile read back. -/
def readTile (b : List Byte) (int lost opn : Bool) : Tile :=
  { int := int, cells := (List.range 8192).foldl (fun m i => SMap.put 0 m i (BitVec.ofNat 32 (fld b (4 * i) 4))) [], opn := opn, lost := if lost then some 0 else none }
/-- A plane read back. -/
def readPlane (b : List Byte) (tid : Nat) (int : Bool) : Plane :=
  { loaded := true, k := fld b 0 2, n := fld b 2 2, slot := fld b 4 1, sgn := fld b 5 1 % 2 == 1, int := int, tid := tid,
    cells := (List.range 8192).foldl (fun m i =>
      if fld b (16 + i / 8) 1 / 2 ^ (i % 8) % 2 = 1 then SMap.put none m i (some (BitVec.ofNat 64 (fld b (1040 + 8 * i) 8))) else m) [] }
def planeSize : Nat := 16 + 1024 + 65536

/-- Where the parts of a team section lie: planes, quarantine, requests, and its end. -/
def teamParts (b : List Byte) : Nat × Nat × Nat × Nat :=
  let p0 := 64 + 32768 * fld b 2 1
  let np := fld b 3 1 % 2 + fld b 3 1 / 2 % 2
  let q := p0 + planeSize * np
  let r := q + 32 * fld b 4 4
  (p0, q, r, r + 80 * fld b 8 4)

/-- Whether a team section can be restored to a team (R419). -/
def State.teamSectionOk (s : State) (tid : Nat) (b : List Byte) : Bool :=
  let t := s.team tid
  fld b 0 2 == 1 && fld b 2 1 == t.acct && decide ((teamParts b).2.2.2 ≤ b.length)

/-- Restores a team section (R420): tiles and planes; quarantine records, counted; saved requests, held to start before any new fetch. -/
def State.restoreTeam (s : State) (tid : Nat) (b : List Byte) : State :=
  let t := s.team tid
  let c := s.core t.sock t.core
  let k := c.bank t.bank
  let (p0, q, r, _) := teamParts b
  let bit (o i : Nat) : Bool := fld b o 4 / 2 ^ i % 2 == 1
  let k1 := (List.range t.acct).foldl (fun k i =>
    k.setTile (tileNum t i) (readTile (b.drop (64 + 32768 * i)) (bit 12 i) (bit 16 i) (bit 20 i))) k
  let l := s.launch t.lid
  let plane (o : Nat) : Plane := readPlane (b.drop o) tid ((l.slot (fld b (o + 4) 1)).isInt)
  let hasA := fld b 3 1 % 2 == 1
  let hasB := fld b 3 1 / 2 % 2 == 1
  let k2 := { k1 with act := if hasA then plane p0 else k1.act,
                      shd := if hasB then plane (if hasA then p0 + planeSize else p0) else k1.shd }
  let s1 := s.setCore t.sock t.core (c.setBank t.bank k2)
  let s2 := (List.range (fld b 4 4)).foldl (fun s i =>
    let o := q + 32 * i
    let t := s.team tid
    let s1 := s.setTeam tid { t with scratch := SMap.putBytes t.scratch (fld b o 4) ((b.drop (o + 16)).take 16) }
    if fld b (o + 4) 4 = 0xFFFFFFFF then s1 else s1.xbArrive tid (BitVec.ofNat 64 (0xFE * 2 ^ 56 + fld b (o + 4) 4)) 16) s1
  let reqs := (List.range (fld b 8 4)).map fun i =>
    let o := r + 80 * i
    mkCopy 0 ((b.drop o).take 64) ⟨[], [], [], [], 0, []⟩ (fld b (o + 64) 4) 0 t.job.toNat .kicked none (fld b (o + 68) 4) true
  let t2 := s2.team tid
  s2.setTeam tid { t2 with copies := t2.copies.map (fun c => if c.held && c.kind == .kicked then { c with held := false, live := false } else c) ++ reqs }

-- divergence records (R421) --------------------------------------------------

/-- The divergence record, entries oldest first (log 24). -/
def divBytes (c : Ctx) : List Byte :=
  natLe c.div.length 4 ++ natLe (c.frames.length - 1) 4
  ++ c.div.reverse.flatMap fun e =>
    natLe e.p 2 ++ natLe e.depth 2 ++ natLe e.arrived.toNat 4 ++ natLe e.pending.length 4 ++ natLe 0 4
    ++ e.pending.flatMap fun p => natLe p.1 2 ++ natLe 0 2 ++ natLe p.2.toNat 4

/-- Reads n divergence entries; the answer is top first. -/
def readDiv : Nat → List Byte → List DivEntry → List DivEntry
  | 0, _, acc => acc
  | n + 1, b, acc =>
    let k := fld b 8 4
    let ps := (List.range k).map fun i => (fld b (16 + 8 * i) 2, (BitVec.ofNat 32 (fld b (20 + 8 * i) 4) : Mask))
    readDiv n (b.drop (16 + 8 * k)) (⟨fld b 0 2, fld b 2 2, BitVec.ofNat 32 (fld b 4 4), ps⟩ :: acc)

/-- Whether no lane stands in two of a list of masks. -/
def disjointMasks : List Mask → Mask → Bool
  | [], _ => true
  | m :: ms, used => (m &&& used == 0) && disjointMasks ms (used ||| m)

/-- Whether a divergence stack may be restored to a context (R421). blocks: the block count of the function at each depth. -/
def divOk (blocks : Nat → Nat) (frames : Nat) (active ended : Mask) (es : List DivEntry) : Bool :=
  decide (es.length ≤ 32)
  && es.all (fun e => decide (e.depth < frames) && (e.p == exitP || decide (e.p < blocks e.depth)) && e.pending.all fun p => decide (p.1 < blocks e.depth))
  && disjointMasks (active :: ended :: es.flatMap fun e => e.arrived :: e.pending.map (·.2)) 0

-- shared team state (R422) ---------------------------------------------------

/-- Marks as 128 bytes: bit j for count base + j. -/
def markBytes (marks : List W32) (base : W32) : List Byte :=
  natLe ((marks.eraseDups).foldl (fun x m => if (m - base).toNat < 1024 then x + 2 ^ (m - base).toNat else x) 0) 128
def readMarks (b : List Byte) (base : W32) : List W32 :=
  ((List.range 1024).filter fun j => fld b (j / 8) 1 / 2 ^ (j % 8) % 2 == 1).map fun j => base + BitVec.ofNat 32 j

/-- The record of R422. -/
def Team.barBytes (t : Team) : List Byte :=
  ((List.range 16).flatMap fun i =>
    let b := t.bars.getD i .reset
    natLe b.c.toNat 4 ++ natLe ((if b.opn then 1 else 0) + (if b.d then 2 else 0)) 4 ++ natLe b.m.toNat 4 ++ natLe b.arrived.toNat 4)
  ++ natLe t.hod0.k.toNat 4 ++ natLe t.hod0.f.toNat 4 ++ natLe t.hod1.k.toNat 4 ++ natLe t.hod1.f.toNat 4
  ++ t.spools.flatMap fun p =>
    natLe p.claim.toNat 4 ++ natLe p.tail.toNat 4 ++ natLe p.take.toNat 4 ++ natLe p.head.toNat 4 ++ markBytes p.filled p.tail ++ markBytes p.freed p.head

/-- Bytes of the record for a team. -/
def Team.barSize (t : Team) : Nat := 272 + 272 * t.spools.length

/-- A spool's counts read back. -/
def Spool.read (p : Spool) (b : List Byte) : Spool :=
  let w (i : Nat) : W32 := BitVec.ofNat 32 (fld b (4 * i) 4)
  { p with claim := w 0, tail := w 1, take := w 2, head := w 3, filled := readMarks (b.drop 16) (w 1), freed := readMarks (b.drop 144) (w 3) }
/-- The order of R345: HEAD, TAKE, TAIL, CLAIM, at most n apart. -/
def Spool.orderOk (p : Spool) : Bool := decide ((p.take - p.head).toNat + (p.tail - p.take).toNat + (p.claim - p.tail).toNat ≤ p.n)

/-- Kicks for a ring's counts: those kept, or as many as the counts say. -/
def ringRead (r : HodRing) (k f : W32) (job : Nat) : HodRing :=
  { k := k, f := f, kicks := if r.kicks.length = (k - f).toNat then r.kicks else List.replicate (k - f).toNat ⟨0, none, job⟩ }

/-- Restores the record (R422); none where a spool's counts break R345. An open phase's arrivals, whose order is not saved, stand in group order (log 24). -/
def Team.readBars (t : Team) (b : List Byte) : Option Team :=
  let sps := (List.range t.spools.length).filterMap fun i => match t.spools[i]? with | some p => some (p.read (b.drop (272 + 272 * i))) | .none => .none
  if sps.all Spool.orderOk then
    let w (o : Nat) : W32 := BitVec.ofNat 32 (fld b o 4)
    let bars := (List.range 16).map fun i =>
      let arr : BitVec 16 := BitVec.ofNat 16 (fld b (16 * i + 12) 4)
      { Bar.reset with c := w (16 * i), opn := fld b (16 * i + 4) 4 % 2 == 1, d := fld b (16 * i + 4) 4 / 2 % 2 == 1, m := BitVec.ofNat 16 (fld b (16 * i + 8) 4),
                       arrived := arr, order := (List.range 16).filter fun g => arr.getLsbD g }
    some { t with bars := bars, spools := sps, hod0 := ringRead t.hod0 (w 256) (w 260) t.job.toNat, hod1 := ringRead t.hod1 (w 264) (w 268) t.job.toNat }
  else .none

end Sys2Proof.Machine
end

