-- ==== Sys2Proof/Machine/Point.lean ====
section
/-! DEFINITION. Native points (R240-R247): value locations, a native context seen as Flinal state and a group put on the native level at a Flinal point, and the divergence stack of the native level (R269). -/

namespace Sys2Proof.Machine

def XBody.pointAt (x : XBody) (b : Nat) : Option PointRec := x.points.find? fun p => p.bundle == b
/-- The location records of a point. -/
def XBody.locsOf (x : XBody) (p : PointRec) : List (BitVec 64) := (x.locs.drop p.loc).take p.nloc

/-- The last point record at or before a bundle whose kinds include FAULT (R283). -/
def lastFault : List PointRec → Nat → Option PointRec → Option PointRec
  | [], _, r => r
  | p :: ps, b, r => lastFault ps b (if p.bundle ≤ b && p.isFault then some p else r)

/-- The block of a bundle, and the bundle of a block, through the COURSE points (R269); 0xFFFFF and 0xFFFF are the exit. -/
def XBody.blockOf (x : XBody) (b : Nat) : Nat :=
  if b = 0xFFFFF then exitP else match x.points.find? fun p => p.bundle == b && p.isCourse with | some p => p.block | none => 0
def XBody.bundleOf (x : XBody) (blk : Nat) : Nat :=
  if blk = exitP then 0xFFFFF else match x.points.find? fun p => p.block == blk && p.isCourse with | some p => p.bundle | none => 0

/-- A 32-bit word of a spill stack. -/
def NatWin.stackWord (w : NatWin) (a : Nat) : BitVec 32 := BitVec.ofNat 32 (leNat (SMap.bytes w.spill a 4))

/-- The physical line of a poisoned slot (R407). -/
def NatWin.slotLost (w : NatWin) (off : Nat) : Option (Nat × Nat) := (w.poison.find? fun p => p.1 == off).map fun p => (p.2, off)

/-- A value read from its location (R244, R245): its number and the value. vb and sb: the vector and scalar frame bases. -/
def readLoc (g : Group) (vb sb : Nat) (r : BitVec 64) : Nat × Val :=
  let x := r.toNat
  let ty := (Ty.ofCode (fieldNat x 47 44)).getD .i32
  let reg := fieldNat x 39 32
  let slot := fieldNat x 23 0
  let w := g.nat
  let rd (f : RegFile) : Rd := readReg g f reg ty
  let val : Rd := match fieldNat x 43 40 with
    | 0 => rd .vec
    | 1 => rd .vec
    | 2 => rd .scalar
    | 3 => rd .pred
    | 4 => ⟨lanes32.map (fun l => maskTy ty ((w.stackWord (vb + slot + 4 * l)).setWidth 64)), w.slotLost (vb + slot)⟩
    | 5 => ⟨lanes32.map (fun l => maskTy ty (w.stackWord (vb + slot + 128 + 4 * l) ++ w.stackWord (vb + slot + 4 * l))), w.slotLost (vb + slot)⟩
    | 6 => ⟨List.replicate 32 (maskTy ty (w.stackWord (sb + slot + 4) ++ w.stackWord (sb + slot))), w.slotLost (sb + slot)⟩
    | _ => ⟨lanes32.map (fun l => if (w.stackWord (sb + slot)).getLsbD l then 1 else 0), w.slotLost (sb + slot)⟩
  (fieldNat x 63 48, ⟨ty, val.lanes, val.lost.map (·.1)⟩)

/-- The values that points name, added to a value map. -/
def pointVals (g : Group) (vb sb : Nat) (rs : List (BitVec 64)) (m : SMap Val) : SMap Val :=
  rs.foldl (fun m r => let v := readLoc g vb sb r; SMap.put Val.undef m v.1 v.2) m

/-- The frames of a native group as Flinal frames (R246, R247): innermost first, each at its bundle and frame base, through the links of R272. Pending targets' values come from their own COURSE points (R418). -/
def State.natFrames (s : State) (gid : GId) (g : Group) : List Frame → Nat → Nat → Nat → List Frame
  | [], _, _, _ => []
  | f :: fs, b, s0, s1 =>
    let y := s.xbody gid g f.func noResume
    let x := if fs.length + 1 = g.frames.length && g.nat.resume != noResume then s.xbody gid g f.func g.nat.resume else y
    let targets := ((g.div.filter fun e => e.depth == fs.length).flatMap fun e => e.p :: e.pending.map (·.1)).eraseDups
    let args := (targets.filterMap y.pointAt).foldl (fun m p => pointVals g s0 (s0 + y.vframe) (y.locsOf p) m) []
    let fr : Frame := match x.pointAt b with
      | some p => { f with word := p.word, block := p.block, vals := pointVals g s0 (s0 + x.vframe) (x.locsOf p) args }
      | none => { f with vals := args }
    fr :: State.natFrames s gid g fs (g.nat.stackWord (s1 + 8)).toNat (g.nat.stackWord s1).toNat (g.nat.stackWord (s1 + 4)).toNat

/-- A native divergence stack in blocks, and back (R269, R421). -/
def State.divMap (s : State) (gid : GId) (g : Group) (frames : List Frame) (toBlocks : Bool) (es : List DivEntry) : List DivEntry :=
  es.map fun e =>
    let x := s.xbody gid g (frames.reverse.getD e.depth ⟨0, 0, 0, [], 0, []⟩).func noResume
    let f (n : Nat) : Nat := if toBlocks then x.blockOf n else x.bundleOf n
    { e with p := f e.p, pending := e.pending.map fun p => (f p.1, p.2) }

/-- The Flinal view of an interrupted context (R241, R410). -/
def State.flinalCtx (s : State) (gid : GId) (g : Group) (c : Ctx) : Ctx :=
  if c.nat.on then
    let g0 := { g with frames := c.frames, div := c.div, active := c.active, nat := c.nat, saved := none }
    let s0 := (c.nat.scalar 0).toNat
    let s1 := (c.nat.scalar 1).toNat
    { c with frames := s.natFrames gid g0 c.frames c.nat.bundle s0 s1, div := s.divMap gid g0 c.frames true c.div }
  else
    let g0 := { g with frames := c.frames, nat := c.nat, saved := none }
    match c.frames with
    | [] => c
    | f :: fs => { c with frames := { f with word := s.pointWord gid g0 } :: fs }

-- a group put on the native level (R246, R247, R272) --------------------------

/-- The id of a key's written entry (R283). -/
def State.entryId (s : State) (key : XKey) : Option Nat :=
  ((s.cache key.cls.toNat).entries.find? fun e => e.key == key && e.refused == 0).map XEntry.id

/-- A slot of n bytes written: poisoned by a lost value, sound by another. -/
def NatWin.markSlot (w : NatWin) (off n : Nat) (lost : Option Nat) : NatWin :=
  let rest := w.poison.filter fun p => decide (p.1 < off) || decide (off + n ≤ p.1)
  { w with poison := match lost with | some line => (off, line) :: rest | none => rest }
/-- A register marked lost by a lost value. -/
def NatWin.markReg (w : NatWin) (f : RegFile) (n : Nat) (lost : Option Nat) : NatWin :=
  match lost with
  | some line => { w with lost := (f, n, line) :: w.lost }
  | none => w
/-- A value written to its location in the lanes of m (R245, R246); free: the first free value for the bits above it. -/
def NatWin.putLoc (w : NatWin) (free vb sb : Nat) (m : Mask) (r : BitVec 64) (x : Val) : NatWin :=
  let k := r.toNat
  let ty := (Ty.ofCode (fieldNat k 47 44)).getD .i32
  let reg := fieldNat k 39 32
  let off := fieldNat k 23 0
  let word (w : NatWin) (a : Nat) (y : BitVec 32) : NatWin := { w with spill := SMap.putBytes w.spill a (natLe y.toNat 4) }
  let lanes (w : NatWin) (a sh : Nat) : NatWin := (lanesOf m).foldl (fun w l => word w (a + 4 * l) (((laneAt x.lanes l) >>> sh).setWidth 32)) w
  let bits := maskOf (lanes32.filter fun l => (laneAt x.lanes l).getLsbD 0)
  match fieldNat k 43 40 with
  | 0 => (writeReg w free .vec reg ty m x.lanes).markReg .vec reg x.lost
  | 1 => (writeReg w free .vec reg ty m x.lanes).markReg .vec reg x.lost
  | 2 => (writeReg w free .scalar reg ty m x.lanes).markReg .scalar reg x.lost
  | 3 => (writeReg w free .pred reg ty m x.lanes).markReg .pred reg x.lost
  | 4 => (lanes w (vb + off) 0).markSlot (vb + off) 128 x.lost
  | 5 => (lanes (lanes w (vb + off) 0) (vb + off + 128) 32).markSlot (vb + off) 256 x.lost
  | 6 => (word (word w (sb + off) ((laneAt x.lanes 0).setWidth 32)) (sb + off + 4) (((laneAt x.lanes 0) >>> 32).setWidth 32)).markSlot (sb + off) 8 x.lost
  | _ => (word w (sb + off) ((w.stackWord (sb + off) &&& ~~~m) ||| (bits &&& m))).markSlot (sb + off) 4 x.lost
/-- The values of a point written to its locations. every: scalars too, which have one copy for all lanes. -/
def NatWin.putPoint (w : NatWin) (free vb sb : Nat) (m : Mask) (every : Bool) (vals : SMap Val) (rs : List (BitVec 64)) : NatWin :=
  rs.foldl (fun w r =>
    if !every && (fieldNat r.toNat 43 40 = 2 || fieldNat r.toNat 43 40 = 6) then w
    else w.putLoc free vb sb m r (SMap.get Val.undef vals (fieldNat r.toNat 63 48))) w

/-- The registers, or the slot, that keep the specials of the running function (log 9): set whenever control enters it, in the lanes of m. -/
def State.putSpecs (s : State) (gid : GId) (m : Mask) (x : XBody) (w : NatWin) : NatWin :=
  x.specs.foldl (fun w p =>
    let v := special (s.place gid) gid.g .i32 p.1
    match p.2 with
    | .vec n => writeReg w s.fresh .vec n .i32 m v.lanes
    | .sca n => w.putScalar n (v.lane 0)
    | l => let s0 := (w.scalar 0).toNat; w.putLoc s.fresh s0 s0 0xFFFFFFFF (Loc.record 0 0 .i32 l) ⟨.i32, v.lanes, none⟩) w

/-- A frame's values written to the locations of point p of body x, and of its pending targets in the main body y (R247, R418), in the lanes that run in the frame: the paths' own lanes last. Returned values go where results come back (R233). -/
def State.putFrame (s : State) (gid : GId) (g : Group) (f : Frame) (depth : Nat) (x y : XBody) (p : PointRec) (s0 : Nat) (w : NatWin) : NatWin :=
  let es := g.div.filter fun e => e.depth == depth
  let paths := es.flatMap fun e => (e.p, e.arrived) :: e.pending
  let put (m : Option Mask) (w : NatWin) : NatWin := paths.foldl (fun w q => match y.points.find? fun r => r.isCourse && r.block == q.1 && q.1 != exitP with
    | some r => w.putPoint s.fresh s0 (s0 + y.vframe) (m.getD q.2) m.isSome f.vals (y.locsOf r)
    | none => w) w
  let here := (g.div.filter fun e => decide (depth ≤ e.depth)).foldl (fun m e => e.pending.foldl (fun m q => m ||| q.2) (m ||| e.arrived)) g.active
  let w1 := (put (some here) w).putPoint s.fresh s0 (s0 + x.vframe) here true f.vals (x.locsOf p)
  let back := es.foldl (fun m e => if e.p = exitP then m ||| e.arrived else m) (0 : Mask)
  let rets := f.rets.zip (arrivals (s.keyOf gid g f.func noResume).eff.toNat (f.rets.map Val.ty))
  rets.foldl (fun w q => w.putLoc s.fresh s0 s0 back (Loc.record 0 0 q.1.ty q.2) q.1) (put none w1)

/-- The window of a group whose frames, outermost first, stand at points of written entries: each frame's values at its point, the links of R272, and the position. None where a frame has no point or no entry. -/
def State.buildNat (s : State) (gid : GId) (g : Group) : List Frame → Nat → Nat → NatWin → Option NatWin
  | [], _, _, _ => none
  | [f], s0, s1, w =>
    let y := s.xbody gid g f.func noResume
    let r := g.nat.resume
    let x := if r = noResume then y else s.xbody gid g f.func r
    match s.entryId (s.keyOf gid g f.func noResume), s.entryId (s.keyOf gid g f.func r), (if r = noResume then y.resumeAt (s.pointWord gid g) else x.pointAt 0) with
    | some _, some id, some p =>
      let w1 := s.putFrame gid g f (g.frames.length - 1) x y p s0 w
      some { s.putSpecs gid g.active x ((w1.putScalar 0 (BitVec.ofNat 64 s0)).putScalar 1 (BitVec.ofNat 64 s1)) with on := true, entry := id, bundle := p.bundle, resume := r }
    | _, _, _ => none
  | f :: f2 :: fs, s0, s1, w =>
    let y := s.xbody gid g f.func noResume
    match s.entryId (s.keyOf gid g f.func noResume), y.points.find? fun p => p.kind.testBit 4 && p.word == f.word with
    | some id, some p =>
      let w1 := s.putFrame gid g f (g.frames.length - fs.length - 2) y y p s0 w
      let l := s0 + y.vframe + y.sframe
      let link := natLe s0 4 ++ natLe s1 4 ++ natLe p.bundle 4 ++ natLe id 4
      State.buildNat s gid g (f2 :: fs) (l + 16) l { w1 with spill := SMap.putBytes w1.spill l link }
    | _, _ => none
/-- The group on the native level at its Flinal point (R247); none where its entries hold no such point. -/
def State.toNative (s : State) (gid : GId) (g : Group) : Option Group :=
  (s.buildNat gid g g.frames.reverse (g.nat.scalar 0).toNat (g.nat.scalar 1).toNat g.nat).map fun w =>
    { g with nat := w, div := s.divMap gid g g.frames false g.div, frames := g.frames.map fun f => { f with vals := [], rets := [] } }

-- native divergence (R269-R274) ----------------------------------------------

/-- Control goes to a bundle of the main entry. -/
def Group.natGoto (g : Group) (b : Nat) (m : Mask) : Group := { g with nat := { g.nat with bundle := b, resume := noResume }, active := m }
/-- return_from_function(m) without its goto's run (R273): the link at s1 is read back. -/
def Group.natReturn (g : Group) (m : Mask) : Group :=
  let w := g.nat
  let l := (w.scalar 1).toNat
  let word (o : Nat) : W64 := (w.stackWord (l + o)).setWidth 64
  let w1 := { (w.putScalar 0 (word 0)).putScalar 1 (word 4) with bundle := (word 8).toNat, entry := (word 12).toNat, resume := noResume, retried := false }
  { g with nat := w1, frames := g.frames.drop 1, active := m }
/-- run_next of R269, with fuel for entries and frames popped. -/
def natNext : Nat → Group → Group × Bool
  | 0, g => (g, false)
  | n + 1, g =>
    match g.top with
    | some e =>
      match lowestPending e.pending with
      | some (b, m) => (({ g with div := { e with pending := e.pending.erase (b, m) } :: g.div.drop 1 }).natGoto b m, true)
      | none =>
        let g' := { g with div := g.div.drop 1 }
        if e.p = 0xFFFFF then
          if g.depth = 0 then natNext n g'
          else if e.arrived = 0 then natNext n (g'.natReturn 0)
          else (g'.natReturn e.arrived, true)
        else if e.arrived = 0 then natNext n g'
        else (g'.natGoto e.p e.arrived, true)
    | none => if g.depth = 0 then ({ g with active := 0 }, false) else natNext n (g.natReturn 0)

/-- The entry a native group's innermost frame runs in. -/
def State.curBody (s : State) (gid : GId) (g : Group) : XBody := s.xbody gid g g.frame.func g.nat.resume
/-- The group stands at its bundle: the word and block of the bundle's point, where it has one. -/
def State.natSync (s : State) (gid : GId) (g : Group) : Group :=
  match (s.curBody gid g).pointAt g.nat.bundle with
  | some p => g.setFrame { g.frame with word := p.word, block := p.block }
  | none => g
/-- Control has moved: the function's specials stand in their registers again. -/
def State.natEnter (s : State) (gid : GId) (g : Group) : Group :=
  s.natSync gid { g with nat := s.putSpecs gid g.active (s.curBody gid g) g.nat }
/-- run_next on the native level: as State.runNext. -/
def State.natRunNext (s : State) (gid : GId) (g : Group) : State :=
  let (g', more) := natNext (g.div.length + g.frames.length + 1) g
  if more then s.setGroup gid (s.natEnter gid g')
  else if g.inHandler && g'.ended != 0xFFFFFFFF then
    let s' := s.setGroup gid { g' with status := .held }
    { s' with cur := if s'.cur = some gid then none else s'.cur }
  else s.retire gid g'
/-- run_next on the level a group is on. -/
def State.nextLanes (s : State) (gid : GId) (g : Group) : State := if g.nat.on then s.natRunNext gid g else s.runNext gid g

end Sys2Proof.Machine
end

