-- ==== Sys2Proof/Machine/Context.lean ====
section
/-! DEFINITION. Faults, handlers, answers, pre-emption and context (R404-R429): the drain of a stop, entry into and return from the handler, CTX_ANSWER, CTX_PREEMPT, the ctx instructions, rdctr and rdcap. -/

namespace Sys2Proof.Machine

-- the drain of a stop, and the handler (R406, R410) --------------------------

/-- A group leaves every lock-step meeting it waits in (R293). -/
def State.leaveMeetings (s : State) (gid : GId) : State :=
  let t := s.team gid.tid
  let c := s.core t.sock t.core
  s.setCore t.sock t.core { c with meetings := (c.meetings.map fun m =>
    if m.tid = gid.tid then { m with arrived := m.arrived.filter (· != gid.g) } else m).filter fun m => !m.arrived.isEmpty }

/-- Whether a core's bank is being pre-empted (R416). -/
def Core.preBank (c : Core) : Option Nat := if c.preempt.getLsbD 31 then some (if c.preempt.getLsbD 24 then 1 else 0) else none
/-- Whether a group counts as stopped for CTX_PREEMPT: out, held in its handler or for a class 6 interruption, or stopped or in its handler for a pre-emption. One held for a fault does not: its fault is withdrawn (R413). -/
def Group.preStopped (g : Group) : Bool :=
  g.status == .out
  || (g.status == .held && (g.inHandler || (match g.trap with | some t => Code.cls t.code == 6 | none => false)))
  || (!g.preStop && (match g.saved with
    | some c => c.trap.code == Code.preempt
    | none => g.status == .stopping && (match g.trap with | some t => t.code == Code.preempt | none => false)))
/-- The groups of a core's bank whose rows hold a team. -/
def State.bankGroups (s : State) (sock core bank : Nat) : List GId :=
  ((s.teamsOn sock core).filter fun p => p.2.bank == bank).flatMap fun p => (List.range p.2.groups.length).map fun i => ⟨p.1, i⟩
/-- GO of CTX_PREEMPT clears when every group of the bank has stopped; each stops once. -/
def State.preSettle (s : State) (sock core : Nat) : State :=
  let c := s.core sock core
  match c.preBank with
  | none => s
  | some b =>
    let gs := s.bankGroups sock core b
    let out := gs.filter fun i => c.preOut.contains i || (match s.group i with | some g => g.preStopped | none => true)
    s.setCore sock core (if out.length = gs.length then { c with preempt := c.preempt &&& 0x7FFFFFFF, preOut := [] } else { c with preOut := out })

/-- The stop of a halted group of a Doff: reason 3, no record, no handler; a fault it was to take is withdrawn (R413, R436). -/
def State.haltGroup (s : State) (gid : GId) (g : Group) : State :=
  s.setGroup gid { g with
    status := .stopping, drained := true, preStop := false, nat := g.nat.drain,
    trap := some { code := Code.preempt, reason := 3, lane := noLane, d0 := 0, d1 := 0, word := s.pointWord gid g, func := g.frame.func, double := false, opn := false } }

/-- A handler that waits looks again when a group of its team has stopped (R417). -/
def State.wakeHandlers (s : State) (tid : Nat) : State :=
  let t := s.team tid
  s.setTeam tid { t with groups := t.groups.map fun g => if g.status == .wait && g.inHandler then { g with status := .ready } else g }

/-- FAULT_DRAIN_DONE (R406, R408, R409): outstanding native results are written, waiting Reel requests withdrawn (R394), and the stop is reported. -/
def execFaultDrainDone (gid : GId) (s : State) : Out :=
  let s1 := (s.withdraw gid).leaveMeetings gid
  .next (match s1.group gid with
    | none => s
    | some g =>
      match g.trap with
      | none => s
      | some t =>
        if g.status != .stopping then s
        else
          let tm := s1.team gid.tid
          if s.halting tm.job && !g.inHandler then (s1.haltGroup gid g).preSettle tm.sock tm.core
          else ((s1.reportStop gid { g with nat := g.nat.drain } t).wakeHandlers gid.tid).preSettle tm.sock tm.core)

/-- HANDLER_ENTRY (R410): the handler's function is looked up under the group's own EFF (R218). None while a Doff halts the job (R436). -/
def execHandlerEntry (gid : GId) (s : State) : Out :=
  .next (match s.group gid with
    | none => s
    | some g =>
      match g.trap with
      | none => s
      | some t =>
        if g.status != .stopping then s
        else if s.halting (s.team gid.tid).job && !g.inHandler then s.haltGroup gid g
        else
          let s1 := s.enterHandler gid g t
          let tm := s1.team gid.tid
          let s2 := match s1.group gid with
            | none => s1
            | some g1 => if g1.inHandler && g1.status == GStatus.ready then (s1.setGroup gid { g1 with look := 1 }).lookGroup gid else s1
          (s2.wakeHandlers gid.tid).preSettle tm.sock tm.core)

-- answers (R411, R412) -------------------------------------------------------

/-- Reads in quarantine go to scratch, counted, when a drained team's groups issue again (R417). -/
def State.landQuar (s : State) (tid : Nat) : List Quar → State
  | [] => s
  | q :: qs =>
    let t := s.team tid
    let s1 := s.setTeam tid { t with scratch := SMap.putBytes t.scratch q.off.toNat q.data }
    State.landQuar (if q.xb = 0xFFFFFFFF then s1 else s1.xbArrive tid (BitVec.ofNat 64 (0xFE * 2 ^ 56 + q.xb.toNat)) 16) tid qs
/-- Whether a group of the team is still stopped or in its handler. -/
def Team.someStopped (t : Team) : Bool := t.groups.any fun g => g.status != .out && (g.inHandler || g.trap.isSome)
/-- The team's groups issue again (R417), once none of them is stopped or in its handler: its rings are fetched again. -/
def State.unfence (s : State) (tid : Nat) : State :=
  let t := s.team tid
  if !t.fenced || t.someStopped then s
  else
    let s1 := s.setTeam tid { t with fenced := false, groups := t.groups.map fun g => { g with drained := false } }
    let c := s1.core t.sock t.core
    let mine := c.quar.filter fun q => q.tid == tid
    (s1.setCore t.sock t.core { c with quar := c.quar.filter fun q => q.tid != tid }).landQuar tid mine

/-- A group ends with all its lanes. -/
def State.endGroup (s : State) (gid : GId) (g : Group) : State := s.nextLanes gid (g.endLanes 0xFFFFFFFF)

/-- The effect of an ACTION on a group whose interrupted context is in place (R411): t is the stop it answers. A group that goes on looks up the function of its point, or after a `ctx.fill` every function of its call chain (R218, R247). -/
def State.answer (s : State) (gid : GId) (g : Group) (t : Trap) (hasPoint : Bool) (a : Nat) : State :=
  let g1 := { g with status := .ready, trap := none }
  if a = 3 then s.setGroup gid { g with status := .held, trap := some t }
  else if a != 0 && a != 1 then s.terminate (s.team gid.tid).lid
  else if !hasPoint then (s.endGroup gid g1).unfence gid.tid
  else
    let ends := a = 1 || (t.code = Code.trap && t.reason = 2)
    let g2 := { g1 with look := max g1.look 1 }
    ((if ends then s.nextLanes gid (g2.endLanes g2.active) else s.setGroup gid g2).lookGroup gid).unfence gid.tid

/-- The group with its handler popped: the interrupted context is its state again (R411). -/
def Group.popHandler (g : Group) (c : Ctx) : Group :=
  { g with frames := c.frames, div := c.div, active := c.active, nat := c.nat, waits := c.waits, noPoint := !c.hasPoint, saved := none,
           look := if c.filled then c.frames.length else 1, got := none, drained := false, stops := [], begun := c.begun }

/-- RETURN FROM AN EXCEPTION (R411): the handler and the trap frame are popped, and the action taken. A group that executed `ctx.bank` ends, whatever the action (R423). At a filled point no lane of a `trap` ends (R143, R411). -/
def State.leaveHandler (s : State) (gid : GId) (g : Group) (c : Ctx) (a : Nat) : State :=
  let g1 := g.popHandler c
  if g.bankDone then s.setGroup gid { g1 with status := .out, active := 0, trap := none }
  else s.answer gid g1 (if c.filled then { c.trap with reason := 4 } else c.trap) c.hasPoint a

/-- CTX_ANSWER (R412, R413): only a held group of the slot is answered. An answer to a fault inside a handler acts on the interrupted context. -/
def execCtxAnswer (sock core : Nat) (v : W32) (s : State) : Out :=
  let slot := v.toNat % 64
  let a := fieldNat v.toNat 7 6
  .next (if !v.getLsbD 31 || a = 3 then s
    else match (s.bankGroups sock core (slot / 32)).find? fun i => match s.group i with
      | some g => g.status == .held && g.pos == slot % 32
      | none => false with
    | none => s
    | some gid => match s.group gid with
      | none => s
      | some g => match g.saved, g.trap with
        | some c, _ => (s.leaveHandler gid g c a).preSettle sock core
        | none, some t => (s.answer gid g t (!g.noPoint) a).preSettle sock core
        | none, none => s)

/-- CTX_ALOGCTL_k (R415): CLR empties the log and zeroes OVER. -/
def execAlogClear (sock core bank : Nat) (k : BitVec 2) (v : W32) (s : State) : Out :=
  let c := s.core sock core
  let b := c.bank bank
  .next (if !v.getLsbD 31 || decide (2 < k.toNat) then s
    else s.atDie sock <| s.setCore sock core (c.setBank bank (match k.toNat with
      | 0 => { b with log0 := .reset }
      | 1 => { b with log1 := .reset }
      | _ => { b with log2 := .reset })))

-- pre-emption (R416) ---------------------------------------------------------

/-- Whether an accepted alight of a group waits in its stop's port (R394). -/
def State.alighting (s : State) (gid : GId) : Bool :=
  let t := s.team gid.tid
  (s.core t.sock t.core).port.any fun r => r.tid == gid.tid && r.g == gid.g && !r.applied && (match r.kind with | .alight _ _ => true | _ => false)
/-- Whether a group can be switched out where it stands: at a point, with no Reel result to deliver and no alight to apply. -/
def State.canStop (s : State) (gid : GId) (g : Group) : Bool :=
  s.cur != some gid && !g.inHandler && g.waits.reelRes.isNone && !s.alighting gid
  && (match g.status with | .ready | .wait | .wmark | .xlat | .lock | .held => true | _ => false)
/-- Whether a tile of a team is open (R416). -/
def State.tileOpen (s : State) (tid : Nat) : Bool :=
  let t := s.team tid
  let b := (s.core t.sock t.core).bank t.bank
  (List.range t.acct).any fun i => (b.tile (tileNum t i)).opn

/-- Stops a group at its next point with reason 3 (R416, R417): at once, or as soon as it can be. A fault it was held for is withdrawn (R413). -/
def State.stopAt (s : State) (gid : GId) : State :=
  match s.group gid with
  | none => s
  | some g =>
    if g.status = .out || (g.preStopped && (match g.trap with | some t => Code.cls t.code == 6 || g.inHandler | none => false)) then s
    else if !s.canStop gid g then s.setGroup gid { g with preStop := true }
    else
      let s1 := s.withdraw gid
      let g1 := (s1.group gid).getD g
      s1.stopGroup gid { g1 with preStop := false }
        { code := Code.preempt, reason := 3, lane := noLane, d0 := 0, d1 := 0, word := s1.pointWord gid g1, func := g1.frame.func, double := false,
          opn := s1.tileOpen gid.tid }

/-- Every group of the bank that has not stopped yet is stopped. -/
def State.stopBank (s : State) (sock core bank : Nat) : State :=
  (((s.bankGroups sock core bank).filter fun i => !(s.core sock core).preOut.contains i).foldl State.stopAt s).preSettle sock core
/-- The yield point of a bank: no tile open, and every accepted command complete. -/
def Bank.atYield (b : Bank) : Bool := b.queue.isEmpty && b.tiles.all fun p => !p.2.opn

/-- A group that runs its handler when GO is written stops again at its tret, and has not stopped until then (R416). -/
def State.stopLater (s : State) (gid : GId) : State :=
  match s.group gid with
  | none => s
  | some g => if g.inHandler && g.status != .held then s.setGroup gid { g with preStop := true } else s
/-- CTX_PREEMPT (R416): a write while GO reads 1 is ignored. -/
def execPreemptRequest (sock core : Nat) (v : W32) (s : State) : Out :=
  let c := s.core sock core
  let s1 := s.setCore sock core { c with preempt := v &&& 0x81FFFFFF, preOut := [] }
  .next (if c.preempt.getLsbD 31 then s
    else s.atDie sock <| if v.getLsbD 31 then ((s.bankGroups sock core (if v.getLsbD 24 then 1 else 0)).foldl State.stopLater s1).preSettle sock core else s1)
/-- The bank reaches its yield point. -/
def execPreemptYield (sock core : Nat) (s : State) : Out :=
  let c := s.core sock core
  .next (match c.preBank with
    | none => s
    | some b => if (c.bank b).atYield then s.stopBank sock core b else s)
/-- LIMIT expires; a LIMIT of 0 does not. -/
def execPreemptLimit (sock core : Nat) (s : State) : Out :=
  let c := s.core sock core
  .next (match c.preBank with
    | none => s
    | some b => if c.preempt.toNat % 2 ^ 24 = 0 then s else s.stopBank sock core b)

-- the ctx instructions (R417-R423, R429) -------------------------------------

/-- CTX_STATE outside a handler (R429). -/
def State.withCtx (s : State) (gid : GId) (g : Group) (k : Ctx → State) : State :=
  match g.saved with
  | none => s.fail gid g Code.ctxState
  | some c => k c

/-- The pointer of a ctx instruction (R429): the global window. k gets it with the accessor. -/
def State.ctxPtr (s : State) (gid : GId) (g : Group) (p : Opnd) (k : State → Group → Ctx → Who → W64 → State) : State :=
  s.withCtx gid g fun _ => s.afterReds gid g (fun _ => true) fun s g => s.withCtx gid g fun c => s.elect gid g [(.ptr, p)] fun xs =>
    let a := xs.getD 0 0
    if winOf a != .global then s.elFault gid g Code.addrWindow a 0
    else k s g c (s.who gid g (lowest g.active)) a
/-- Reads the n bytes of an object aligned to 64 (R429, R475), or faults, or waits. -/
def State.ctxRead (s : State) (gid : GId) (g : Group) (w : Who) (a : W64) (n : Nat) (k : List Byte → State) : State :=
  match s.checkSeg w .read false 0 64 (a, n) with
  | .fault c x _ => s.elFault gid g c x 0
  | .wait _ => s.park gid g
  | .ok => k (s.getBytes w a n)
/-- Writes an object aligned to 64 and goes on, or faults, or waits. -/
def State.ctxWrite (s : State) (gid : GId) (g : Group) (w : Who) (a : W64) (bs : List Byte) (ce : Bool) : State :=
  match s.checkSeg w .write false 0 64 (a, bs.length) with
  | .fault c x _ => s.elFault gid g c x 0
  | .wait _ => s.park gid g
  | .ok => ((s.putBytes w a bs).devTouch w.job (segVas [(a, bs.length)])).advance gid g ce

/-- The issuing group with another interrupted context. -/
def Group.setCtx (g : Group) (c : Ctx) : Group := { g with saved := some c }

/-- Whole-package mode (R417): an engine's held kicked requests go back into the ring, oldest first. -/
def Team.putBack (t : Team) (e : Nat) : Team :=
  let held := t.copies.filter fun c => c.held && c.engine == e && c.kind == .kicked
  let d := held.length
  let r := t.ring e
  let f : W32 := r.f - BitVec.ofNat 32 d
  let slot (i : Nat) : Nat := 4096 * e + 64 * ((f + BitVec.ofNat 32 i).toNat % 64)
  let scratch := ((List.range d).zip held).foldl (fun m p => SMap.putBytes m (slot p.1) p.2.req) t.scratch
  let copies := t.copies.map fun (c : Copy) => if c.held && c.engine == e && c.kind == .kicked then { c with held := false, live := false } else c
  { t with scratch := scratch, copies := copies }.setRing e { r with f := f, kicks := (held.map fun (c : Copy) => Kick.mk c.g c.phase c.job) ++ r.kicks }

/-- Whether step 1 of ctx.drain is done for a group other than the one that drains. -/
def Group.isStopped (g : Group) : Bool := g.status == .out || g.inHandler || g.status == .held
/-- Whether the engines of a fenced team stand still: copies with their bytes at hand, matrix commands, alights (R417 steps 2, 4, 6). In a pre-emption a command whose data has not come does not count: its limit has expired. -/
def State.teamStill (s : State) (pre : Bool) (tid : Nat) : Bool :=
  let t := s.team tid
  let c := s.core t.sock t.core
  t.copies.all (fun x => !x.live || x.held || (match x.kind with | .stream _ => true | _ => false)
    || (reqSemit x.req && decide (x.emitted.length < reqLen x.req)))
  && (c.b0.queue ++ c.b1.queue).all (fun q => q.tid != tid || (pre && !q.arrived s))
  && c.port.all fun r => r.tid != tid

/-- ctx.drain (R417): its steps are taken in order and each once, so a group that it has stopped is not stopped again when its handler has returned. -/
def execCtxDrain (s : State) : Out :=
  withCur s fun gid g => s.withCtx gid g fun x =>
    if g.drained then s.advance gid g true
    else
      let others := (List.range (s.team gid.tid).groups.length).filter fun i => i != gid.g && !g.stops.contains i
      let s1 := others.foldl (fun s i => s.stopAt ⟨gid.tid, i⟩) s
      let t := s1.team gid.tid
      let seen := others.filter fun i => match t.groups[i]? with | some x => x.isStopped | none => true
      let g1 := { g with stops := (if g.stops.isEmpty then [16] else g.stops) ++ seen }
      if seen.length != others.length then s1.park gid g1
      else
        let c := s1.core t.sock t.core
        let s2 := if t.fenced || g.stops.contains gid.g then s1 else (s1.setTeam gid.tid { t with fenced := true }).setCore t.sock t.core { c with gen := c.gen + 1 }
        let g2 := { g1 with stops := if g.stops.contains gid.g then g1.stops else gid.g :: g1.stops }
        let (s3, done) := s2.performReds gid.tid (s2.team gid.tid).reds
        if !done || !s3.teamStill (x.trap.code == Code.preempt) gid.tid then s3.park gid g2
        else
          let t3 := s3.team gid.tid
          let t4 := if s3.dsp.mode = 0 then (t3.putBack 0).putBack 1 else t3
          let s4 := s3.setTeam gid.tid { t4 with groups := t4.groups.map fun x => { x with drained := true, stops := [] } }
          s4.advance gid ((s4.group gid).getD g) true

/-- The lowest-indexed group of a team that has not ended. -/
def Team.lowestGroup (t : Team) : Nat := ((List.range t.groups.length).find? fun i => match t.groups[i]? with | some g => !g.gone | .none => false).getD 16

/-- Whether a group of a team is in a ctx.drain that has not returned. -/
def Team.inDrain (t : Team) : Bool := t.groups.any fun g => !g.gone && !g.stops.isEmpty
/-- ctx.spill (R418, R419). The group that writes the team section waits for a ctx.drain that any group of the team has begun (R449). -/
def execCtxSpill (p : Opnd) (s : State) : Out :=
  withCur s fun gid g => s.ctxPtr gid g p fun s g c w a =>
    let t := s.team gid.tid
    let lowest := decide (t.lowestGroup = gid.g)
    if lowest && t.inDrain then s.park gid g
    else
      let team := if lowest && g.drained then s.teamSection gid.tid else []
      s.ctxWrite gid g w a (s.groupSection gid g (s.flinalCtx gid g c) team) true

/-- Executes a replay entry (R418, R419): the bind, put or get at its word, with the request it saved. -/
def State.replay (s : State) (gid : GId) (g : Group) (b : List Byte) : State :=
  let t := s.team gid.tid
  let w := { s.who gid g 0 with privSize := 0 }
  let ws := s.teamWords gid.tid (fld b 4 2)
  let p := BitVec.ofNat 64 (fld b 8 8)
  let gen := (s.core t.sock t.core).gen
  match s.checkSeg w .read false 0 64 (p, 64) with
  | .ok =>
    let r := s.getBytes w p 64
    let add (m : HodMode) (k : CopyKind) (e : BitVec 1) : State :=
      match s.hodIssue w t.sock g.phase r m with
      | .ok q =>
        (match k, s.freeFifo t.sock t.core with
         | .stream x, some bank =>
           let s1 := s.setTeam gid.tid { t with streams := t.streams ++ [⟨q.len, [], 0, 0, false, 0, bank⟩] }
           s1.addCopy gid.tid (mkCopy p r { q with chunks := List.range ((q.len + 15) / 16) } e.toNat gid.g w.job (.stream x) g.phase gen false)
         | .stream _, none => s
         | _, _ => s.addCopy gid.tid (mkCopy p r q e.toNat gid.g w.job k g.phase gen false))
      | _ => s
    (match ((items ws).find? fun it => it.word == fld b 0 4).map Item.instr with
     | some (.hodBind _ e _) => add .bind (.stream t.streams.length) e
     | some (.hodPut _ e _) => add .put .put e
     | some (.hodGet _ e _) => add .get .get e
     | _ => s)
  | _ => s

/-- The interrupted context that a section gives (R418, R419); none where CTX_FORMAT is raised. It stands at the filled point. -/
def State.fillCtx (s : State) (gid : GId) (c : Ctx) (b : List Byte) : Option Ctx :=
  let t := s.team gid.tid
  let fns := match s.module t.module with | some m => m.funcs | none => []
  let teamOff := fld b 28 4
  let ends := [teamOff, fld b 36 4, fld b 4 4].filter (· != 0)
  let stop := ends.foldl Nat.min (fld b 4 4)
  if fld b 0 2 != 1 || BitVec.ofNat 64 (fld b 8 8) != t.module || decide (stop < 64) then none
  else match readFrames (fld b 40 4) ((b.take stop).drop 64) with
    | none => none
    | some fs =>
      if fs.isEmpty || !fs.all (frameOk fns) || (teamOff != 0 && !s.teamSectionOk gid.tid (b.drop teamOff)) then none
      else match buildFrames fns s.fresh fs 0 [] with
        | none => none
        | some frames =>
          let bw := fld b 44 4
          let bar : Option BarWait := if bw.testBit 31 then some ⟨bw % 16, BitVec.ofNat 32 (fld b 48 4), bw.testBit 30, bw.testBit 29⟩ else none
          some { c with frames := frames, div := [], active := BitVec.ofNat 32 (fld b 16 4), hasPoint := true, nat := .clear,
                        waits := { Waits.clear with bar := bar }, filled := true, begun := false }

/-- ctx.fill (R419): checked whole before any effect; a team section is restored, then the replay list issued. -/
def execCtxFill (p : Opnd) (s : State) : Out :=
  withCur s fun gid g => s.ctxPtr gid g p fun s g c w a => s.ctxRead gid g w a 64 fun h =>
    s.ctxRead gid g w a (Nat.max 64 (fld h 4 4)) fun b =>
      match s.fillCtx gid c b with
      | none => s.fail gid g Code.ctxFormat
      | some c1 =>
        let g1 := { g.setCtx c1 with ended := BitVec.ofNat 32 (fld b 20 4) }
        let s1 := { s.setGroup gid g1 with fresh := s.fresh + 32 * c1.frames.length }
        let s2 := if fld b 28 4 = 0 then s1 else s1.restoreTeam gid.tid (b.drop (fld b 28 4))
        let s3 := (List.range (fld b 32 4)).foldl (fun s i => s.replay gid g1 (b.drop (fld b 36 4 + 16 * i))) s2
        s3.advance gid ((s3.group gid).getD g1) true

/-- ctx.bank (R423). -/
def execCtxBank (b : Opnd) (s : State) : Out :=
  withCur s fun gid g => s.withCtx gid g fun _ => s.elect gid g [(.i32, b)] fun xs =>
    if uns 32 (xs.getD 0 0) != (s.team gid.tid).bank then s.fail gid g Code.ctxState
    else
      let s1 := s.advance gid { g with bankDone := true } true
      s1.saveTeam gid.tid

/-- Bytes of a divergence record of n entries from address a, as far as it can be read; none where an entry count passes the pool (R269, R421). -/
def State.divLen (s : State) (w : Who) (a : W64) : Nat → Nat → SegChk × Option Nat
  | 0, off => (.ok, some off)
  | n + 1, off =>
    match s.checkSeg w .read false 0 1 (a + BitVec.ofNat 64 off, 16) with
    | .ok =>
      let k := leNat (s.getBytes w (a + BitVec.ofNat 64 (off + 8)) 4)
      if 32 < k then (.ok, none)
      else match s.checkSeg w .read false 0 1 (a + BitVec.ofNat 64 off, 16 + 8 * k) with
        | .ok => State.divLen s w a n (off + 16 + 8 * k)
        | r => (r, none)
    | r => (r, none)

/-- ctx.div save (R421). -/
def execCtxDivSave (ce : Bool) (p : Opnd) (s : State) : Out :=
  withCur s fun gid g => s.ctxPtr gid g p fun s g c w a => s.ctxWrite gid g w a (divBytes (s.flinalCtx gid g c)) ce
/-- ctx.div restore (R421). -/
def execCtxDivRestore (ce : Bool) (p : Opnd) (s : State) : Out :=
  withCur s fun gid g => s.ctxPtr gid g p fun s g c w a => s.ctxRead gid g w a 8 fun h =>
    let n := fld h 0 4
    if 32 < n then s.fail gid g Code.ctxFormat
    else match s.divLen w a n 8 with
      | (.fault code x _, _) => s.elFault gid g code x 0
      | (.wait _, _) => s.park gid g
      | (.ok, none) => s.fail gid g Code.ctxFormat
      | (.ok, some len) =>
        let es := readDiv n ((s.getBytes w a len).drop 8) []
        let blocks (d : Nat) : Nat := (blocksOf (items (s.teamWords gid.tid (c.frames.reverse.getD d ⟨0, 0, 0, [], 0, []⟩).func))).length
        if !divOk blocks c.frames.length c.active g.ended es then s.fail gid g Code.ctxFormat
        else
          let g0 := { g with saved := none }
          let es' := if c.nat.on then s.divMap gid g0 c.frames false es else es
          s.advance gid (g.setCtx { c with div := es' }) ce

/-- ctx.bar save (R422). -/
def execCtxBarSave (ce : Bool) (p : Opnd) (s : State) : Out :=
  withCur s fun gid g => s.ctxPtr gid g p fun s g _ w a => s.ctxWrite gid g w a (s.team gid.tid).barBytes ce
/-- ctx.bar restore (R422). -/
def execCtxBarRestore (ce : Bool) (p : Opnd) (s : State) : Out :=
  withCur s fun gid g => s.ctxPtr gid g p fun s g _ w a => s.ctxRead gid g w a (s.team gid.tid).barSize fun b =>
    match (s.team gid.tid).readBars b with
    | none => s.fail gid g Code.ctxFormat
    | some t =>
      let s1 := (s.setTeam gid.tid t).barSettleAll gid.tid (List.range 16)
      let s2 := s1.dieSettle t.lid t.sock
      s2.advance gid ((s2.group gid).getD g) ce

/-- A bay, its die and the package go on by a cycle (log 10). -/
def State.tick (s : State) (sock bay : Nat) : State :=
  let b := s.bay sock bay
  let s1 := s.setBay sock bay { b with cycles := b.cycles + 1 }
  let d := s1.die sock
  { s1.setDie sock { d with cycles := d.cycles + 1 } with time := s.time + 1 }
/-- A course of a group retires (R68): its events are applied to its context, whose window may close, and it is counted (R426, R470). One bay cycle passes (log 10). -/
def State.retireCourse (s : State) (gid : GId) : State :=
  match s.group gid with
  | none => s
  | some g =>
    let t := s.team gid.tid
    let s1 := (s.setGroup gid { g with evs := [], begun := false, courses := g.courses + 1,
                                          nat := if g.nat.on then g.nat else { g.nat with resume := noResume } }).count gid g.evs
    let c := s1.core t.sock t.core
    let b := c.bank t.bank
    let b1 := { b with retired := b.retired + 1 }
    let full := b1.window != 0 && decide (b1.window.toNat ≤ b1.retired.toNat)
    let s2 := s1.setCore t.sock t.core (c.setBank t.bank b1)
    let s3 := if full then { s2 with agenda := .numWindowClose t.sock t.core t.bank :: s2.agenda } else s2
    ((s3.jobCount t.job.toNat 3 1).jobCount t.job.toNat 4 1).tick t.sock (bayOf t.core)

/-- tret (R411): ACTION is read from the trap record by the supervisor. The handler's course ends. -/
def execTret (s : State) : Out :=
  withCur s fun gid g => s.withCtx gid g fun c =>
    let a := s.recAddr gid g + 44
    match s.checkSeg (supervisor gid) .read false 0 4 (a, 4) with
    | .fault code x _ => s.elFault gid g code x 0
    | .wait _ => s.park gid g
    | .ok =>
      let s0 := (s.issueDone gid).retireCourse gid
      let s1 := s0.leaveHandler gid ((s0.group gid).getD g) c (leNat (s.getBytes (supervisor gid) a 4))
      let s2 := { s1 with cur := none }
      match s2.group gid with
      | some g2 => if g2.preStop && g2.status == .ready then s2.stopAt gid else s2
      | none => s2

-- rdctr and rdcap (R426, R427) -----------------------------------------------

/-- PLN_MODE's code as rdctr 5 gives it: 0 normal, 1 start-up, 2 test, 3 recovery (R19). -/
def State.counter (s : State) (gid : GId) (g : Group) (n : Nat) : Nat :=
  let t := s.team gid.tid
  let b := (s.core t.sock t.core).bank t.bank
  let y := s.bay t.sock (bayOf t.core)
  if n = 0 then y.cycles.toNat
  else if n = 1 then (s.die t.sock).cycles.toNat
  else if n = 2 then g.courses
  else if n = 3 then b.retired.toNat
  else if n = 4 then y.fll.toNat % 128
  else if n = 5 then s.boot.mode.toNat
  else if 8 ≤ n ∧ n ≤ 15 then (SMap.get 0 b.counts (n - 8)).toNat
  else if 16 ≤ n ∧ n ≤ 23 then (SMap.get 0 y.evts (n - 16)).toNat
  else 0
def execRdctr (h : Hd) (n : BitVec 10) (s : State) : Out :=
  withCur s fun gid g => s.deliver gid g h (BitVec.ofNat 64 (s.counter gid g n.toNat))

/-- The capability word at a byte offset (R16, R427). -/
def State.capWord (s : State) (off : Nat) : Nat :=
  if off % 4 ≠ 0 ∨ 65536 ≤ off then 0xFFFFFFFF else (s.boot.caps.getD (off / 4) 0).toNat
def execRdcap (h : Hd) (off : Opnd) (s : State) : Out :=
  valueOp1 h .i32 .i32 off (fun x => .ofNat (s.capWord (uns 32 x))) s

end Sys2Proof.Machine
end

