-- ==== Sys2Proof/Machine/Place.lean ====
section
/-! DEFINITION. Placement (R197-R217): partitions, readiness of teams, the residency conditions, row offers and idle rows, backfill, the set-up of a team in its row. Free resources are taken lowest first (log 10). -/

namespace Sys2Proof.Machine

/-- The weight of a group (R289). -/
def State.weight (s : State) (gid : GId) : Nat := 1 + (s.launch (s.team gid.tid).lid).prio / 32

-- partitions (R2, R186, R204, R214) ------------------------------------------

/-- Cores of a compute die (R3). -/
def coresOf (sock : Nat) : Nat := if sock < 2 then 48 else if sock < 4 then 32 else 0
/-- The present compute dies of a partition: 0 holds every one, p holds CD(p-1) (R186). -/
def State.partDies (s : State) (p : Nat) : List Nat := [0, 1, 2, 3].filter fun k => (s.die k).present && (p == 0 || k + 1 == p)
/-- The cores of a list of dies, in logical order (R214). -/
def coreList (dies : List Nat) : List (Nat × Nat) := dies.flatMap fun k => (List.range (coresOf k)).map fun c => (k, c)
/-- Whether a partition number is valid for a configuration (R186). -/
def partValid (mode : BitVec 2) (p : Nat) : Bool := if mode = 0 then p == 0 else decide (1 ≤ p ∧ p ≤ 4)
/-- The logical core of a core in a launch (R214). -/
def Launch.coreIndex (l : Launch) (sock core : Nat) : Option Nat := (coreList l.dies).findIdx? (· == (sock, core))

-- readiness (R193, R194, R196) -----------------------------------------------

/-- MODE and SHIFT of each dependence of a launch, SERIAL last. -/
def Launch.depModes (l : Launch) : List (Nat × Nat) :=
  (List.range (fld l.record 5 1)).map (fun i => (fld l.record (69 + 8 * i) 1, fld l.record (70 + 8 * i) 1)) ++ [(0, 0)]
/-- Marks a dependence on a refused record. -/
def refusedDep : Nat := 2 ^ 40

/-- Whether a dependence on launch d is met for team t (R194, R196). -/
def State.depMet (s : State) (t d mode sh : Nat) : Bool :=
  let p := s.launch d
  let whole := decide (p.teams ≤ p.events.length)
  if refusedDep ≤ d || p.status = some 10 then false
  else if mode = 0 then whole
  else if mode = 1 then
    let lo := t * 2 ^ sh
    let hi := Nat.min ((t + 1) * 2 ^ sh) p.teams
    if hi ≤ lo then whole else (List.range (hi - lo)).all fun i => p.events.contains (lo + i)
  else if t / 2 ^ sh < p.teams then p.events.contains (t / 2 ^ sh) else whole

/-- Whether a launch starts teams: it is live, no producer of it failed, and its job is not away. -/
def State.startable (s : State) (l : Launch) : Bool := l.live && !l.failed && l.status.isNone && !s.away l.job
/-- Whether team t of a launch is ready and not started (R193). -/
def State.teamReady (s : State) (l : Launch) (t : Nat) : Bool :=
  decide (t < l.teams) && !l.started.contains t && (l.deps.zip l.depModes).all fun p => s.depMet t p.1 p.2.1 p.2.2

/-- The first number from a on that satisfies p, n of them tried, step apart. -/
def firstFrom (p : Nat → Bool) (step : Nat) : Nat → Nat → Option Nat
  | 0, _ => none
  | n + 1, a => if p a then some a else firstFrom p step n (a + step)
/-- The lowest ready team of a launch. -/
def State.firstReady (s : State) (l : Launch) : Option Nat := if s.startable l then firstFrom (s.teamReady l) 1 l.teams 0 else none
/-- The lowest team assigned to logical core k that has not started (R214). -/
def Launch.nextOn (l : Launch) (k : Nat) : Option Nat :=
  (firstFrom (fun t => !l.started.contains t) l.logical ((l.teams + l.logical - 1) / Nat.max l.logical 1) k).filter fun t => decide (t < l.teams)

/-- The order of R199 on launches: higher PRIO, then earlier acceptance. -/
def Launch.before (a b : Launch) : Bool := decide (b.prio < a.prio) || (a.prio == b.prio && decide (a.order ≤ b.order))
/-- The live launches in R199's order. -/
def State.liveSorted (s : State) : List (Nat × Launch) := sortBy (fun a b => a.2.before b.2) (s.launches.filter fun p => p.2.live)
/-- Whether a core is of a launch's partition and takes teams. -/
def State.coreOk (s : State) (l : Launch) (sock : Nat) : Bool := (s.partDies l.part).contains sock && s.inService sock

-- residency (R206-R212) ------------------------------------------------------

/-- The rows of a bank (R197). -/
def bankRows (bank : Nat) : List Nat := (List.range 8).map (· + 8 * bank)
/-- The FREE rows of a bank. -/
def State.freeRows (s : State) (sock core bank : Nat) : List Nat :=
  let ts := s.teamsOn sock core
  (bankRows bank).filter fun r => !ts.any fun p => p.2.row == r
/-- The job a bank belongs to (R199, R217): a bank whose rows became FREE in this pass still belongs to its job. -/
def State.bankJob (s : State) (sock core bank : Nat) : Option Nat :=
  match (s.teamsOn sock core).find? fun p => p.2.bank == bank with
  | some p => some p.2.job.toNat
  | none => (s.dsp.freed.find? fun f => f.1 == sock && f.2.1 == core && f.2.2.1 == bank).map (·.2.2.2.2)

/-- Registers that a team of a launch takes of a cluster's file (R206, R207). -/
def Launch.clusterRegs (l : Launch) (sock k : Nat) : Nat :=
  (((List.range l.groups).filter fun g => g % 4 == k).map fun g => l.alloc g sock).foldl (· + ·) 0
/-- Registers of a cluster's file (R208). -/
def clusterFile (sock : Nat) : Nat := if sock < 2 then 2048 else 1024
/-- Granules of a team's scratch (R210). -/
def Launch.granules (l : Launch) : Nat := (l.scratch + 4095) / 4096
/-- Bytes of the private arena a team takes (R211). -/
def Launch.arena (l : Launch) : Nat := if l.exportOk then 0 else 32 * l.groups * l.priv
def arenaSize : Nat := 128 * 2 ^ 20
/-- The sum of a function over the teams of a core. -/
def State.sumOn (s : State) (sock core : Nat) (f : Team → Launch → Nat) : Nat :=
  ((s.teamsOn sock core).map fun p => f p.2 (s.launch p.2.lid)).foldl (· + ·) 0

/-- The lowest run of a free tiles of a bank (R209). -/
def State.accRun (s : State) (sock core bank a : Nat) : Option Nat :=
  let ts := (s.teamsOn sock core).filter fun p => p.2.bank == bank
  (List.range (9 - a)).find? fun b => ts.all fun p => !overlap b a p.2.accBase p.2.acct
/-- Free granules of each store bank in scratchpad mode that is not leaving it (R303). -/
def State.freeGrans (s : State) (sock core : Nat) : List (Nat × Nat) :=
  (List.range (storeBanks sock)).filterMap fun n =>
    let b := (s.core sock core).store sock n
    if b.cur == 1 && !b.pend then some (n, 8 - s.scratchUse sock core n) else none
/-- Takes n granules, lowest banks first. -/
def takeGrans : List (Nat × Nat) → Nat → List (Nat × Nat)
  | [], _ => []
  | p :: ps, n => if n = 0 then [] else if p.2 = 0 then takeGrans ps n else (p.1, Nat.min p.2 n) :: takeGrans ps (n - Nat.min p.2 n)
def granCount (l : List (Nat × Nat)) : Nat := (l.map (·.2)).foldl (· + ·) 0

/-- Whether team t of a launch fits a bank (R212). -/
def State.fits (s : State) (lid t sock core bank : Nat) : Bool :=
  let l := s.launch lid
  (match s.bankJob sock core bank with | none => true | some j => j == l.job.toNat)
  && !(s.freeRows sock core bank).isEmpty
  && decide (s.sumOn sock core (fun x y => if x.bank = bank then y.groups else 0) + l.groups ≤ 32)
  && (List.range 4).all (fun k => decide (s.sumOn sock core (fun _ y => y.clusterRegs sock k) + l.clusterRegs sock k ≤ clusterFile sock))
  && (s.accRun sock core bank l.acct).isSome
  && decide (l.granules ≤ granCount (s.freeGrans sock core))
  && decide (s.sumOn sock core (fun _ y => y.arena) + l.arena ≤ arenaSize)
  && s.dsp.reserve.all fun r => !(r.2.2.2.1 == sock && r.2.2.2.2 == core) || (r.2.1 == lid && r.2.2.1 == t)

/-- Whether a core holds one team once empty, with its core-store configuration now (R192, R201, R212). -/
def State.fitsEmpty (s : State) (l : Launch) (sock core : Nat) : Bool :=
  let scratchBanks := ((List.range (storeBanks sock)).filter fun n => let b := (s.core sock core).store sock n; b.cur == 1 && !b.pend).length
  decide (1 ≤ l.groups ∧ l.groups ≤ 16) && (List.range 4).all (fun k => decide (l.clusterRegs sock k ≤ clusterFile sock))
  && decide (l.acct ≤ 8) && decide (l.granules ≤ 8 * scratchBanks) && decide (l.arena ≤ arenaSize)

-- the lease row (R197, R205-R211) --------------------------------------------

/-- The types of a function's parameters: the arguments of block 0 (R28). -/
def Func.argTys (f : Func) : List Ty := match blocksOf (items f.words) with | b :: _ => b.tys | [] => []
/-- Values of block 0 at a team's start (R191): parameters, and the team's spool handles. -/
def Launch.args (l : Launch) (tys : List Ty) : SMap Val :=
  ((List.range tys.length).zip tys).foldl (fun m p =>
    let x : Lane :=
      if p.1 < l.nparam then maskTy p.2 (BitVec.ofNat 64 (fld l.record (96 + 8 * p.1) 8))
      else mkHnd hndSpool (((List.range l.nspool).find? fun j => fld l.record (550 + 8 * j) 1 == p.1).getD 0)
    SMap.put Val.undef m p.1 ⟨p.2, List.replicate 32 x, .none⟩) []

/-- Bases of the spools in declaration order (R345): (slots, slot bytes, base). -/
def spoolsGo (l : Launch) : Nat → Nat → Int → List (Nat × Nat × Int)
  | 0, _, _ => []
  | n + 1, j, top =>
    let slots := fld l.record (544 + 8 * j) 4
    let b := fld l.record (548 + 8 * j) 2
    let base : Int := (top - (slots * b : Nat)) / 256 * 256
    (slots, b, base) :: spoolsGo l n (j + 1) base
def Launch.spools (l : Launch) : List (Nat × Nat × Int) := spoolsGo l l.nspool 0 l.scratch

/-- The positions of a bank that no group holds, lowest first (R408). -/
def State.freePos (s : State) (sock core bank : Nat) : List Nat :=
  let used := ((s.teamsOn sock core).filter fun p => p.2.bank == bank).flatMap fun p => p.2.groups.map Group.pos
  (List.range 32).filter fun k => !used.contains k

/-- A group that is placed and whose team is not yet set up. -/
def Group.fresh (kernel pos weight : Nat) (args : SMap Val) : Group :=
  { status := .loading, active := 0xFFFFFFFF, ended := 0, frames := [⟨kernel, 0, 0, args, 0, []⟩], div := [], nat := .clear, credits := 8,
    arb := weight, phase := none, trap := none, saved := none, waits := .clear, begun := false, courses := 0, evs := [], reelSince := [],
    numTrap := [], pos := pos, bankDone := false, preStop := false, drained := false, stops := [], noPoint := false, look := 0, got := none }

/-- What a saved team takes with it beside its save area: its tokens, its streams and started copies, emitted records and phases held (R418, log 24). Its queues take FIFO granules of the new core. -/
def Team.kept (t : Team) (free : List Nat) : Team :=
  { Team.none with
    toks := t.toks, phased := t.phased, reelPay := t.reelPay, emitHod := t.emitHod, emitMx := t.emitMx,
    copies := t.copies.filter fun c => !c.held, streams := t.streams.map fun x => { x with bank := free.headD 0 }, emitBanks := free.take t.fifoNeed }
/-- A row takes a team (R197): it is LOADING, holding its allocations. old is what it keeps where it is a saved team. -/
def State.putInRow (s : State) (old : Team) (lid idx sock core bank row tid : Nat) (gs : List Group) : State :=
  let l := s.launch lid
  let t : Team := { old with
    lid := lid, idx := idx, job := l.job, module := l.module, sock := sock, core := core, bank := bank, row := row, state := .loading, groups := gs,
    accBase := (s.accRun sock core bank l.acct).getD 0, acct := l.acct, grans := takeGrans (s.freeGrans sock core) l.granules }
  let s1 := s.setTeam tid t
  let charge : W32 := BitVec.ofNat 32 (s.dsp.steer.toNat % 256 * l.groups)
  ({ s1 with dsp := { s1.dsp with working := SMap.put 0 s1.dsp.working sock (SMap.get 0 s1.dsp.working sock - charge),
                                  reserve := s1.dsp.reserve.filter fun r => !(r.2.1 == lid && r.2.2.1 == idx) } }).soon (.teamSetupDone tid)

/-- A ready team is placed in a FREE row (R197, R199, R205). -/
def State.placeTeam (s : State) (lid t sock core bank row : Nat) : State :=
  let l := s.launch lid
  let args := match s.func l.module l.kernel with | some f => l.args f.argTys | none => []
  let pos := s.freePos sock core bank
  let gs := (List.range l.groups).map fun g => Group.fresh l.kernel (pos.getD g 0) (1 + l.prio / 32) args
  let s1 := s.putInRow Team.none lid t sock core bank row s.dsp.nextTid gs
  ({ s1 with dsp := { s1.dsp with nextTid := s1.dsp.nextTid + 1 } }).setLaunch lid
    { l with started := l.started ++ [t], passed := l.passed.filter fun p => p.1 != t }

-- row offers (R199-R201) -----------------------------------------------------

/-- The teams of a launch that a row of a core may take, lowest first: ready, and for DET the next one assigned to the core. -/
def State.candidates (s : State) (lid : Nat) (l : Launch) (sock core : Nat) : List Nat :=
  if !s.startable l || !s.coreOk l sock then []
  else if l.det then
    match l.coreIndex sock core with
    | none => []
    | some k => match l.nextOn k with | some t => if s.teamReady l t then [t] else [] | none => []
  else
    let held := (s.dsp.reserve.filter fun r => r.2.1 == lid).map fun r => r.2.2.1
    (match s.firstReady l with | some t => [t] | none => []) ++ held.filter fun t => s.teamReady l t

/-- The candidate an offered row takes (R199). -/
def State.offerPick (s : State) (sock core bank : Nat) : Option (Nat × Nat) :=
  s.liveSorted.findSome? fun p => ((s.candidates p.1 p.2 sock core).find? fun t => s.fits p.1 t sock core bank).map fun t => (p.1, t)

/-- The first ready team of a partition in R199's order. -/
def State.firstOf (s : State) (part : Nat) : Option (Nat × Nat) :=
  s.liveSorted.findSome? fun p => if p.2.part == part then (s.firstReady p.2).map fun t => (p.1, t) else none

/-- Whether a core is reserved for another team than t of launch lid (R201). -/
def State.heldFor (s : State) (lid t sock core : Nat) : Bool :=
  s.dsp.reserve.any fun r => r.2.2.2.1 == sock && r.2.2.2.2 == core && !(r.2.1 == lid && r.2.2.1 == t)
/-- The ready teams of a launch that an offered row could take but for their fit (R201). -/
def State.couldTake (s : State) (lid : Nat) (l : Launch) (sock core bank : Nat) : List Nat :=
  if !s.startable l || !s.coreOk l sock || !(match s.bankJob sock core bank with | none => true | some j => j == l.job.toNat) then []
  else
    let ts := if l.det then s.candidates lid l sock core else (List.range l.teams).filter (s.teamReady l)
    ts.filter fun t => !s.heldFor lid t sock core
/-- Counts an offer for every team that is passed over at it because it does not fit (R201): those before the launch that takes the row. -/
def State.passOver (s : State) (taken : Option Nat) (sock core bank : Nat) : State :=
  (s.liveSorted.takeWhile fun p => some p.1 != taken).foldl (fun s p =>
    let ts := (s.couldTake p.1 p.2 sock core bank).filter fun t => !s.fits p.1 t sock core bank
    s.setLaunch p.1 { p.2 with passed := ts.foldl (fun m t => SMap.put 0 m t (SMap.get 0 m t + 1)) p.2.passed }) s
/-- The times that a team was passed over. -/
def Launch.passedOver (l : Launch) (t : Nat) : Nat := SMap.get 0 l.passed t
/-- Asks for a reservation where the first ready team of a partition was passed over 64 times and none stands (R201). -/
def State.askReserve (s : State) (part : Nat) : State :=
  match s.firstOf part with
  | none => s
  | some (lid, t) =>
    let e : Instr := .backfillReserve (BitVec.ofNat 4 part)
    if 64 ≤ (s.launch lid).passedOver t && s.dsp.reserve.all (fun r => r.1 != part) && !s.agenda.contains e then s.soon e else s

/-- A row offer (R199, R201). -/
def State.offer (s : State) (sock core bank row : Nat) : State :=
  if !s.inService sock || !(s.freeRows sock core bank).contains row then s
  else
    let pick := s.offerPick sock core bank
    let s1 := s.passOver (pick.map (·.1)) sock core bank
    let s2 := match pick with
      | none => s1
      | some (lid, t) => s1.placeTeam lid t sock core bank row
    [0, 1, 2, 3, 4].foldl State.askReserve s2

-- idle rows (R213-R217) ------------------------------------------------------

/-- The banks of a core a team prefers: its job's, one of no job, then the lower-numbered (R214, R215). -/
def State.bankOrder (s : State) (l : Launch) (sock core : Nat) : List Nat :=
  let mine := [0, 1].filter fun b => s.bankJob sock core b == some l.job.toNat
  let free := [0, 1].filter fun b => (s.bankJob sock core b).isNone
  mine ++ free
/-- The bank and row of a core that a team takes, if it fits there. -/
def State.spotOn (s : State) (lid t sock core : Nat) : Option (Nat × Nat) :=
  let l := s.launch lid
  if !s.inService sock then none
  else match (s.bankOrder l sock core).find? fun b => s.fits lid t sock core b with
    | none => none
    | some b => (s.freeRows sock core b).head?.map fun r => (b, r)

/-- The working headroom of a die (R216). -/
def State.headroom (s : State) (sock : Nat) : Int := (SMap.get 0 s.dsp.working sock).toInt
/-- The cores in the order R215 tries them. -/
def State.steered (s : State) (l : Launch) : List (Nat × Nat) :=
  let dies := (s.partDies l.part).filter s.inService
  let dies := if s.dsp.steer.getLsbD 31 then dies else sortBy (fun a b => decide (s.headroom b ≤ s.headroom a)) dies
  dies.flatMap fun k =>
    let cs := (List.range (coresOf k)).map fun c => (s.sumOn k c (fun _ y => y.groups), c)
    (sortBy (fun a b => decide (a.1 ≤ b.1)) cs).map fun p => (k, p.2)

/-- The next ready team of a launch from number t on; stuck: among those a core is reserved for (R201), since what fits nowhere keeps every other team of its launch out. -/
def State.readyFrom (s : State) (lid t : Nat) (stuck : Bool) : Option Nat :=
  let l := s.launch lid
  if !s.startable l then none
  else if stuck then
    (sortBy (fun a b => decide (a ≤ b)) ((s.dsp.reserve.filter fun r => r.2.1 == lid).map fun r => r.2.2.1)).find? fun x => decide (t ≤ x) && s.teamReady l x
  else firstFrom (s.teamReady l) 1 (l.teams - t) t
/-- Places the ready teams of a launch without DET into idle rows from team t on, n of them tried (R213, R215). -/
def State.fillFree (lid : Nat) : Nat → Nat → Bool → State → State
  | 0, _, _, s => s
  | n + 1, t0, stuck, s =>
    match s.readyFrom lid t0 stuck with
    | none => s
    | some t =>
      match (s.steered (s.launch lid)).findSome? fun c => (s.spotOn lid t c.1 c.2).map fun b => (c, b) with
      | none => State.fillFree lid n (t + 1) true s
      | some (c, b) => State.fillFree lid n (t + 1) false (s.placeTeam lid t c.1 c.2 b.1 b.2)
/-- One team for each core of a DET launch, in ascending order of team; then again until none fits (R214). -/
def State.fillDet (lid : Nat) : Nat → State → State
  | 0, s => s
  | n + 1, s =>
    let l := s.launch lid
    if !s.startable l then s
    else
      let next := ((List.range l.logical).zip (coreList l.dies)).filterMap fun k =>
        match l.nextOn k.1 with
        | some t => if s.teamReady l t && s.coreOk l k.2.1 then some (t, k.2) else none
        | none => none
      let s1 := (sortBy (fun a b => decide (a.1 ≤ b.1)) next).foldl (fun s p =>
        match s.spotOn lid p.1 p.2.1 p.2.2 with
        | none => s
        | some b => s.placeTeam lid p.1 p.2.1 p.2.2 b.1 b.2) s
      if s1.dsp.nextTid = s.dsp.nextTid then s else State.fillDet lid n s1
/-- Places the ready teams of every live launch into idle rows (R213). A package has 2560 rows. -/
def State.fillIdle (s : State) : State :=
  s.liveSorted.foldl (fun s p => if p.2.det then State.fillDet p.1 16 s else State.fillFree p.1 2570 0 false s) s

-- saved teams (R424, R440) ---------------------------------------------------

/-- The stop with which a restored group enters its handler (R424): reason 4, no interrupted point. -/
def restoreTrap (area : W64) : Trap :=
  { code := Code.restore, reason := 4, lane := noLane, d0 := area, d1 := 0, word := 0, func := 0, double := false, opn := false }

/-- A saved team takes a row of a core where it fits: its groups to recreate are loading, the others have retired (R366, R424). -/
def State.placeSaved (s : State) (tid sock core : Nat) (area : Option W64) : Option State :=
  let t := s.team tid
  match s.spotOn t.lid t.idx sock core with
  | none => none
  | some (bank, row) =>
    let l := s.launch t.lid
    let pos := s.freePos sock core bank
    let gs := (List.range l.groups).zip t.groups |>.map fun p =>
      let g := { Group.fresh l.kernel (pos.getD p.1 0) (1 + l.prio / 32) [] with courses := p.2.courses, phase := p.2.phase, reelSince := p.2.reelSince, frames := [], noPoint := true, trap := area.map restoreTrap }
      if t.restoreLive.getLsbD p.1 then g else { g with status := .out, active := 0, ended := 0xFFFFFFFF, trap := none }
    some (s.putInRow (t.kept (s.fifoFree sock core)) t.lid t.idx sock core bank row tid gs)

/-- The team that DSP_RESTORE places is placed when every group of it has left its handler and it fits (R424). GO clears too when the team is gone (log 24). -/
def State.placeRestored (s : State) : State :=
  let r := s.dsp.restore
  if !r.getLsbD 63 then s
  else match s.teams.find? fun p => p.2.waitRestore && p.2.state == .saved && !s.doff.teams.contains p.1 with
    | none => { s with dsp := { s.dsp with restore := r &&& 0x7FFFFFFFFFFFFFFF } }
    | some p =>
      if s.away p.2.job || !p.2.groups.all (fun g => g.status == .out) then s
      else match s.placeSaved p.1 (fieldNat r.toNat 62 61) (fieldNat r.toNat 60 55) (some (r &&& 0x000FFFFFFFFFFFC0)) with
        | none => s
        | some s1 => { s1 with dsp := { s1.dsp with restore := r &&& 0x7FFFFFFFFFFFFFFF } }

/-- Teams of a Doff's directory go back to their cores (R440 step 1): without DET, where that core is gone, to the lowest core on which they fit. -/
def State.placeDoffed (s : State) : State :=
  if !s.doff.busy || s.doff.phase != 6 then s
  else s.doff.teams.foldl (fun s tid =>
    let t := s.team tid
    let l := s.launch t.lid
    if t.state != .saved || !t.waitRestore then s
    else
      let here := if s.inService t.sock then [(t.sock, t.core)] else if l.det then [] else coreList ((s.partDies l.part).filter s.inService)
      (here.findSome? fun c => s.placeSaved tid c.1 c.2 none).getD s) s

/-- Reservations whose team can still start. -/
def State.trimReserve (s : State) : State :=
  { s with dsp := { s.dsp with reserve := s.dsp.reserve.filter fun r => let l := s.launch r.2.1; l.live && !l.failed && l.status.isNone && !l.started.contains r.2.2.1 } }

/-- PLACEMENT_PASS (R199, R213, R217): saved teams first, then the rows that became FREE, by socket, core, bank and row, then idle rows. A bank is of no job once all its rows are FREE at the end. -/
def execPlacementPass (s : State) : Out :=
  let key (f : Nat × Nat × Nat × Nat × Nat) : Nat := coreKey f.1 f.2.1 * 32 + f.2.2.2.1
  let s1 := s.trimReserve.placeRestored.placeDoffed
  let s2 := (sortBy (fun a b => decide (key a ≤ key b)) s1.dsp.freed).foldl (fun s f => s.offer f.1 f.2.1 f.2.2.1 f.2.2.2.1) s1
  let s3 := s2.fillIdle
  .next ([0, 1, 2, 3, 4].foldl State.askReserve { s3 with dsp := { s3.dsp with freed := [] } })

/-- BACKFILL_RESERVE (R201): a core is reserved for the first ready team of a partition that was passed over 64 times, one at a time. -/
def execBackfillReserve (part : BitVec 4) (s : State) : Out :=
  let s0 := s.trimReserve
  let p := part.toNat
  .next (match s0.firstOf p with
    | none => s
    | some (lid, t) =>
      let l := s0.launch lid
      if l.passedOver t < 64 || s0.dsp.reserve.any (fun r => r.1 == p) then s
      else
        let cores := coreList ((s0.partDies p).filter s0.inService)
        let cs := (cores.filter fun c => s0.fitsEmpty l c.1 c.2).map fun c => (s0.sumOn c.1 c.2 (fun _ y => y.groups), c)
        let pick := if l.det then (coreList l.dies)[t % l.logical]? else (sortBy (fun a b => decide (a.1 ≤ b.1)) cs).head?.map (·.2)
        match pick with
        | none => s
        | some c => { s0 with dsp := { s0.dsp with reserve := s0.dsp.reserve ++ [(p, lid, t, c.1, c.2)] } })

-- set-up (R198, R211, R218) --------------------------------------------------

/-- The translations of a share: the map, or a wait (true) or a failed check (false). -/
def State.shareMap (s : State) (job : Nat) : List Nat → SMap Nat → Except Bool (SMap Nat)
  | [], m => .ok m
  | va :: rest, m =>
    if 2 ^ 52 ≤ va then .error false
    else match s.pageWalk job .write va with
      | .ok p => State.shareMap s job rest (SMap.put 0 m (va / 65536) p)
      | .wait => .error true
      | _ => .error false
/-- The pages of a team's share of the export area (R156, R211). -/
def Launch.sharePages (l : Launch) (idx : Nat) : List Nat :=
  if l.exportOk then pagesOf (l.expBase + idx * l.groups * 32 * l.priv) (l.groups * 32 * l.priv) else []

/-- Whether a physical address holds a byte of a team's export share. -/
def inShare (m : SMap Nat) (pages : List Nat) (lo n pa : Nat) : Bool :=
  pages.any fun va =>
    let e := SMap.get 0 m (va / 65536)
    let a := va / 65536 * 65536 + swizzle (e % 4) pa % 65536
    e / 4 == pa / 65536 && decide (lo ≤ a ∧ a < lo + n)
/-- Zeroes a team's private memory: the arena holds nothing listed; an export share is written with zeros (R198, R211). -/
def State.zeroShare (s : State) (tid : Nat) (l : Launch) (idx : Nat) : State :=
  if !l.exportOk then s
  else
    let n := l.groups * 32 * l.priv
    let pages := l.sharePages idx
    let m := (s.team tid).expMap
    let mine (pa : Nat) : Bool := inShare m pages (l.expBase + idx * n) n pa
    { s with mem := s.mem.filter fun p => !mine p.1, pln := { s.pln with replicas := s.pln.replicas.filter fun r => !mine (128 * r.line) } }

/-- TEAM_SETUP_DONE (R198, R211): scratch and private memory zeroed, barriers, spools and tiles reset, and the row RESIDENT; groups are placed at block 0, looking up the kernel, or a restored group stops with reason 4 (R424). A share that a page keeps from translating waits, or ends the launch. -/
def execTeamSetupDone (tid : Nat) (s : State) : Out :=
  let t := s.team tid
  let l := s.launch t.lid
  .next (if t.state != .loading then s
    else match s.shareMap t.job.toNat (l.sharePages t.idx) [] with
      | .error true => s
      | .error false => s.terminate t.lid
      | .ok m =>
        let doffed := s.doff.busy && s.doff.phase == 6 && s.doff.teams.contains tid
        let restored := t.groups.any Group.noPoint
        let t1 := { t with
          state := .resident, scratch := [], priv := [], bars := List.replicate 16 .reset, expMap := m, waitRestore := false,
          spools := l.spools.map fun p => ⟨p.1, p.2.1, p.2.2.toNat, 0, 0, 0, 0, [], []⟩ }
        let s1 := s.setTeam tid t1
        let c := s1.core t.sock t.core
        let b := (List.range t.acct).foldl (fun b i => b.setTile (tileNum t i) .reset) (c.bank t.bank)
        let s2 := (s1.setCore t.sock t.core (c.setBank t.bank b)).zeroShare tid l t.idx
        if doffed then s2
        else (List.range l.groups).foldl (fun s i =>
          match s.group ⟨tid, i⟩ with
          | none => s
          | some g =>
            if g.status != .loading then s
            else match restored, g.trap with
              | true, some tr => s.stopGroup ⟨tid, i⟩ g tr
              | _, _ => (s.setGroup ⟨tid, i⟩ { g with status := .ready, look := g.frames.length }).lookGroup ⟨tid, i⟩) s2)

end Sys2Proof.Machine
end

