-- ==== Sys2Proof/Machine/Launch.lean ====
section
/-! DEFINITION. Modules (R41-R44, R205, R226) and the dispatcher: partitions, queues, rounds, the checks of a launch record, dependences, verification (R186-R196, R471, R472), and DSP_RESTORE (R424). -/

namespace Sys2Proof.Machine

-- kernel attributes (R44, R46, R205) -----------------------------------------

/-- The attribute items of a tag, in order. -/
def Func.itemsOf (f : Func) (tag : Nat) : List (List Byte) := f.attrs.filter fun it => byteAt it 0 == tag
/-- The team item; a kernel without one takes groups 1, scratch 0 and private 0 (R46). -/
def Func.teamItem (f : Func) : List Byte := (f.itemsOf 1).headD ([1, 1] ++ natLe 0 14)
/-- The 16 bytes of ROLEi (R190); a kernel without roles has one, `main`, with every group and the largest budget (R46). -/
def Func.roleRecs (f : Func) : List (List Byte) :=
  let rs := (f.itemsOf 2).map fun it => ((it.drop 1).take 3) ++ [0] ++ (it.drop 4).take 12
  if rs.isEmpty then [[0, BitVec.ofNat 8 (byteAt f.teamItem 1), 255, 0, 0x6D, 0x61, 0x69, 0x6E] ++ natLe 0 8] else rs
/-- Whether a kernel's roles number 0 to NROLES - 1 in order and their counts sum to its groups (R205). -/
def Func.rolesOk (f : Func) : Bool :=
  let rs := f.roleRecs
  f.kind != 1 || (decide (rs.length ≤ 4) && rs.map (fun r => byteAt r 0) == List.range rs.length
    && (rs.map fun r => byteAt r 1).foldl (· + ·) 0 == byteAt f.teamItem 1)

/-- Pads a list of bytes with zeros to n, or cuts it. -/
def padTo (bs : List Byte) (n : Nat) : List Byte := bs.take n ++ natLe 0 (n - bs.length)
/-- Bytes 320-1023 of a launch record, from the kernel's attributes (R190). RWSET names the items where the kernel has some (log 10). -/
def Func.launchTail (f : Func) : List Byte :=
  let fmts := (List.range 8).flatMap fun n => match (f.itemsOf 3).find? fun it => byteAt it 1 == n with
    | some it => (it.drop 2).take 14 ++ [0, 0]
    | none => natLe 0 16
  let sps := (f.itemsOf 4).map fun it => (it.drop 4).take 4 ++ (it.drop 8).take 2 ++ [BitVec.ofNat 8 (byteAt it 1), 0]
  let team := f.teamItem
  fmts ++ natLe (byteAt team 1) 1 ++ natLe f.roleRecs.length 1 ++ natLe sps.length 1 ++ natLe f.nparam 1 ++ (team.drop 4).take 4 ++ (team.drop 8).take 4
  ++ natLe (fld ((f.itemsOf 5).headD []) 4 4) 4 ++ natLe (if (f.itemsOf 6).isEmpty then 0 else 1) 8 ++ natLe 0 8
  ++ padTo f.roleRecs.flatten 64 ++ padTo sps.flatten 192 ++ natLe 0 288

-- modules (R25, R41, R205, R226) ---------------------------------------------

/-- The module of a container image, if it is not refused with XL_CONTAINER (R41-R44, R205). -/
def readModule (job : BitVec 12) (image : List Byte) (handle : W64) : Option Module :=
  match sectionsOf image (digestBytes (sha256 (image.drop 64))) with
  | none => none
  | some secs =>
    let sec (k : Nat) : List Byte := match secs.find? fun x => x.kind == k with | some x => (image.drop x.off).take x.size | none => []
    match funcsOf (sec 1) (sec 3) (sec 2) with
    | none => none
    | some fns => if fns.all Func.rolesOk then some ⟨handle, job, markCycles fns, sec 4⟩ else none

/-- MODULE_REGISTER (R41, R25): a refused image leaves the state as it is; functions on a call cycle are refused. Handles count up (log 10). -/
def execModuleRegister (job : BitVec 12) (image : List Byte) (s : State) : Out :=
  .next <| s.atHost (match readModule job image (BitVec.ofNat 64 s.dsp.nextHandle) with
    | none => s
    | some m => { s with dsp := { s.dsp with modules := s.dsp.modules ++ [m], nextHandle := s.dsp.nextHandle + 1 } })

/-- A cache without the entries and claims of a module. -/
def Cache.drop (c : Cache) (handle : W64) : Cache :=
  { c with entries := c.entries.filter (fun e => e.key.module != handle), claims := c.claims.filter fun k => k.key.module != handle }
/-- The entries of a cache's class that a module's removal discards count EVICT (R228), at the bay of log 10. -/
def State.dropEntries (s : State) (cls : Nat) (handle : W64) : State :=
  let c := s.cache cls
  (s.setCache cls (c.drop handle)).spnEvtN (if cls = 1 then 0 else 2) 0 6 (c.entries.filter fun e => e.key.module == handle).length
/-- MODULE_UNREGISTER (R226): refused while a live launch names the module; its entries are discarded. -/
def execModuleUnregister (handle : W64) (s : State) : Out :=
  .next <| s.atHost (if s.launches.any (fun p => p.2.live && p.2.module == handle) then s
    else (State.dropEntries { s with dsp := { s.dsp with modules := s.dsp.modules.filter fun m => m.handle != handle } } 0 handle).dropEntries 1 handle)

-- partitions and queues (R186-R188) ------------------------------------------

/-- PARTCFG_WRITE (R186): MODE changes while no queue is enabled; 2 and 3 are ignored. -/
def execPartcfgWrite (v : W32) (s : State) : Out :=
  .next <| s.atHost (if s.dsp.queues.any (fun p => p.2.en) || decide (1 < v.toNat % 4) then s
    else { s with dsp := { s.dsp with mode := v.setWidth 2 } })
/-- DSP_PARTCFG as it reads. -/
def State.partcfg (s : State) : W32 := (if s.dsp.queues.any (fun p => p.2.en) then 0x80000000 else 0) ||| s.dsp.mode.setWidth 32

/-- The fields of DSP_QCFG that a write sets while EN is 0 (R187). -/
def Queue.cfg (q : Queue) (v : W32) : Queue :=
  { q with log2n := v.extractLsb' 24 4, pceil := v.extractLsb' 16 8, part := v.extractLsb' 12 4, job := v.extractLsb' 0 12 }
/-- What QSTAT.PBAD refuses (R187). -/
def State.queueBad (s : State) (v : W32) : Bool :=
  let part := fieldNat v.toNat 15 12
  let log2n := fieldNat v.toNat 27 24
  !partValid s.dsp.mode part || (s.partDies part).isEmpty || log2n == 0 || decide (12 < log2n) || v.toNat % 4096 == 0
/-- A write of DSP_QCFG_n (R187, R188). While EN is 1 only PCEIL and EN are written. -/
def State.qcfgWrite (s : State) (n : Nat) (v : W32) : State :=
  let q := s.queue n
  if s.boot.mode = 3 then s
  else if q.en then
    s.setQueue n { q with pceil := v.extractLsb' 16 8, en := v.getLsbD 31, stat := if v.getLsbD 31 then q.stat else q.stat &&& 0x3E }
  else if !v.getLsbD 31 then s.setQueue n (q.cfg v)
  else if s.queueBad v then s.setQueue n { q with stat := q.stat ||| 8 }
  else s.setQueue n { q.cfg v with en := true, head := 0, tail := 0, window := [], stat := q.stat &&& 0x3E }

/-- QUEUE_ENABLE (R188): a write of DSP_QCFG_n with EN = 1. -/
def execQueueEnable (n : BitVec 6) (v : W32) (s : State) : Out := .next (s.qcfgWrite n.toNat (v ||| 0x80000000))
/-- QUEUE_DISABLE (R188): a write of DSP_QCFG_n with EN = 0; live launches run on. -/
def execQueueDisable (n : BitVec 6) (v : W32) (s : State) : Out := .next (s.qcfgWrite n.toNat (v &&& 0x7FFFFFFF))

/-- QUEUE_TAIL_WRITE (R187, R188). A write while EN is 0 is kept and publishes nothing. -/
def execQueueTailWrite (n : BitVec 6) (v : W32) (s : State) : Out :=
  let q := s.queue n.toNat
  let bad := q.en && (decide ((v - q.head).toNat < (q.tail - q.head).toNat) || decide (2 ^ q.log2n.toNat < (v - q.head).toNat))
  .next <| s.atHost (if bad then s.setQueue n.toNat { q with tail := v, en := false, stat := (q.stat ||| 4) &&& 0x3E }
    else (s.setQueue n.toNat { q with tail := v }).soon .dispatchRound)

-- dependences (R194, R195) ---------------------------------------------------

/-- A dependence entry (R194): SEQ, QUEUE, MODE, SHIFT, and the zero byte. -/
structure Dep where
  seq : W32
  queue : Nat
  mode : Nat
  shift : Nat
  zero : Nat
def depAt (r : List Byte) (i : Nat) : Dep :=
  let o := 64 + 8 * i
  ⟨BitVec.ofNat 32 (fld r o 4), fld r (o + 4) 1, fld r (o + 5) 1, fld r (o + 6) 1, fld r (o + 7) 1⟩
/-- The dependences of a record that queue n takes next: its entries, then SERIAL's on the record before it, which the first record after EN is set has none of (R194): the outcome window is empty then alone (R188). -/
def depsOf (r : List Byte) (n : Nat) (q : Queue) : List Dep :=
  (List.range (Nat.min (fld r 5 1) 4)).map (depAt r) ++ (if fld r 2 2 / 8 % 2 = 1 && !q.window.isEmpty then [⟨q.head - 1, n, 0, 0, 0⟩] else [])

/-- Whether a producer lies in another queue of the same job and partition and has not been taken (R195). -/
def State.depWaits (s : State) (n : Nat) (d : Dep) : Bool :=
  let q := s.queue n
  let p := s.queue d.queue
  decide (d.queue < 64) && d.queue != n && p.job == q.job && p.part == q.part && decide ((d.seq - p.head).toNat < 2 ^ 31)
/-- What a dependence of a record being taken from queue n resolves to (R194, R195): the producer's launch, or a refused record; none breaks the rules. -/
def State.depFind (s : State) (n : Nat) (d : Dep) : Option Nat :=
  let q := s.queue n
  let p := s.queue d.queue
  if 64 ≤ d.queue || 2 < d.mode || 15 < d.shift || (d.mode == 0 && d.shift != 0) || d.zero != 0 || p.job != q.job || p.part != q.part then none
  else match p.window.find? fun o => o.seq == d.seq with
    | none => none
    | some o => some (match o.lid with | some lid => lid | none => refusedDep + o.status)

-- the checks of a record (R190-R192) -----------------------------------------

/-- Check 1 (R192). -/
def formBad (r : List Byte) : Bool :=
  let depn := fld r 5 1
  let exp := fld r 40 8
  fld r 0 2 != 1 || decide (16 ≤ fld r 2 2) || decide (4 < depn) || decide (8 < fld r 6 1) || fld r 7 1 != 0 || fld r 20 4 != 0 || fld r 36 4 != 0
  || fld r 56 8 != 0 || !zeroAt r (64 + 8 * depn) (32 - 8 * depn) || !zeroAt r 288 736
  || (exp != 0 && fld r 2 2 / 2 % 2 == 0) || exp % 65536 != 0 || fld r 48 8 % 8 != 0
/-- Check 4 (R191): a slot of each parameter, zeros beyond. A kernel with more arguments than slots has no slot for them. -/
def paramBad (r : List Byte) (f : Func) (nspool : Nat) : Bool :=
  let tys := f.argTys
  decide (24 < f.nparam + nspool) || (List.range 24).any fun i =>
    let v := fld r (96 + 8 * i) 8
    if i < f.nparam then (match tys[i]? with | some t => t == .hnd || decide (2 ^ t.bits ≤ v) | none => true) else v != 0
/-- Check 5 (R56): the first format slot that fails. -/
def badSlot (l : Launch) : Option Nat := (List.range 8).find? fun n => !slotOk ((l.record.drop (320 + 16 * n)).take 16)
/-- Check 6 (R192, R345): whether a team fits a core of the partition, or for DET every core, and its spools fit its scratch. -/
def State.fitBad (s : State) (l : Launch) : Bool :=
  let cs := coreList l.dies
  l.spools.any (fun p => decide (p.2.2 < 0))
  || !(if l.det then !cs.isEmpty && cs.all (fun c => s.fitsEmpty l c.1 c.2) else cs.any fun c => s.fitsEmpty l c.1 c.2)

/-- Whether the capability list holds an entry (R16-R18), n entries at most. -/
def State.capGo (s : State) (id : Nat) : Nat → Nat → Bool
  | 0, _ => false
  | n + 1, w =>
    let h := (s.boot.caps.getD w 0).toNat
    (h % 65536 == id && h != 0) || (h / 2 ^ 20 != 0 && State.capGo s id n (w + 2 * (h / 2 ^ 20)))
def State.hasCap (s : State) (id : Nat) : Bool := s.capGo id 256 0

/-- The launch that a record of queue n makes if it is accepted (R189, R190, R192, R204, R214, R471). -/
def State.mkLaunch (s : State) (n : Nat) (r : List Byte) (tail : List Byte) : Launch :=
  let q := s.queue n
  let dies := s.partDies q.part.toNat
  let full := r.take 320 ++ tail
  let vfy := fld r 2 2 % 2 == 1 && q.vfyctl.getLsbD 31 && q.vfyctl.toNat % 65536 != 0
  { Launch.none with
    queue := BitVec.ofNat 6 n, seq := q.head, job := q.job, part := q.part.toNat, prio := Nat.min (fld r 4 1) q.pceil.toNat, order := s.dsp.nextOrder,
    record := full, dies := dies, logical := (coreList dies).length, vfy := vfy, vfyReg := q.vfyreg &&& 0x000FFFFFFFFF0000,
    vfyPages := q.vfyctl.toNat % 65536, vfyOut := q.vfyout &&& 0x000FFFFFFFFFFFC0, live := true }

/-- The checks of R192 in order: the launch, or the status and slot that refuse the record. -/
def State.checkRecord (s : State) (n : Nat) (r : List Byte) : Except (Nat × Nat) Launch :=
  let q := s.queue n
  if formBad r then .error (1, 0)
  else match s.module (BitVec.ofNat 64 (fld r 8 8)) with
    | none => .error (2, 0)
    | some m =>
      match m.funcs[fld r 16 4]? with
      | none => .error (2, 0)
      | some f =>
        let l := s.mkLaunch n r f.launchTail
        let ds := depsOf r n q
        let found := ds.filterMap (s.depFind n)
        if m.job != q.job || f.kind != 1 || f.refused != 0 then .error (2, 0)
        else if l.gx = 0 || l.gy = 0 || l.gz = 0 || 2 ^ 31 ≤ l.teams then .error (3, 0)
        else if paramBad r f l.nspool then .error (4, 0)
        else match badSlot l with
          | some k => .error (5, k)
          | none =>
            if s.fitBad l then .error (6, 0)
            else if l.det && !s.hasCap 7 then .error (7, 0)
            else if found.length != ds.length then .error (8, 0)
            else .ok { l with deps := found }

-- rounds (R188, R189) --------------------------------------------------------

/-- Counts a record taken, and keeps its outcome (R187, R195). -/
def State.taken (s : State) (n : Nat) (lid : Option Nat) (status : Nat) : State :=
  let q := s.queue n
  s.setQueue n { q with head := q.head + 1, window := (⟨q.head, lid, status⟩ :: q.window).take 256, stat := q.stat &&& 0x3E }

/-- A record is refused (R192, R196): its DONE word is written at once. -/
def State.refuse (s : State) (n : Nat) (r : List Byte) (status slot : Nat) : State :=
  let q := s.queue n
  (s.doneStore (BitVec.ofNat 6 n) q.head q.job.toNat (fld r 48 8) status slot (fld r 2 2 / 4 % 2 == 1)).taken n none status
/-- A record is accepted: its launch is live (R189); one whose producer failed already fails in turn (R196). -/
def State.accept (s : State) (n : Nat) (r : List Byte) (l : Launch) : State :=
  let q := s.queue n
  let lid := s.dsp.nextLid
  let bad := l.deps.any fun d => decide (refusedDep ≤ d) || (let p := s.launch d; !p.live && p.status != some 0)
  let s1 := (({ s with dsp := { s.dsp with nextLid := lid + 1, nextOrder := s.dsp.nextOrder + 1 } }).setLaunch lid { l with failed := bad }).taken n (some lid) 0
  let s2 := if q.pceil.toNat < fld r 4 1 then s1.qstat n 2 else s1
  (s2.soon .placementPass).settle [lid]

/-- The number of live launches (R189). -/
def State.liveCount (s : State) : Nat := (s.launches.filter fun p => p.2.live).length

/-- What a round finds at a queue. -/
inductive Head where
  | none                       -- no record to take
  | stop                       -- 256 launches are live
  | stalled (r : List Byte)    -- the head record, whose dependences stall
  | took (s : State)

/-- The address of a queue's head record (R188). -/
def Queue.headAddr (q : Queue) : Nat := (q.base.toNat / 1024 % 2 ^ 42) * 1024 + 1024 * (q.head.toNat % 2 ^ q.log2n.toNat)

/-- Takes the record r of queue n, or refuses it; a DONE page in motion leaves it for a later round (R318). -/
def State.take (s : State) (n : Nat) (r : List Byte) : State :=
  match s.checkRecord n r with
  | .ok l => s.accept n r l
  | .error (st, slot) => if s.doneWaits (s.queue n).job.toNat (fld r 48 8) then s else s.refuse n r st slot

/-- Examines the head of a queue in a round (R188, R189, R195). -/
def State.examine (s : State) (n : Nat) : Head :=
  let q := s.queue n
  if !q.en || q.head = q.tail || s.away q.job then .none
  else if 256 ≤ s.liveCount then .stop
  else match s.dspCheck q.job.toNat .read q.headAddr 1024 1 with
    | .wait => .none
    | .fault _ => .took ((s.setQueue n { q with en := false, stat := (q.stat ||| 0x20) &&& 0x3E }).irq (.launch (BitVec.ofNat 6 n) q.head))
    | .ok =>
      let r := s.getBytes (dspWho q.job.toNat) (BitVec.ofNat 64 q.headAddr) 1024
      if (depsOf r n q).any (s.depWaits n) then .stalled r else .took (s.take n r)

/-- The queues of a round from a list, with the heads that stall: the state, and the queue at which it stopped. -/
def State.roundGo (s : State) : List Nat → List (Nat × List Byte) → State × List (Nat × List Byte) × Option Nat
  | [], st => (s, st, none)
  | n :: ns, st =>
    match s.examine n with
    | .none => State.roundGo s ns st
    | .stop => (s, st, some n)
    | .stalled r => State.roundGo (s.qstat n 1) ns ((n, r) :: st)
    | .took s1 => State.roundGo s1 ns st

/-- The stalled queues that a stalled queue waits on. -/
def State.waitsOn (s : State) (st : List (Nat × List Byte)) (n : Nat) : List Nat :=
  match st.find? fun p => p.1 == n with
  | none => []
  | some p => (((depsOf p.2 n (s.queue n)).filter (s.depWaits n)).map Dep.queue).filter fun m => st.any fun x => x.1 == m
/-- Queues reached from a list along waits. -/
def State.waitReach (s : State) (st : List (Nat × List Byte)) : Nat → List Nat → List Nat
  | 0, r => r
  | k + 1, r => State.waitReach s st k ((r ++ r.flatMap (s.waitsOn st)).eraseDups)

/-- DISPATCH_ROUND (R189): records are taken in ascending queue number from where the last round stopped; of stalled heads in a cycle the lowest-numbered queue's is refused (R195). Only in normal and test mode does the host run kernels (R19). -/
def execDispatchRound (s : State) : Out :=
  if !s.hostRuns then .next s else
  let from' := s.dsp.rrNext
  let qs := (List.range 64).map fun i => (from' + i) % 64
  let (s1, st, stop) := s.roundGo qs []
  let s2 := { s1 with dsp := { s1.dsp with rrNext := stop.getD 0 } }
  let cyc := (List.range 64).find? fun n => (s2.waitReach st 64 (s2.waitsOn st n)).contains n
  let s3 := match cyc with
    | none => s2
    | some n => match st.find? fun p => p.1 == n with
      | none => s2
      | some p => if s2.doneWaits (s2.queue n).job.toNat (fld p.2 48 8) then s2 else s2.refuse n p.2 8 0
  .next s3

-- verification (R471, R472) --------------------------------------------------

/-- The verification record of a launch: a fault of the region gives a zero digest and RESULT 1. none waits for a page being moved. -/
def State.verifyRec (s : State) (l : Launch) : Option (List Byte) :=
  let n := l.vfyPages * 65536
  let rest (res : Nat) : List Byte :=
    natLe l.vfyReg.toNat 8 ++ natLe n 8 ++ natLe l.seq.toNat 4 ++ natLe l.queue.toNat 1 ++ natLe res 1 ++ natLe 0 10
  match s.dspCheck l.job.toNat .read l.vfyReg.toNat n 1 with
  | .wait => none
  | .fault _ => some (natLe 0 32 ++ rest 1)
  | .ok => some (digestBytes (sha256 (s.getBytes (dspWho l.job.toNat) l.vfyReg n)) ++ rest 0)

/-- VERIFY_RECORD (R471): the record is written, then the launch ends. -/
def execVerifyRecord (queue : BitVec 6) (seq : W32) (s : State) : Out :=
  .next (match s.liveLaunch queue seq with
    | none => s
    | some lid =>
      let l := s.launch lid
      if !l.vfy || (s.outcome lid).isNone || s.outcome lid = some 10 then s
      else match s.verifyRec l with
        | none => s
        | some bs =>
          match s.dspCheck l.job.toNat .write l.vfyOut.toNat 64 64 with
          | .wait => s
          | .fault _ => ((s.qstat queue.toNat 0x10).setLaunch lid { l with vfy := false }).settle [lid]
          | .ok => ((s.putBytes (dspWho l.job.toNat) l.vfyOut bs).setLaunch lid { l with vfy := false }).settle [lid])

-- DSP_RESTORE (R424) ---------------------------------------------------------

/-- The fields of DSP_RESTORE that are kept. -/
def restoreMask : W64 := 0xFF8FFFFFFFFFFFC0

/-- The saved team that a restore header names, and LIVE, where the write takes effect (R424). -/
def State.restoreTarget (s : State) (v : W64) : Option (Nat × BitVec 16) :=
  let a := v.toNat % 2 ^ 52 / 64 * 64
  let sock := fieldNat v.toNat 62 61
  if s.dspCheck 0 .read a 64 64 != .ok then none
  else
    let h := s.getBytes (dspWho 0) (BitVec.ofNat 64 a) 64
    let live := BitVec.ofNat 16 (fld h 10 2)
    match s.liveLaunch (BitVec.ofNat 6 (fld h 8 1)) (BitVec.ofNat 32 (fld h 4 4)) with
    | none => none
    | some lid =>
      let l := s.launch lid
      if fld h 0 2 != 1 || fld h 2 2 != l.job.toNat || decide (64 ≤ fld h 8 1) || !zeroAt h 16 48 || fld h 9 1 != l.groups || live = 0
          || s.away l.job || !s.coreOk l sock || decide (coresOf sock ≤ fieldNat v.toNat 60 55) then none
      else match s.teams.find? fun p => p.2.lid == lid && p.2.idx == fld h 12 4 && p.2.state == .saved with
        | none => none
        | some p =>
          let dead := (List.range 16).any fun i => live.getLsbD i && !(match p.2.groups[i]? with | some g => g.bankDone | none => false)
          if dead then none else some (p.1, live)

/-- DSP_RESTORE (R424): a write while GO reads 1 is ignored; with GO it takes effect only for a saved team the header names. -/
def execDspRestore (v : W64) (s : State) : Out :=
  .next (if s.dsp.restore.getLsbD 63 then s
    else
      let keep := v &&& restoreMask
      if !v.getLsbD 63 then { s with dsp := { s.dsp with restore := keep } }
      else match s.restoreTarget v with
        | none => s
        | some (tid, live) =>
          let t := s.team tid
          ({ s with dsp := { s.dsp with restore := keep } }.setTeam tid { t with waitRestore := true, restoreLive := live }).soon .placementPass)

end Sys2Proof.Machine
end

