-- ==== Sys2Proof/Machine/Hier.lean ====
section
/-! DEFINITION. The memory hierarchy's registers and events (R302-R329): store banks, bound queues, slice splits, staging windows, host accesses, snoops, shoot-downs, and the Plinth's links. -/

namespace Sys2Proof.Machine

-- store banks and bound queues (R302, R303, R305) ----------------------------

/-- Whether some bank of a core other than n has MODE = FIFO (R303). -/
def State.otherFifo (s : State) (sock core n : Nat) : Bool :=
  (List.range (storeBanks sock)).any fun m => m != n && ((s.core sock core).store sock m).mode == 2
/-- BANK_MODE_WRITE (R302, R303). -/
def execBankModeWrite (sock core : Nat) (n : BitVec 6) (v : W32) (s : State) : Out :=
  let c := s.core sock core
  let b := c.store sock n.toNat
  let m := v.setWidth 2
  .next (if storeBanks sock ≤ n.toNat ∨ m = 3 ∨ (m ≠ 2 ∧ !s.otherFifo sock core n.toNat) then s
    else s.atDie sock <|
      let s1 := s.setCore sock core (c.setStore sock n.toNat { b with mode := m, pend := m != b.cur })
      if m != b.cur && s.granUse sock core n.toNat == 0 then s1.soon (.bankModeSwitchDone sock core n) else s1)
/-- BANK_MODE_SWITCH_DONE (R303): a pending switch of a bank whose granules are free. Waiting teams may fit now. -/
def execBankModeSwitchDone (sock core : Nat) (n : BitVec 6) (s : State) : Out :=
  let c := s.core sock core
  let b := c.store sock n.toNat
  .next (if !b.pend || s.granUse sock core n.toNat != 0 then s
    else (s.setCore sock core (c.setStore sock n.toNat { b with cur := b.mode, pend := false })).soon .placementPass)
/-- CST_BANKCFG_n as it reads. -/
def State.bankCfg (s : State) (sock core n : Nat) : W32 :=
  let b := (s.core sock core).store sock n
  BitVec.ofNat 32 ((if b.pend then 2 ^ 31 else 0) + s.granUse sock core n * 256 + b.cur.toNat * 16 + b.mode.toNat)

/-- QBIND_WRITE (R305): a binding to a core outside the source's partition reads back with EN = 0. -/
def execQbindWrite (sock core : Nat) (v : W32) (s : State) : Out :=
  let c := s.core sock core
  let k := fieldNat v.toNat 27 24
  let ok := decide (k < 4 ∧ fieldNat v.toNat 23 18 < coresOf k) && (s.die k).present && (s.dsp.mode = 0 || k == sock)
  let w := v &&& 0xCFFC0FFF
  .next (s.atDie sock <| s.setCore sock core { c with qbind := if ok then w else w &&& 0x7FFFFFFF })

-- slices and staging (R306, R310) --------------------------------------------

def Die.split (d : Die) (n : Nat) : Split := SMap.get Split.reset d.splits n
def Die.setSplit (d : Die) (n : Nat) (x : Split) : Die := { d with splits := SMap.put Split.reset d.splits n x }
def Die.win (d : Die) (n : Nat) : StageWin := SMap.get StageWin.reset d.wins n
def Die.setWin (d : Die) (n : Nat) (x : StageWin) : Die := { d with wins := SMap.put StageWin.reset d.wins n x }

/-- A staging window's slice, start and end in 4 KiB units, where it is enabled. -/
def StageWin.area (w : StageWin) : Option (Nat × Nat × Nat) :=
  let r := w.reg.toNat
  if w.reg.getLsbD 63 then some (fieldNat r 47 44, fieldNat r 11 0, fieldNat r 11 0 + fieldNat r 27 16) else none
/-- Whether an enabled window of a slice passes n units of 512 KiB. -/
def Die.winBeyond (d : Die) (slice n : Nat) : Bool :=
  d.wins.any fun p => match p.2.area with | some (k, _, e) => k == slice && decide (128 * n < e) | none => false

/-- L2_SPLIT_WRITE (R306): 17-31 are ignored. -/
def execL2SplitWrite (sock : Nat) (n : BitVec 4) (v : W32) (s : State) : Out :=
  let d := s.die sock
  let x := d.split n.toNat
  let k := v.setWidth 5
  .next (if slicesOf sock ≤ n.toNat ∨ 16 < k.toNat then s
    else s.atDie sock <| (s.setDie sock (d.setSplit n.toNat { x with want := k, pend := k != x.stage })).soon (.l2SplitDone sock n))
/-- L2_SPLIT_DONE (R306): a shrinking part waits until no enabled window lies beyond its new size. -/
def execL2SplitDone (sock : Nat) (n : BitVec 4) (s : State) : Out :=
  let d := s.die sock
  let x := d.split n.toNat
  .next (if !x.pend || (decide (x.want.toNat < x.stage.toNat) && d.winBeyond n.toNat x.want.toNat) then s
    else
      let d1 := d.setSplit n.toNat ⟨x.want, false, x.want⟩
      s.setDie sock { d1 with staging := d1.staging.clear (n.toNat * 2 ^ 23 + x.want.toNat * 2 ^ 19) (2 ^ 23 - x.want.toNat * 2 ^ 19) })

/-- The fields of L2_STAGEWIN. -/
def stagewinMask : W64 := 0x8FFFF0000FFF0FFF
/-- Whether a window with EN = 1 is refused (R310): SIZE 0, past the staging part (the smaller one while it is being resized), or over another window. -/
def Die.winBad (d : Die) (sock n : Nat) (v : W64) : Bool :=
  match (StageWin.mk v false).area with
  | none => false
  | some (k, lo, hi) =>
    let x := d.split k
    lo == hi || decide (slicesOf sock ≤ k) || decide (128 * Nat.min x.stage.toNat x.want.toNat < hi)
    || d.wins.any fun p => p.1 != n && (match p.2.area with | some (j, a, b) => j == k && decide (a < hi ∧ lo < b) | none => false)
/-- STAGEWIN_WRITE (R310). -/
def execStagewinWrite (sock : Nat) (n : BitVec 4) (v : W64) (s : State) : Out :=
  let d := s.die sock
  let w := d.win n.toNat
  let x := v &&& stagewinMask
  .next (s.atDie sock <| if d.winBad sock n.toNat x then s.setDie sock (d.setWin n.toNat { reg := w.reg &&& 0x7FFFFFFFFFFFFFFF, zeroing := false })
    else if v.getLsbD 63 then (s.setDie sock (d.setWin n.toNat ⟨x, true⟩)).soon (.stagewinZeroed sock n)
    else s.setDie sock (d.setWin n.toNat ⟨x, false⟩))
/-- STAGEWIN_ZEROED (R310): the window holds zeros, and EN reads 1. -/
def execStagewinZeroed (sock : Nat) (n : BitVec 4) (s : State) : Out :=
  let d := s.die sock
  let w := d.win n.toNat
  .next (match w.area with
    | some (k, lo, hi) =>
      if !w.zeroing then s
      else
        let d1 := d.setWin n.toNat { w with zeroing := false }
        s.setDie sock { d1 with staging := d1.staging.clear (k * 2 ^ 23 + lo * 4096) ((hi - lo) * 4096) }
    | none => s)
/-- L2_STAGEWIN_n as it reads: EN is 0 while the window is being zeroed. -/
def StageWin.read (w : StageWin) : W64 := if w.zeroing then w.reg &&& 0x7FFFFFFFFFFFFFFF else w.reg

-- where an HBM byte lies (R313, R317) -----------------------------------------

/-- The interleave shift g that SWZ[3:2] of a leaf gives for a page of 2^k bytes (R317). -/
def leafShift (e k : Nat) : Nat := match fieldNat e 59 58 with | 0 => 8 | 1 => 10 | 2 => 12 | _ => k
/-- The present stacks in socket order. -/
def State.stacks (s : State) : List Nat := (List.range 8).filter fun i => s.boot.hbmStacks.getLsbD i
/-- The stack and channel of the HBM byte at final address fa under interleave shift g (R313). -/
def State.hbmPlace (s : State) (fa g : Nat) : Option (Nat × Nat) :=
  let u := fa / 2 ^ g
  let n := s.stacks.length
  if s.isHbm fa then s.stacks[u % n]?.map fun k => (k, u / n % 32) else none
/-- The stack and channel where a job's virtual address lies: none where no leaf maps it to HBM. -/
def State.hbmOf (s : State) (job va : Nat) : Option (Nat × Nat) :=
  let root := (s.job job).root.toNat
  match s.walk job .read va, s.walkGo (va % 2 ^ 52) (fun e k => .ok (leafShift e k)) levels (fieldNat root 51 13 * 8192) with
  | .ok fa, .ok g => s.hbmPlace fa g
  | _, _ => none

-- the host port and snoops (R312, R315, R324) --------------------------------

/-- Whether an access from outside to physical bytes is served: every one of them is present and none is reserved (R312). -/
def State.physServed (s : State) (pa n : Nat) : Bool :=
  (List.range n).all fun i => s.paOk (pa + i) && !s.reserved (pa + i)
/-- Writes physical bytes. -/
def State.putPhysBytes (s : State) (pa : Nat) : List Byte → State
  | [] => s
  | b :: bs => State.putPhysBytes (s.putPhys pa b) (pa + 1) bs
/-- Pages that the host side won and a host access touches are held no more (R324). -/
def State.hostTouch (s : State) (pa n : Nat) : State :=
  { s with mig := { s.mig with held := s.mig.held.filter fun h => !(h.side == 1 && overlap h.pa h.size pa n) } }

/-- HOST_MEMORY_ACCESS (R312): outside the ranges or in the reserved range, an error completion and no effect. A read changes no memory. -/
def execHostMemoryAccess (pa : W64) (len : Nat) (write : Option (List Byte)) (s : State) : Out :=
  .next (if !s.physServed pa.toNat len then s
    else
      let s1 := match write with
        | some bs => s.putPhysBytes pa.toNat (bs.take len)
        | none => s
      s1.hostTouch pa.toNat len)

/-- BACK_INVALIDATE (R315): the home writes the line back and drops every replica of it; line is its physical address. Memory already holds every performed store (log 8). -/
def execBackInvalidate (line : W64) (s : State) : Out :=
  .next (if s.isTier line.toNat then { s with pln := { s.pln with replicas := s.pln.replicas.filter fun r => r.line != line.toNat / 128 } } else s)

/-- SHOOTDOWN (R320): a write of PLN_SHOOTCTL; one while GO is 1 is ignored. -/
def execShootdown (v : W32) (s : State) : Out :=
  .next (if s.pln.shootctl.getLsbD 31 then s
    else
      let s1 := { s with pln := { s.pln with shootctl := v &&& 0xC0FFFFFF } }
      if v.getLsbD 31 then s1.soon .shootdownDone else s1)
/-- The TLB entries of a job dropped for n 64 KiB pages from a page number, or for every page. -/
def State.dropTlb (s : State) (job : BitVec 12) (all : Bool) (lo n : Nat) : State :=
  { s with pln := { s.pln with tlb := s.pln.tlb.filter fun e => !(e.job == job && (all || decide (lo ≤ e.page ∧ e.page < lo + n))) } }
/-- SHOOTDOWN_DONE (R320): every TLB has dropped the range, and GO reads 0; it comes once no accepted command uses a translation of the range. -/
def execShootdownDone (s : State) : Out :=
  let c := s.pln.shootctl
  .next (if !c.getLsbD 31 || s.inUse (c.extractLsb' 12 12).toNat (c.getLsbD 30) (s.pln.shootva.toNat / 65536) (c.toNat % 4096) then s
    else
      let s1 := s.dropTlb (c.extractLsb' 12 12) (c.getLsbD 30) (s.pln.shootva.toNat / 65536) (c.toNat % 4096)
      { s1 with pln := { s1.pln with shootctl := c &&& 0x7FFFFFFF } })

-- links of the Plinth (R326, R327, R329) -------------------------------------

/-- The routers a packet passes under XY, then YX, from router a to b (R326): n steps at most. -/
def routeXY : Nat → Nat → Nat → List Nat
  | 0, a, _ => [a]
  | n + 1, a, b =>
    if a % 4 < b % 4 then a :: routeXY n (a + 1) b
    else if b % 4 < a % 4 then a :: routeXY n (a - 1) b
    else if a < b then a :: routeXY n (a + 4) b
    else if b < a then a :: routeXY n (a - 4) b
    else [a]
def routeYX : Nat → Nat → Nat → List Nat
  | 0, a, _ => [a]
  | n + 1, a, b =>
    if a / 4 < b / 4 then a :: routeYX n (a + 4) b
    else if b / 4 < a / 4 then a :: routeYX n (a - 4) b
    else if a < b then a :: routeYX n (a + 1) b
    else if b < a then a :: routeYX n (a - 1) b
    else [a]
/-- Whether a path uses the link between two routers. -/
def usesLink (path : List Nat) (a b : Nat) : Bool :=
  (path.zip (path.drop 1)).any fun p => (p.1 == a && p.2 == b) || (p.1 == b && p.2 == a)
/-- The route code of PLN_ROUTE for a source and destination (R326). -/
def State.routeCode (s : State) (src dst : Nat) : Nat := fieldNat (SMap.get 0 s.pln.routes src).toNat (2 * dst + 1) (2 * dst)
/-- Whether the table route from src to dst crosses a link; code 2 is adaptive. -/
def State.crosses (s : State) (src dst a b : Nat) : Bool :=
  match s.routeCode src dst with
  | 1 => usesLink (routeYX 6 src dst) a b
  | 2 => false
  | _ => usesLink (routeXY 6 src dst) a b
/-- Whether a job has a live deterministic launch. -/
def State.detJob (s : State) (job : BitVec 12) : Bool := s.launches.any fun p => p.2.live && p.2.det && p.2.job == job

/-- LINK_DOWN (R327): the link is removed; packets of table-routed flows across it are held at their source, and LINK_DOWN is raised where such a flow exists. -/
def execLinkDown (a b : BitVec 4) (s : State) : Out :=
  let hold (p : Packet) : Bool := s.detJob p.job && s.crosses p.src.toNat p.dst.toNat a.toNat b.toNat
  let any := s.launches.any (fun p => p.2.live && p.2.det) && (List.range 16).any fun i => (List.range 16).any fun j => s.crosses i j a.toNat b.toNat
  let s1 := { s with pln := { s.pln with dead := s.pln.dead ++ [⟨a, b, s.pln.packets.filter hold⟩], packets := s.pln.packets.filter fun p => !hold p } }
  .next (if any then s1.irq (.linkDown a b) else s1)

/-- ROUTE_WRITE (R326, R327): PLN_ROUTE_n; held packets whose new route avoids every removed link leave in order. -/
def execRouteWrite (n : BitVec 4) (v : W32) (s : State) : Out :=
  let s1 := { s with pln := { s.pln with routes := SMap.put 0 s.pln.routes n.toNat v } }
  let stuck (p : Packet) : Bool := s1.pln.dead.any fun d => s1.crosses p.src.toNat p.dst.toNat d.a.toNat d.b.toNat
  let freed := s1.pln.dead.flatMap fun d => d.held.filter fun p => !stuck p
  .next { s1 with pln := { s1.pln with dead := s1.pln.dead.map (fun (d : DeadLink) => { d with held := d.held.filter stuck }), packets := s1.pln.packets ++ freed } }

/-- LINK_NARROW (R329): one step, down to a quarter, where narrowing is allowed. -/
def execLinkNarrow (sock : Nat) (s : State) : Out :=
  let d := s.die sock
  .next (if s.pln.pmEn && decide (d.width.toNat < 2) then s.setDie sock { d with width := d.width + 1 } else s)
/-- LINK_WIDEN (R329): back to full width. -/
def execLinkWiden (sock : Nat) (s : State) : Out := .next (s.setDie sock { s.die sock with width := 0 })

/-- DIE_ABSENT_REPLY (R456, R464): a request answered DIE_ABSENT, and the requester's later unanswered ones to that die, are sent to the present homes of their lines, in order; each takes effect once, at home (log 8). -/
def execDieAbsentReply (sock core : Nat) (idx : Nat) (s : State) : Out :=
  .next (match s.pln.sent[idx]? with
    | none => s
    | some q =>
      if q.sock != sock || q.core != core || s.inService q.dest then s
      else
        let sent := (List.range s.pln.sent.length).zip s.pln.sent |>.map fun (p : Nat × Sent) =>
          if idx ≤ p.1 && p.2.sock == sock && p.2.core == core && p.2.dest == q.dest then { p.2 with dest := ((s.home (128 * p.2.line)).map (·.1)).getD q.dest } else p.2
        { s with pln := { s.pln with sent := sent } })

-- peer links (R333, R441) ----------------------------------------------------

/-- PEER_LINK_DOWN (R333): later requests that name the link fail with PEER_LINK. -/
def execPeerLinkDown (n : BitVec 4) (s : State) : Out :=
  .next (if !s.boot.peersUp.getLsbD n.toNat then s
    else ({ s with boot := { s.boot with peersUp := s.boot.peersUp &&& ~~~((1 : BitVec 16) <<< n.toNat) } }).irq (.peerLink n))
/-- INBOUND_PEER_TRANSFER (R317, R344, R441): a peer's own access, by physical address, over a link that is up; it is served like a host access. -/
def execInboundPeerTransfer (link : BitVec 4) (pa : W64) (len : Nat) (write : Option (List Byte)) (s : State) : Out :=
  .next (if !s.boot.peersUp.getLsbD link.toNat || !s.physServed pa.toNat len then s
    else match write with
      | some bs => s.putPhysBytes pa.toNat (bs.take len)
      | none => s)

end Sys2Proof.Machine
end

