-- ==== Sys2Proof/Machine/Migrate.lean ====
section
/-! DEFINITION. The migration arbiter (R321-R325): rings, descriptors, arbitration, the move of a page. A move's copy is one event; every request taken before it is arbitrated with it. -/

namespace Sys2Proof.Machine

-- rings (R322) ---------------------------------------------------------------

def State.ring (s : State) (r : BitVec 1) : MigRing := if r = 0 then s.mig.r0 else s.mig.r1
def State.setRing (s : State) (r : BitVec 1) (x : MigRing) : State :=
  if r = 0 then { s with mig := { s.mig with r0 := x } } else { s with mig := { s.mig with r1 := x } }

/-- A write of MIG_QCFG_s (R322): LOG2N is kept while EN is 1; BAD is write-one-to-clear. -/
def State.migCfg (s : State) (r : BitVec 1) (v : W32) : State :=
  let q := s.ring r
  let q1 := { q with bad := q.bad && !v.getLsbD 4 }
  let n := v.setWidth 4
  if q.en then s.setRing r { q1 with en := v.getLsbD 31 }
  else if !v.getLsbD 31 then s.setRing r { q1 with log2n := n }
  else if n = 0 ∨ 12 < n.toNat ∨ q.base = 0 then s.setRing r { q1 with bad := true }
  else s.setRing r { q1 with en := true, log2n := n, head := 0, tail := 0 }
/-- MIG_RING_ENABLE (R322): a write of MIG_QCFG_s with EN = 1. -/
def execMigRingEnable (r : BitVec 1) (v : W32) (s : State) : Out := .next (s.migCfg r (v ||| 0x80000000))
/-- MIG_RING_DISABLE (R322): taking stops, and requests already taken run on. -/
def execMigRingDisable (r : BitVec 1) (v : W32) (s : State) : Out := .next (s.migCfg r (v &&& 0x7FFFFFFF))
/-- MIG_TAIL_WRITE (R322). -/
def execMigTailWrite (r : BitVec 1) (v : W32) (s : State) : Out :=
  let q := s.ring r
  let bad := q.en && (decide ((v - q.head).toNat < (q.tail - q.head).toNat) || decide (2 ^ q.log2n.toNat < (v - q.head).toNat))
  .next (if bad then s.setRing r { q with tail := v, en := false, bad := true }
    else (s.setRing r { q with tail := v }).soon (.migDescriptorTake r))

-- pages (R316, R317, R323) ---------------------------------------------------

/-- A leaf: the physical address of its entry, the entry, and the page's address bits. -/
structure Leaf where
  at' : Nat
  entry : Nat
  bits : Nat
/-- The valid leaf that maps an address, MIG set or not (R316, R317). -/
def State.leafGo (s : State) (va : Nat) : List (Nat × Nat × Nat) → Nat → Option Leaf
  | [], _ => none
  | (hi, lo, next) :: rest, tbl =>
    let a := tbl + 8 * fieldNat va hi lo
    let e := leNat (SMap.bytes s.mem a 8)
    if fieldNat e 0 0 = 0 then none
    else if fieldNat e 1 1 = 1 then (if next = 15 || !s.leafOk e lo then none else some ⟨a, e, lo⟩)
    else if next = 0 || fieldNat e 7 2 != 0 || fieldNat e 63 52 != 0 || entryAddr e % 2 ^ next != 0 || !s.paOk (entryAddr e) then none
    else State.leafGo s va rest (entryAddr e)
def State.leafOf (s : State) (job : Nat) (va : Nat) : Option Leaf :=
  let root := (s.job job).root.toNat
  if root / 2 ^ 63 = 0 || decide (2 ^ 52 ≤ va) then none else s.leafGo va levels (fieldNat root 51 13 * 8192)

/-- The range a page lies in, as DEST codes it: 0 HBM, 1 tier, 2 host memory; 3 a peer page. -/
def State.rangeOf (s : State) (e : Nat) : Nat :=
  let a := entryAddr e
  if fieldNat e 4 4 = 1 then 3 else if s.isHbm a then 0 else if s.isTier a then 1 else 2
/-- Whether a page of n bytes at a physical address lies in a DEST's range, outside the reserved one. -/
def State.inRange (s : State) (dest pa n : Nat) : Bool :=
  let last := pa + n - 1
  match dest with
  | 0 => s.isHbm pa && s.isHbm last && !s.reserved pa && !s.reserved last
  | 1 => s.isTier pa && s.isTier last
  | _ => isHost pa && isHost last

/-- Writes a leaf entry. -/
def State.putEntry (s : State) (a e : Nat) : State := s.putPhysBytes a (natLe e 8)
/-- A field of an entry replaced. -/
def setBits (e hi lo x : Nat) : Nat := e - fieldNat e hi lo * 2 ^ lo + x * 2 ^ lo

-- descriptors (R321, R324) ---------------------------------------------------

/-- Writes a status word (R321, R322): ring 0 at a job 0 address, ring 1 at a physical address in host memory. A store that fails its checks is dropped. -/
def State.migStatus (s : State) (ring : Nat) (done : W64) (st : Nat) : State :=
  if ring = 0 then
    (if s.dspCheck 0 .write done.toNat 8 8 = .ok then s.putBytes (dspWho 0) done (natLe st 8) else s)
  else if isHost done.toNat && isHost (done.toNat + 7) then s.putPhysBytes done.toNat (natLe st 8) else s
def stMoved : Nat := 0
def stLost : Nat := 1
def stHeld : Nat := 2
def stBadreq : Nat := 3
def stAlready : Nat := 4

/-- The 32 bytes of a ring's head descriptor: none where it cannot be read, wait while its page moves. -/
inductive Desc where
  | wait | bad | bytes (b : List Byte)
def State.descriptor (s : State) (r : BitVec 1) : Desc :=
  let q := s.ring r
  let a := q.base.toNat / 32 * 32 + 32 * (q.head.toNat % 2 ^ q.log2n.toNat)
  if r = 0 then
    (match s.dspCheck 0 .read a 32 32 with
     | .ok => .bytes (s.getBytes (dspWho 0) (BitVec.ofNat 64 a) 32)
     | .wait => .wait
     | .fault _ => .bad)
  else if isHost a && isHost (a + 31) then .bytes (SMap.bytes s.mem a 32) else .bad

/-- Whether a descriptor for a page of n bytes is malformed (R321). -/
def State.malformed (s : State) (b : List Byte) (n : Nat) : Bool :=
  !zeroAt b 11 5 || decide (4096 ≤ fld b 8 2) || decide (2 < fld b 10 1) || fld b 0 8 % n != 0 || fld b 16 8 % n != 0 || !s.inRange (fld b 10 1) (fld b 16 8) n
/-- A descriptor's request, where it is well formed and its page may move (R321): no 1 GiB page, no page the job's leaf does not map. A page of a peer may come only by a ring 0 request to HBM (R325). -/
def State.readReq (s : State) (ring : Nat) (b : List Byte) : Option (MigReq × Leaf) :=
  let va := fld b 0 8
  let pa := fld b 16 8
  let dest := fld b 10 1
  match s.leafOf (fld b 8 2 % 4096) va with
  | none => none
  | some l =>
    let n := 2 ^ l.bits
    if l.bits = 30 || s.malformed b n || (s.rangeOf l.entry = 3 && !(ring == 0 && dest == 0)) then none
    else some (⟨ring, BitVec.ofNat 64 va, BitVec.ofNat 12 (fld b 8 2), dest, BitVec.ofNat 64 pa, BitVec.ofNat 64 (fld b 24 8), n⟩, l)

/-- Whether a resident team's export share holds a page (R211). -/
def State.shareHolds (s : State) (m : MigReq) : Bool :=
  s.teams.any fun p => p.2.state != .saved && p.2.job == m.job
    && ((s.launch p.2.lid).sharePages p.2.idx).any fun va => decide (m.va.toNat ≤ va / 65536 * 65536 ∧ va / 65536 * 65536 < m.va.toNat + m.size)
/-- Whether a request's page is one of a job. -/
def MigReq.same (a b : MigReq) : Bool := a.job == b.job && a.va == b.va

/-- MIG_DESCRIPTOR_TAKE (R321-R324): a request is answered (a malformed one BADREQ first, then HELD, then ALREADY), joins a move of its page that has not begun to copy, or starts one: MIG is set and the page shot down. An unreadable descriptor clears EN and sets BAD (log 25). -/
def execMigDescriptorTake (r : BitVec 1) (s : State) : Out :=
  let q := s.ring r
  .next (if !q.en || q.head = q.tail then s
    else match s.descriptor r with
      | .wait => s
      | .bad => s.setRing r { q with en := false, bad := true }
      | .bytes b =>
        let s1 := s.setRing r { q with head := q.head + 1 }
        let s2 := if q.head + 1 = q.tail then s1 else s1.soon (.migDescriptorTake r)
        let held := s2.mig.held.any fun h => h.job.toNat == fld b 8 2 && h.va.toNat == fld b 0 8 && !s2.malformed b h.size
        if held then s2.migStatus r.toNat (BitVec.ofNat 64 (fld b 24 8)) stHeld
        else match s2.readReq r.toNat b with
        | none => s2.migStatus r.toNat (BitVec.ofNat 64 (fld b 24 8)) stBadreq
        | some (m, l) =>
          if s2.shareHolds m then s2.migStatus m.ring m.done stHeld
          else if s2.rangeOf l.entry = m.dest then s2.migStatus m.ring m.done stAlready
          else if s2.mig.moves.any m.same then { s2 with mig := { s2.mig with moves := s2.mig.moves ++ [m] } }
          else
            let s3 := (s2.putEntry l.at' (setBits l.entry 7 7 1)).dropTlb m.job false (m.va.toNat / 65536) (m.size / 65536)
            ({ s3 with mig := { s3.mig with moves := s3.mig.moves ++ [m] } }).soon .migrationCopyDone)

-- the move (R323, R324) ------------------------------------------------------

/-- The side a request asks toward: 0 device, 1 host; a tier request asks toward neither. -/
def MigReq.asks (m : MigReq) : Option Nat := if m.dest = 0 then some 0 else if m.dest = 2 then some 1 else none
/-- The side that wins among requests for one page: AFF decides between both sides, and with AFF 0 the device (R324). -/
def winSide (ms : List MigReq) (aff : Nat) : Option Nat :=
  let dev := ms.any fun m => m.asks == some 0
  let host := ms.any fun m => m.asks == some 1
  if dev && host then some (if aff = 2 then 1 else 0) else none

/-- Copies a page of n bytes: the byte that the leaf e maps at each offset goes to that offset of pa (R317, R323). -/
def State.copyPage (s : State) (e pa n swz : Nat) : State :=
  let base := entryAddr e
  let old := fieldNat e 59 56
  let moved := (s.mem.filter fun p => decide (base ≤ p.1 ∧ p.1 < base + n)).map fun p => (swizzle swz (pa + (swizzle old p.1 - base)), p.2)
  let m := SMap.clear s.mem pa n
  let mine (line : Nat) : Bool := overlap (128 * line) 128 pa n
  { s with mem := moved.foldl (fun m p => SMap.put 0 m p.1 p.2) m, pln := { s.pln with replicas := s.pln.replicas.filter fun r => !mine r.line } }
/-- Fills a page with the bytes a one-sided get brings from a peer (R325, log 21): free values, 8 bytes each. -/
def State.getPage (s : State) (pa : Nat) : Nat → State
  | 0 => s
  | n + 1 => State.getPage ({ s with fresh := s.fresh + 1 }.putPhysBytes pa (natLe (Config.freeWord s.fresh).toNat 8)) (pa + 8) n

/-- The move of a page carried out for request m (R323): its bytes, its leaf. A swizzle stays with a page of HBM only (R317). -/
def State.movePage (s : State) (m : MigReq) (l : Leaf) : State :=
  let swz := if m.dest = 0 && s.rangeOf l.entry = 0 then fieldNat l.entry 59 56 else 0
  let s1 := if s.rangeOf l.entry = 3 then s.getPage m.pa.toNat (m.size / 8) else s.copyPage l.entry m.pa.toNat m.size swz
  let e := setBits (setBits (setBits (setBits (setBits l.entry 63 60 0) 59 56 swz) 51 8 (m.pa.toNat / 256)) 7 7 0) 4 4 0
  (s1.putEntry l.at' (if m.dest = 2 then setBits e 0 0 0 else e)).dropTlb m.job false (m.va.toNat / 65536) (m.size / 65536)

/-- MIGRATION_COPY_DONE (R323, R324): the oldest page's requests are arbitrated, the earliest of the winning side carried out, and each answered; the page is HELD until that side has used it. The shoot-down before the copy waits for accepted matrix commands that use the page (R320). Waits on moved pages end. -/
def execMigrationCopyDone (s : State) : Out :=
  .next (match s.mig.moves with
    | [] => s
    | m0 :: _ =>
      if s.inUse m0.job.toNat false (m0.va.toNat / 65536) (m0.size / 65536) then s
      else
      let all := s.mig.moves.filter m0.same
      let s1 := { s with mig := { s.mig with moves := s.mig.moves.filter fun m => !m0.same m } }
      match s1.leafOf m0.job.toNat m0.va.toNat with
      | none => all.foldl (fun s m => s.migStatus m.ring m.done stBadreq) s1
      | some l =>
        let side := winSide all (fieldNat l.entry 6 5)
        let fit (m : MigReq) : Bool := match side with | some w => m.asks == some w | none => true
        match all.find? fit with
        | none => s1
        | some w =>
          let s2 := s1.movePage w l
          let s3 := all.foldl (fun s m => if fit m && m.dest == w.dest then s.migStatus m.ring m.done stMoved else s) s2
          let s4 := all.foldl (fun s m => if fit m && m.dest == w.dest then s else s.migStatus m.ring m.done stLost) s3
          let won : Nat := match w.asks with | some a => a | none => w.ring
          let s5 : State := { s4 with mig := { s4.mig with held := s4.mig.held ++ [HeldPage.mk w.job w.va won w.pa.toNat w.size] } }
          let s6 := if s5.mig.moves.isEmpty then s5 else s5.soon .migrationCopyDone
          (s6.settle ((s6.launches.filter fun p => p.2.live).map (·.1))).soon .dispatchRound)

end Sys2Proof.Machine
end

