-- ==== Sys2Proof/Machine/Boot.lean ====
section
/-! DEFINITION. Before any work (R13-R23): boot stages and the failed-step record, the capability list (R16-R18, R311, R474), package modes, attestation, updates. -/

namespace Sys2Proof.Machine

-- dies and the capability list (R2, R311, R474) ------------------------------

/-- Present compute dies in service or under reset. -/
def State.presentDies (s : State) : List Nat := s.partDies 0
/-- Stops present: those of present compute dies. -/
def State.stopsPresent (s : State) : Nat := (coreList s.presentDies).length
/-- The class byte of a socket in capability 0x0002. -/
def sockClass (k : Nat) : Nat := if k < 2 then 1 else if k < 4 then 0 else if k < 6 then 2 else if k < 8 then 0xFF else 3
/-- Whether a socket holds a part in service (R2). -/
def State.sockPresent (s : State) (k : Nat) : Bool :=
  if k < 4 then (s.die k).present else if k = 4 then true else if k = 5 then s.boot.io1 else if k < 8 then false else s.boot.hbmStacks.getLsbD (k - 8)
/-- A die's record in capability 0x0002. -/
def State.dieRecord (s : State) (k : Nat) : List Byte :=
  let flags := (if s.sockPresent k then 1 else 0) + (if k < 4 && (s.die k).inReset then 2 else 0) + (if k < 4 && (s.die k).leftOut then 4 else 0)
  natLe flags 1 ++ natLe (sockClass k) 1 ++ natLe (coresOf k) 1 ++ natLe (coresOf k / 8) 1 ++ natLe (slicesOf k) 2 ++ natLe 0 2

def State.tierOf (s : State) (n : Nat) : Nat := s.boot.tier.getD n 0
/-- Firmware versions of sockets 0-5 (capability 0x0001); 0 for an absent one. A socket that never committed an image of its own runs that of the package (DESIGN CHOICE, log 5). -/
def State.sockVer (s : State) (k : Nat) : Nat := if s.sockPresent k then (SMap.get s.boot.pkgver s.boot.vers k).toNat else 0
/-- The package caps of R460: table, row, inlet bound, package, W2 and N1 caps. -/
def coolRows : List (Nat × Nat × Nat × Nat × Nat × Nat) :=
  [(0, 0, 35, 900, 300, 150), (0, 1, 255, 600, 200, 100), (1, 0, 40, 3200, 1050, 520), (1, 1, 45, 2800, 920, 450), (1, 2, 50, 2400, 780, 390),
   (1, 3, 255, 900, 300, 150), (2, 0, 45, 3200, 1050, 520), (2, 1, 55, 2800, 920, 450), (2, 2, 255, 900, 300, 150)]

/-- The body of a capability (R311, R474). -/
def State.capBody (s : State) (id : Nat) : List Byte :=
  let b := s.boot
  match id with
  | 1 => (List.range 4).flatMap (fun i => natLe (Config.identityWord i).toNat 4) ++ natLe 0x4D09 4 ++ natLe (Config.identityWord 4).toNat 2 ++ natLe 0 2
      ++ natLe b.pkgver.toNat 4 ++ natLe b.romver.toNat 4 ++ natLe (if b.slotB then 1 else 0) 1 ++ natLe 0 3
      ++ (List.range 6).flatMap (fun k => natLe (s.sockVer k) 4) ++ natLe b.rollback.toNat 4
  | 2 => (List.range 16).flatMap s.dieRecord
  | 3 => natLe s.hbmSize 8 ++ natLe b.hbmStacks.toNat 1 ++ natLe 0 7 ++ natLe (s.hbmSize - 32 * gib) 8 ++ natLe (32 * gib) 8
      ++ (List.range 8).flatMap fun n =>
        natLe (if b.hbmStacks.getLsbD n then ((List.range n).filter fun i => b.hbmStacks.getLsbD i).length * 64 * gib else 2 ^ 64 - 1) 8
  | 4 => (List.range 8).flatMap fun n =>
      let c := s.tierOf n
      let base := ((List.range n).map s.tierOf).foldl (· + ·) 0
      if c = 0 then natLe 0 16
      else natLe 1 1 ++ natLe (Config.tierWidth n) 1 ++ natLe (Config.tierRate n) 1 ++ natLe 0 1 ++ natLe (Nat.min c (4096 - base)) 4
        ++ natLe (tierBase + base * gib) 8
  | 5 => natLe b.peersPresent.toNat 4 ++ natLe b.peersUp.toNat 4
  | 6 => natLe s.stopsPresent 2 ++ natLe s.reel.byp.toNat 1 ++ natLe 0 1 ++ natLe 512 4
  | 7 => natLe 1 4
  | 8 =>
    let dies := s.presentDies.filter s.inS
    let cs := coreList dies
    let ss := dies.flatMap fun k => (List.range (slicesOf k)).map fun i => (k, i)
    natLe b.latSeq.toNat 4 ++ natLe cs.length 2 ++ natLe ss.length 2
      ++ cs.flatMap fun c => ss.flatMap fun x => natLe (Config.sliceLatency c.1 c.2 x.1 x.2).toNat 2
  | 9 => (List.range 6).flatMap fun k =>
      if s.sockPresent k then natLe (identityKey k).toNat 64 ++ natLe (identityCert k).toNat 64 else natLe 0 128
  | _ => natLe 9 1 ++ natLe 105 1 ++ natLe 125 1 ++ natLe 0 1 ++ coolRows.flatMap fun r =>
      natLe r.1 1 ++ natLe r.2.1 1 ++ natLe r.2.2.1 1 ++ natLe 0 1 ++ natLe r.2.2.2.1 4 ++ natLe r.2.2.2.2.1 4 ++ natLe r.2.2.2.2.2 4

/-- The words of one entry (R16): its header, its body, and zeros up to a multiple of 8 bytes. -/
def State.capEntry (s : State) (id : Nat) (last : Bool) : List W32 :=
  let body := s.capBody id
  let n := (4 + body.length + 7) / 8
  BitVec.ofNat 32 ((if last then 0 else n) * 2 ^ 20 + 2 ^ 16 + id) :: wordsOfBytes (body ++ natLe 0 (8 * n - 4 - body.length))
/-- The capability list (R16, R18). -/
def State.capList (s : State) : List W32 := [1, 2, 3, 4, 5, 6, 7, 8, 9].flatMap (fun id => s.capEntry id false) ++ s.capEntry 10 true
/-- The list that firmware has published at stage 10 follows the parts in service (R22). -/
def State.relist (s : State) : State := if s.boot.caps.isEmpty then s else { s with boot := { s.boot with caps := s.capList } }
/-- The same with a new publication of the latency table (R311): SEQ counts it. -/
def State.republish (s : State) : State :=
  if s.boot.caps.isEmpty then s else ({ s with boot := { s.boot with latSeq := s.boot.latSeq + 1 } }).relist

-- the failed-step record (R14, R15) ------------------------------------------

/-- PLN_BOOTREC. -/
def Boot.bootrec (b : Boot) : Nat :=
  b.last.toNat * 2 ^ 24 + b.fail.toNat * 2 ^ 16 + b.sock.toNat * 2 ^ 12 + b.cause.toNat * 2 ^ 8 + b.tries.toNat * 2 ^ 4 + (if b.valid then 1 else 0)
/-- PLN_BOOTUNIT. -/
def Boot.bootunit (b : Boot) : Nat := b.ukind.toNat * 64 + b.unit.toNat
/-- The record cleared (R14). -/
def Boot.clearRec (b : Boot) : Boot := { b with last := 0, fail := 0xFF, sock := 0xF, cause := 0, tries := 0, valid := false, ukind := 0, unit := 0 }
/-- Records a failure at a stage (R14): TRIES counts consecutive starts that failed at the same stage and socket. -/
def Boot.record (b : Boot) (stage : Nat) (f : BootFail) : Boot :=
  let same := b.valid && b.fail.toNat == stage && b.sock == f.sock
  { b with fail := BitVec.ofNat 8 stage, sock := f.sock, cause := f.cause, valid := true,
           tries := if same then (if b.tries = 15 then 15 else b.tries + 1) else 1,
           ukind := if stage = 9 then f.kind else 0, unit := if stage = 9 then f.unit else 0 }
/-- How stage 9 names a part that failed (R14): SOCK 5, a tier port 0-7 or a peer link 0-15, else KIND 0 and UNIT 0. -/
def failUnit (f : BootFail) : BootFail :=
  if f.kind = 1 then { f with sock := 5, unit := f.unit &&& 7 } else if f.kind = 2 then { f with sock := 5, unit := f.unit &&& 15 } else { f with sock := 5, kind := 0, unit := 0 }
/-- Whether the recorded step is a required one (R13, R15). -/
def Boot.recRequired (b : Boot) : Bool :=
  b.valid && (match b.fail.toNat with | 4 => b.sock == 0xF | 5 => b.sock == 0xF | 6 => b.sock == 0xF | 9 => false | n => decide (1 ≤ n ∧ n ≤ 10))
/-- Whether the part of a failure is skipped in this start (R15). -/
def Boot.skipped (b : Boot) (sock : Nat) : Bool := b.skips.any fun f => f.kind == 0 && f.sock.toNat == sock
def Boot.skippedUnit (b : Boot) (kind unit : Nat) : Bool := b.skips.any fun f => f.kind.toNat == kind && f.unit.toNat == unit

/-- The tier ports and peer links that train where IO1 is in service (R13, R15). -/
def Boot.tierUp (b : Boot) : List Nat := (List.range 8).map fun i => if b.skippedUnit 1 i then 0 else Config.tierCapacity i
def Boot.linksUp (b : Boot) : BitVec 16 := ((List.range 16).filter fun i => Config.peerLinks.getLsbD i && !b.skippedUnit 2 i).foldl (fun m i => m ||| ((1 : BitVec 16) <<< i)) 0

-- a start (R13, R15, R19) ----------------------------------------------------

/-- What survives a start: the record, the images in store, the fuses, host memory; and the model's counters. -/
def State.powerUp (s : State) : State :=
  let b := s.boot
  { State.reset with
    boot := { Boot.reset with
      last := b.last, fail := b.fail, sock := b.sock, cause := b.cause, tries := b.tries, valid := b.valid, ukind := b.ukind, unit := b.unit,
      rollback := b.rollback, passes := b.passes, pkgver := b.pkgver, romver := b.romver, vers := b.vers, digests := b.digests, slotB := b.slotB,
      imgA := b.imgA, imgB := b.imgB }
    mem := s.mem.filter fun p => isHost p.1, irqs := s.irqs, time := s.time, fresh := s.fresh }
/-- An accepted package image goes into the slot that the next start loads (R15, R19; the slot is the model's choice, log 5). -/
def Boot.install (b : Boot) (img : BitVec 256 × W32) : Boot :=
  let b1 := { b with tries := 0, recovery := none }
  if b.slotB then { b1 with imgB := some img } else { b1 with imgA := some img }
/-- The image in the slot that stage 2 loads (R13): its digest, none for the image of manufacture, and its version. -/
def Boot.slotImg (b : Boot) : Option (BitVec 256) × W32 := match if b.slotB then b.imgB else b.imgA with | some i => (some i.1, i.2) | none => (none, 0)
/-- The digest that a socket runs where it differs from that of manufacture. -/
def Boot.putDigest (b : Boot) (k : Nat) (d : Option (BitVec 256)) : Boot :=
  let rest := b.digests.filter fun x => x.1 != k
  { b with digests := match d with | some d => (k, d) :: rest | none => rest }
/-- Stage 2 has loaded the image of its slot: it runs on IO0; the passes counted are those of one image (R20). -/
def Boot.load (b : Boot) : Boot :=
  let same := b.pkgver == b.slotImg.2 && (b.digests.find? fun d => d.1 == 4).map (·.2) == b.slotImg.1
  { (b.putDigest 4 b.slotImg.1) with pkgver := b.slotImg.2, passes := if same then b.passes else 0 }
/-- Begins a stage (R14): LAST names it; a required step that has failed three times stops the start in recovery mode (R15). -/
def State.beginStage (s : State) (n : Nat) : State :=
  let b := s.boot
  if b.recRequired && b.fail.toNat == n && decide (3 ≤ b.tries.toNat) then { s with boot := { b with mode := 3, stage := 0, last := BitVec.ofNat 8 n } }
  else { s with boot := { b with stage := n, last := BitVec.ofNat 8 n } }

/-- COLD_START (R13, R15, R19): start-up mode; the recorded step is skipped, or retried a different way. After a retry that passed (TRIES 0) the start keeps the slot, rate or limit that passed (DESIGN CHOICE, log 5). An accepted recovery image is stored before it. -/
def execColdStart (s : State) : Out :=
  let s1 := s.powerUp
  let b0 := match s.boot.recovery with | some img => s1.boot.install img | none => s1.boot
  let b := { b0 with mode := 1 }
  let rec' : BootFail := ⟨b.sock, b.cause, b.ukind, b.unit⟩
  let b1 :=
    if !b.valid then b
    else if !b.recRequired then { b with skips := [rec'] }
    else if b.fail = 2 then { b with slotB := if b.tries = 0 then b.slotB else !b.slotB }
    else if b.fail = 3 then { b with pcieStep := if b.tries = 0 then s.boot.pcieStep else b.tries.toNat }
    else { b with doubled := true }
  .next ({ s1 with boot := b1 }.beginStage 1)

/-- A required step fails (R15): the start ends; after three failures the package is in recovery mode (R19). -/
def State.failStart (s : State) (stage : Nat) (cause : BitVec 4) : State :=
  let b := s.boot.record stage ⟨0xF, cause, 0, 0⟩
  { s with boot := { b with stage := 0, mode := if 3 ≤ b.tries.toNat then 3 else b.mode } }

/-- The clocks of a die's bays as boot leaves them (R300): CODE and TARGET 72, the highest (log 5). -/
def bootBays (sock : Nat) : SMap Bay :=
  (List.range (coresOf sock / 8)).map fun i => (i, { Bay.reset with fll := BitVec.ofNat 32 ((Config.ldoStep 72).toNat * 65536 + 72 * 256 + 72) })
/-- A die that came up. -/
def Die.up (d : Die) (sock : Nat) : Die := { d with present := true, bays := bootBays sock }

/-- What a stage leaves, given the parts that failed in it (R13): none where it counts as a required step that failed, with its cause. -/
def State.stageWork (s : State) (n : Nat) (fails : List BootFail) : Except (BitVec 4) State :=
  let b := s.boot
  let failed (k : Nat) : Bool := fails.any fun f => f.sock.toNat == k
  let cause : BitVec 4 := (fails.headD ⟨0xF, 1, 0, 0⟩).cause
  match n with
  | 2 => if fails.isEmpty then .ok { s with boot := b.load } else .error cause
  | 4 =>
    let up := (List.range 8).filter fun i => !b.skipped (8 + i) && !failed (8 + i)
    if up.isEmpty then .error cause
    else .ok { s with boot := { b with hbmStacks := up.foldl (fun m i => m ||| ((1 : BitVec 8) <<< i)) 0 } }
  | 5 =>
    let up := (List.range 4).filter fun k => !b.skipped k && !failed k
    let s1 := (List.range 4).foldl (fun s k => if up.contains k then s.setDie k ((s.die k).up k) else s.setDie k { s.die k with skipped := b.skipped k }) s
    if up.isEmpty then .error cause else .ok { s1 with boot := { b with io1 := !b.skipped 5 && !failed 5 } }
  | 6 =>
    let up := s.presentDies.filter fun k => !b.skipped k && !failed k
    let s1 := s.presentDies.foldl (fun s k => if up.contains k then s else s.setDie k { Die.reset with skipped := b.skipped k }) s
    if up.isEmpty then .error cause else .ok s1
  | 7 => if fails.isEmpty then .ok { s with reel := { s.reel with byp := (List.range 4).foldl (fun m k => if (s.die k).present then m else m ||| ((1 : BitVec 4) <<< k)) 0, empty := 512 } } else .error cause
  | 8 => if fails.isEmpty then
      .ok { s with cache0 := { s.cache0 with inuse := s.presentDies.any (fun k => classOf k == 0) }, cache1 := { s.cache1 with inuse := s.presentDies.any fun k => classOf k == 1 } }
    else .error cause
  | 9 =>
    let bad (kind unit : Nat) : Bool := !b.io1 || b.skippedUnit kind unit || fails.any fun f => (failUnit f).kind.toNat == kind && (failUnit f).unit.toNat == unit
    let links := if b.io1 then b.linksUp else 0
    let up := ((List.range 16).filter fun i => Config.peerLinks.getLsbD i && !bad 2 i).foldl (fun m i => m ||| ((1 : BitVec 16) <<< i)) 0
    .ok { s with boot := { b with tier := (List.range 8).map (fun i => if bad 1 i then 0 else Config.tierCapacity i), peersPresent := links, peersUp := up } }
  | 10 =>
    if !fails.isEmpty then .error cause
    else
      let newer := decide (b.rollback.toNat < b.pkgver.toNat)
      let raise := newer && decide (1 ≤ b.passes)
      let b1 := { b with
        stage := 0, mode := if b.testReq then 2 else 0, testReq := false, tries := 0, doubled := false,
        rollback := if raise then b.pkgver else b.rollback, passes := if raise || !newer then 0 else b.passes + 1, latSeq := b.latSeq + 1 }
      let s1 := { s with boot := b1 }
      .ok ({ s1 with boot := { b1 with caps := s1.capList } }.irq .doorbell)
  | _ => if fails.isEmpty then .ok s else .error cause

/-- The failure that the one record of a start's stage holds where several parts failed in it: the last of them (R14; DESIGN CHOICE, log 5). TRIES counts the start once. -/
def State.recordFails (s : State) (n : Nat) (fails : List BootFail) : State :=
  match fails.getLast? with
  | some f => { s with boot := s.boot.record n (if n = 9 then failUnit f else f) }
  | none => s
/-- The parts whose own image is below the anti-rollback counter fail the stage that verifies it, with CAUSE 3 (R20): the package's slot at stage 2, a die's image at stage 6. -/
def State.rollbackFails (s : State) (n : Nat) : List BootFail :=
  let b := s.boot
  match n with
  | 2 => if b.slotImg.2.toNat < b.rollback.toNat then [⟨0xF, 3, 0, 0⟩] else []
  | 6 => (s.presentDies.filter fun k => decide ((SMap.get b.pkgver b.vers k).toNat < b.rollback.toNat)).map fun k => ⟨BitVec.ofNat 4 k, 3, 0, 0⟩
  | _ => []

/-- A stage ends with the parts that failed in it (R13-R15, R20). -/
def State.endStage (s : State) (given : List BootFail) : State :=
  let n := s.boot.stage
  let fails := given ++ s.rollbackFails n
  if n = 0 then s
  else match s.stageWork n fails with
    | .error cause => s.failStart n cause
    | .ok s1 =>
      let s2 := if n = 4 ∨ n = 5 ∨ n = 6 ∨ n = 9 then s1.recordFails n fails else s1
      if n = 10 then s2 else s2.beginStage (n + 1)

/-- BOOT_STAGE_END (R13): the running stage ends; fails names the parts whose check failed. -/
def execBootStageEnd (fails : List BootFail) (s : State) : Out := .next (s.endStage fails)
/-- BOOT_STAGE_LIMIT (R13): the stage counts as failed, with CAUSE 1, for the part named where it has parts. -/
def execBootStageLimit (f : BootFail) (s : State) : Out := .next (s.endStage [{ f with cause := 1 }])
/-- STANDBY_POWER_LOSS (R14): the record is cleared; nothing runs without power. -/
def execStandbyPowerLoss (s : State) : Out := let s1 := s.powerUp; .next { s1 with boot := s1.boot.clearRec }
/-- BOOTREC_CLEAR (R14): writing 1 to VALID. -/
def execBootrecClear (v : W32) (s : State) : Out := .next (if v.getLsbD 0 then { s with boot := s.boot.clearRec } else s)

-- modes and trust (R19-R21) --------------------------------------------------

/-- Whether a list of bytes holds another, at any offset. -/
def holdsBytes (bs xs : List Byte) : Bool := (List.range (bs.length + 1)).any fun i => (bs.drop i).take xs.length == xs
/-- Whether a firmware command verifies (R19): its bytes carry the nonce of the last attestation request, at a place the spec does not give (log 6), and the signature is of their digest. -/
def State.cmdOk (s : State) (c : SignedCmd) : Bool :=
  !s.boot.report.isEmpty && holdsBytes c.body (digestBytes s.boot.nonce) && ecdsaVerify vendorKey (sha256 c.body) c.sig
/-- TEST_MODE_COMMAND (R19): in normal mode at once, during a start at the end of stage 10. -/
def execTestModeCommand (c : SignedCmd) (s : State) : Out :=
  .next (if !s.cmdOk c then s
    else if s.boot.mode = 0 then { s with boot := { s.boot with mode := 2 } }
    else if s.boot.mode = 1 && s.boot.stage != 0 then { s with boot := { s.boot with testReq := true } }
    else s)
/-- EXIT_COMMAND (R19): takes effect once no launch is live. -/
def execExitCommand (c : SignedCmd) (s : State) : Out :=
  .next (if s.cmdOk c && s.boot.mode == 2 then { s with boot := { s.boot with exitReq := true } }.soon .testModeExit else s)
/-- TEST_MODE_EXIT (R19). -/
def execTestModeExit (s : State) : Out :=
  .next (if s.boot.exitReq && s.boot.mode == 2 && s.liveCount == 0 then { s with boot := { s.boot with exitReq := false, mode := 0 } } else s)
/-- RECOVERY_IMAGE (R15, R20): in recovery mode, a signed image at or above the counter is accepted for the next start. -/
def execRecoveryImage (digest : BitVec 256) (version : W32) (sig : BitVec 512) (s : State) : Out :=
  .next (if s.boot.mode = 3 && ecdsaVerify vendorKey digest sig && decide (s.boot.rollback.toNat ≤ version.toNat) then
      { s with boot := { s.boot with recovery := some (digest, version) } }
    else s)

/-- The digest of the image a socket runs (R21): zero for an absent socket and for a stack. -/
def State.digestOf (s : State) (k : Nat) : BitVec 256 :=
  if k < 6 && s.sockPresent k then (match s.boot.digests.find? fun d => d.1 == k with | some d => d.2 | none => Config.imageDigest k) else 0
/-- Bytes 0-1587 of the attestation report (R21). -/
def State.reportBody (s : State) (nonce : BitVec 256) : List Byte :=
  let nb := digestBytes nonce
  let mask := ((List.range 16).filter s.sockPresent).foldl (fun m k => m + 2 ^ k) 0
  let sign (k : Nat) : List Byte :=
    if k < 6 && k != 4 && s.sockPresent k then
      natLe (identitySign k (sha256 (nb ++ natLe k 1 ++ digestBytes (s.digestOf k)))).toNat 64
    else natLe 0 64
  natLe 1 4 ++ natLe mask 4 ++ nb ++ (List.range 16).flatMap (fun k => digestBytes (s.digestOf k)) ++ natLe s.boot.rollback.toNat 4 ++ natLe s.boot.bootrec 4
  ++ natLe ((if s.updating.isSome || !s.updates.isEmpty then 1 else 0) + (if s.boot.mode = 2 then 2 else 0)) 4 ++ (List.range 16).flatMap sign
/-- ATTESTATION_REQUEST (R21): IO0 builds, countersigns and signs the report; the nonce is the last one. -/
def execAttestationRequest (nonce : BitVec 256) (s : State) : Out :=
  let body := s.reportBody nonce
  .next <| s.atHost { s with boot := { s.boot with nonce := nonce, report := body ++ natLe (identitySign 4 (sha256 body)).toNat 64 } }

-- updates (R22, R23) ---------------------------------------------------------

/-- Whether an update would take out the last present compute die (R23). -/
def State.lastDie (s : State) (p : Part) : Bool := match p with | .die k => s.presentDies == [k.toNat] | _ => false
/-- The stage at which a part's boot begins again, and how the record names it (R14, R22): IO0 and the host port have no stage from 4 onward, and a failure of theirs is recorded at stages 2 and 3. -/
def partRec : Part → Nat × BootFail
  | .die k => (6, ⟨k, 6, 0, 0⟩)
  | .io0 => (2, ⟨4, 2, 0, 0⟩)
  | .hostPort => (3, ⟨4, 4, 0, 0⟩)
  | .io1 => (5, ⟨5, 4, 0, 0⟩)
  | .tierPort n => (9, ⟨5, 4, 1, n.setWidth 5⟩)
  | .peerLink n => (9, ⟨5, 4, 2, n.setWidth 5⟩)
  | .stack n => (4, ⟨8 + n.setWidth 4, 5, 0, 0⟩)
/-- A part leaves service or comes back (R22), with what hangs on it: IO1 takes its tier ports and peer links with it. A compute die goes through its warm reset; IO0 and the host port stay in every capability. -/
def State.partService (s : State) (p : Part) (on : Bool) : State :=
  let b := s.boot
  let s1 : State := match p with
    | .die _ | .io0 | .hostPort => s
    | .io1 => { s with boot := { b with io1 := on, tier := if on then b.tierUp else [], peersPresent := if on then b.linksUp else 0, peersUp := if on then b.linksUp else 0 } }
    | .tierPort n => { s with boot := { b with tier := setAt b.tier n.toNat (if on then Config.tierCapacity n.toNat else 0) } }
    | .peerLink n =>
      let m := (1 : BitVec 16) <<< n.toNat
      { s with boot := { b with peersUp := if on then b.peersUp ||| (m &&& Config.peerLinks) else b.peersUp &&& ~~~m } }
    | .stack n =>
      let m := (1 : BitVec 8) <<< n.toNat
      { s with boot := { b with hbmStacks := if on then b.hbmStacks ||| m else b.hbmStacks &&& ~~~m } }
  s1.relist
/-- The socket whose identity an update changes. -/
def partSock : Part → Option Nat
  | .die k => some k.toNat
  | .io0 => some 4
  | .io1 => some 5
  | _ => none
/-- The firmware identity of a socket after an update (R22). A die's Spindle takes a new version (log 10); IO0's image goes into the slot that runs (log 5). -/
def State.newImage (s : State) (k : Nat) (version : W32) (digest : BitVec 256) : State :=
  if k = 4 then { s with boot := { (s.boot.install (digest, version)).load with tries := s.boot.tries, recovery := s.boot.recovery } }
  else
    let s1 := { s with boot := { (s.boot.putDigest k (some digest)) with vers := SMap.put s.boot.pkgver s.boot.vers k version } }
    if k < 4 then s1.setDie k { s1.die k with spnver := (s1.die k).spnver + 1 } else s1
/-- The FLL of every bay of a die re-calibrated (R300): TARGET is the code that firmware sets, and CODE and LDO are its own, as after boot (log 5). -/
def State.retarget (s : State) (k : Nat) (target : BitVec 7) : State :=
  let w : W32 := BitVec.ofNat 32 ((Config.ldoStep target.toNat).toNat * 65536 + target.toNat * 256 + target.toNat)
  let d := s.die k
  s.setDie k { d with bays := d.bays.map fun p => (p.1, { p.2 with fll := w }) }
/-- What an update's work leaves at its commit (R22, R300): a new image changes the identity, a re-calibration the clocks; a re-configuration's registers are the software's to write. -/
def State.applyWork (s : State) (u : Update) : State :=
  match u.work, partSock u.part with
  | .image version, some k => s.newImage k version u.digest
  | .calibrate t, some k => if k < 4 then s.retarget k t else s
  | _, _ => s
/-- An update ends with its completion status, and the next may start (R23). -/
def State.updEnd (s : State) (p : Part) (o : UpdOut) : State := ({ s with updating := none, updLog := (p, o) :: s.updLog }).soon .updateStart
/-- The update commits (R22); after a re-calibration the latency table is republished (R311). -/
def State.commit (s : State) (u : Update) : State :=
  let s1 := s.applyWork u
  (match u.work with | .calibrate _ => s1.republish | _ => s1.relist).updEnd u.part .committed

/-- Whether an update's image is accepted (R20): its signature verifies, and its version is at or above the counter. -/
def State.workOk (s : State) (w : UpdWork) (digest : BitVec 256) (sig : BitVec 512) : Bool :=
  match w with
  | .image version => ecdsaVerify vendorKey digest sig && decide (s.boot.rollback.toNat ≤ version.toNat)
  | _ => true
/-- UPDATE_REQUEST (R20, R22, R23): an image is verified by its digest and signature, which other work leaves unused, then queued in arrival order; refused when it would take out the last present compute die, as its completion status says. -/
def execUpdateRequest (p : Part) (w : UpdWork) (digest : BitVec 256) (sig : BitVec 512) (s : State) : Out :=
  .next <| s.atHost (if !s.workOk w digest sig || s.lastDie p then { s with updLog := (p, .refused) :: s.updLog }
    else { s with updates := s.updates ++ [Update.mk p w digest] }.soon .updateStart)
/-- Whether every row of a die is FREE (R197). -/
def State.dieFree (s : State) (sock : Nat) : Bool := !s.teams.any fun p => p.2.sock == sock && p.2.state != .saved && p.2.state != .done
/-- UPDATE_START (R22, R23): one update runs at a time; a compute die's begins once its work is off it, with a planned warm reset. -/
def execUpdateStart (s : State) : Out :=
  .next (match s.updating, s.updates with
    | none, u :: us =>
      (match u.part with
       | .die k =>
         if s.lastDie u.part then ({ s with updates := us }).updEnd u.part .refused
         else if !s.dieFree k.toNat then s
         else ({ s with updates := us, updating := some ⟨u, false⟩, rst := { s.rst with waiting := s.rst.waiting ++ [(k, 0, false)] } }).soon .dieResetStart
       | p => { s with updates := us, updating := some ⟨u, false⟩ }.partService p false)
    | _, _ => s)
/-- UPDATE_COMMIT (R22): the part passed its stages, and the update commits; on a failure its stages run once more with the previous image, and then it is left out. A compute die's stages are those of its reset (R457). -/
def execUpdateCommit (pass : Bool) (s : State) : Out :=
  .next (match s.updating with
    | none => s
    | some u =>
      let (stage, f) := partRec u.upd.part
      match u.upd.part, pass with
      | .die k, true => if s.inService k.toNat then s.commit u.upd else s
      | .die _, false => s
      | p, true => if u.retried then (s.partService p true).updEnd p .restored else (s.partService p true).commit u.upd
      | p, false =>
        let s1 := { s with boot := s.boot.record stage f }
        if u.retried then s1.updEnd p .leftOut else { s1 with updating := some { u with retried := true } })

end Sys2Proof.Machine
end

