-- ==== Sys2Proof/Machine/Die.lean ====
section
/-! DEFINITION. Die warm reset (R453-R458): requests, the checks before a reset, its phases, re-admission and dies left out. Registers that no rule clears keep their values (log 26). -/

namespace Sys2Proof.Machine

/-- A reset is asked for (R453): it waits its turn, and PLN_DIESTAT shows it as PHASE 7 while nothing runs (R442). -/
def State.askReset (s : State) (sock : BitVec 4) (cause : Nat) (forced : Bool) : State :=
  let r := s.rst
  let idle := r.phase = 0 ∨ r.phase = 7
  { s with rst := { r with waiting := r.waiting ++ [(sock, cause, forced)], phase := if idle then 7 else r.phase,
                           dsock := if idle && r.waiting.isEmpty then sock else r.dsock } }.soon .dieResetStart
/-- A write of PLN_DIERST (R453): one while GO is 1 is ignored. -/
def State.dierst (s : State) (v : W32) : State :=
  if s.rst.go then s
  else
    let s1 := { s with rst := { s.rst with kind := v.getLsbD 30, sock := v.setWidth 4, go := v.getLsbD 31 } }
    if v.getLsbD 31 then s1.askReset (v.setWidth 4) 0 (v.getLsbD 30) else s1
/-- DIE_RESET_REQUEST (R453): a write of PLN_DIERST with GO. -/
def execDieResetRequest (v : W32) (s : State) : Out := .next (s.dierst (v ||| 0x80000000))
/-- DIE_LINK_FAILURE (R453): a forced reset with CAUSE 1. -/
def execDieLinkFailure (sock : BitVec 2) (s : State) : Out := .next (s.askReset (sock.setWidth 4) 1 true)
/-- CONTROL_STATE_ERROR (R453): a forced reset with CAUSE 2. -/
def execControlStateError (sock : BitVec 2) (s : State) : Out := .next (s.askReset (sock.setWidth 4) 2 true)

/-- The status that refuses a reset before it begins (R454): 0 for none. A supervisor's request has CAUSE 0. -/
def State.resetRefused (s : State) (sock cause : Nat) (forced : Bool) : Nat :=
  let d := s.die sock
  if 3 < sock || (!d.present && !d.leftOut) then 1
  else if cause = 0 && s.presentDies.filter s.inService == [sock] then 2
  else if !forced && !s.dieFree sock then 3
  else 0

/-- What is left to do after a reset, or for one refused: the next one waiting starts (R453). -/
def State.nextReset (s : State) (status : Nat) (cause : Nat) : State :=
  let r := s.rst
  let s1 := { s with rst := { r with status := BitVec.ofNat 8 status, go := if cause = 0 then false else r.go,
                                     phase := if r.waiting.isEmpty then 0 else 7, retried := false, failed := false } }
  if r.waiting.isEmpty then s1.soon .updateStart else s1.soon .dieResetStart

/-- CST_QBIND of every core that binds from or to a die (R455). -/
def State.unbind (s : State) (sock : Nat) : State :=
  (coreList [0, 1, 2, 3]).foldl (fun s c =>
    let k := s.core c.1 c.2
    let cleared : Core := { k with qbind := k.qbind &&& 0x7FFFFFFF }
    if k.qbind.getLsbD 31 && (c.1 == sock || fieldNat k.qbind.toNat 27 24 == sock) then s.setCore c.1 c.2 cleared else s) s
/-- The teams that hold rows of a die are gone, with no state saved (R455, R458); their launches are terminated. Groups of saved teams on it stop. -/
def State.endDie (s : State) (sock : Nat) : State :=
  let held := s.teams.filter fun p => p.2.sock == sock && p.2.state != .saved && p.2.state != .done
  let saved := s.teams.filter fun p => p.2.sock == sock && p.2.state == .saved && !s.doff.teams.contains p.1
  let lids := (held.map fun p => p.2.lid).eraseDups
  let s1 := saved.foldl (fun s p => let t := s.team p.1; s.setTeam p.1 { t with groups := t.groups.map fun g => { g with status := .out, active := 0, saved := none, trap := none } }) s
  let s2 := s1.terminateAll lids
  let s3 := held.foldl (fun s p => (s.stopTeam p.1).setTeam p.1 Team.none) s2
  let s4 := (List.range (coresOf sock)).foldl (fun s i =>
    let c := s.core sock i
    s.setCore sock i { c with b0 := { c.b0 with queue := [] }, b1 := { c.b1 with queue := [] }, meetings := [], quar := [], preempt := c.preempt &&& 0x7FFFFFFF }) s3
  let s5 := { s4 with cur := match s4.cur with | some g => if (s4.group g).isSome && (s4.team g.tid).sock != sock then some g else none | none => none }
  s5.settle lids
/-- Claims that bays of a die would have written: those that groups elsewhere wait for go to a bay of one of them. -/
def State.moveClaims (s : State) (sock : Nat) : State :=
  let one (k : Claim) : Option Claim :=
    if k.sock == sock then (k.waiting.find? (fun g => (s.team g.tid).sock != sock && (s.group g).isSome)).map (fun g =>
      { k with sock := (s.team g.tid).sock, bay := bayOf (s.team g.tid).core })
    else some k
  let move (c : Cache) : Cache := { c with claims := c.claims.filterMap one }
  { s with cache0 := move s.cache0, cache1 := move s.cache1 }
/-- Whether alights accepted at a die's stops have settled (R395). -/
def State.portsClear (s : State) (sock : Nat) : Bool := (List.range (coresOf sock)).all fun i => (s.core sock i).port.isEmpty
def State.setByp (s : State) (sock : Nat) (on : Bool) : State :=
  let m := (1 : BitVec 4) <<< sock
  { s with reel := { s.reel with byp := if on then s.reel.byp ||| m else s.reel.byp &&& ~~~m } }

/-- Phase 1 of R455. -/
def State.quiesce (s : State) (sock cause : Nat) (forced : Bool) : State :=
  let s1 := s.setDie sock { s.die sock with inReset := true }
  let s2 := { s1 with
    rst := { s1.rst with phase := 1, dsock := BitVec.ofNat 4 sock, cause := BitVec.ofNat 8 cause, retried := false, failed := false }
    dsp := { s1.dsp with heads := SMap.put 0 s1.dsp.heads sock 0, working := SMap.put 0 s1.dsp.working sock 0 } }
  let s3 := (s2.unbind sock).endDie sock |>.moveClaims sock
  let s4 := if s3.portsClear sock then s3.setByp sock true else s3
  let _ := forced
  (s4.irq .dieEvent).relist

/-- DIE_RESET_START (R453, R454): the oldest request, once no Doff operation and no reset runs. -/
def execDieResetStart (s : State) : Out :=
  .next (if (s.rst.phase != 0 && s.rst.phase != 7) || s.doff.busy then s
    else match s.rst.waiting with
      | [] => s
      | (sock, cause, forced) :: rest =>
        let s1 := { s with rst := { s.rst with waiting := rest } }
        match s1.resetRefused sock.toNat cause forced with
        | 0 => s1.quiesce sock.toNat cause forced
        | st =>
          let s2 := s1.nextReset st cause
          match s2.updating with
          | some u => if u.upd.part == Part.die sock then s2.updEnd u.upd.part .refused else s2
          | none => s2)

/-- Every cached line and replica is dropped (R455). -/
def State.writeBack (s : State) : State := { s with pln := { s.pln with replicas := [] } }
/-- The staging windows of a die are disabled, and their contents lost. -/
def State.dropStaging (s : State) (sock : Nat) : State :=
  let d := s.die sock
  s.setDie sock { d with staging := [], wins := d.wins.map fun p => (p.1, { reg := p.2.reg &&& 0x7FFFFFFFFFFFFFFF, zeroing := false }) }
/-- What of a core a re-admitted die keeps: nothing of any job (R455). -/
def Bank.wiped (b : Bank) : Bank := { Bank.reset with window := b.window, limits := b.limits, log0 := b.log0, log1 := b.log1, log2 := b.log2 }

/-- Re-admission (R395, R455): S gains the die's slices, its stops are active, and its rows are offered. -/
def State.readmit (s : State) (sock : Nat) : State :=
  let s1 := (List.range (coresOf sock)).foldl (fun s i => let c := s.core sock i; s.setCore sock i { c with b0 := c.b0.wiped, b1 := c.b1.wiped, port := [], ptrs := [], gen := 0 }) s
  let d := s1.die sock
  let bays := if d.present then d.bays.map fun p => (p.1, { p.2 with cycles := 0 }) else bootBays sock
  let s2 := s1.setDie sock { d with present := true, leftOut := false, skipped := false, inReset := false, cycles := 0, bays := bays, arrivals := [] }
  let s3 := { (s2.writeBack.setByp sock false) with rst := { s2.rst with count := if s2.rst.count = 255 then 255 else s2.rst.count + 1 } }
  let s4 := (s3.irq .dieEvent).soon .placementPass
  let s5 := match s4.updating with
    | some u => if u.upd.part == Part.die (BitVec.ofNat 4 sock) then (if u.retried then s4.updEnd u.upd.part .restored else s4.soon (.updateCommit true)) else s4
    | none => s4
  (s5.nextReset 0 s5.rst.cause.toNat).republish

/-- A launch with a team assigned to a core of a die that has not published its event (R457). -/
def Launch.needs (l : Launch) (sock : Nat) : Bool :=
  l.det && (firstFrom (fun t => (match (coreList l.dies)[t % Nat.max l.logical 1]? with | some c => c.1 == sock | _ => false) && !l.events.contains t) 1 l.teams 0).isSome
/-- A die is left out (R457): deterministic work that waits for it ends, and with no die left every launch does (R454). -/
def State.leaveOut (s : State) (sock : Nat) (stage : Nat) (cause : BitVec 4) : State :=
  let s1 := s.setDie sock { s.die sock with present := false, leftOut := true, inReset := false }
  let s2 := { s1 with boot := s1.boot.record stage ⟨BitVec.ofNat 4 sock, cause, 0, 0⟩ }
  let all := s2.presentDies.isEmpty
  let lids := (s2.launches.filter fun p => p.2.live && (all || p.2.needs sock)).map (·.1)
  let s3 := s2.terminateAll lids
  let s4 := match s3.updating with | some u => if u.upd.part == Part.die (BitVec.ofNat 4 sock) then s3.updEnd u.upd.part .leftOut else s3 | _ => s3
  ((s4.irq .dieEvent).nextReset 4 s4.rst.cause.toNat).relist

/-- Phase 4 or 5 failed (R457): during an update of the die both phases run once more with its previous image; otherwise the die is left out. -/
def State.phaseFailed (s : State) (sock : Nat) : State :=
  let p4 := s.rst.phase == 4
  let stage := if p4 then 5 else 6
  let cause : BitVec 4 := if p4 then 4 else 6
  match s.updating with
  | some u =>
    if u.upd.part == Part.die (BitVec.ofNat 4 sock) && !u.retried then
      { s with updating := some { u with retried := true }, rst := { s.rst with phase := 4, retried := true, failed := true },
               boot := s.boot.record stage ⟨BitVec.ofNat 4 sock, cause, 0, 0⟩ }
    else s.leaveOut sock stage cause
  | none => s.leaveOut sock stage cause

/-- DIE_RESET_PHASE_END (R455-R457): pass says whether phase 4 or 5 passed. -/
def execDieResetPhaseEnd (pass : Bool) (s : State) : Out :=
  let sock := s.rst.dsock.toNat
  let goTo (s : State) (n : BitVec 4) : State := { s with rst := { s.rst with phase := n } }
  .next (match s.rst.phase.toNat with
    | 1 => if s.portsClear sock then goTo (s.setByp sock true) 2 else s
    | 2 => (goTo (s.writeBack.dropStaging sock) 3).republish
    | 3 => goTo s 4
    | 4 => if pass then goTo s 5 else s.phaseFailed sock
    | 5 => if pass then goTo s 6 else s.phaseFailed sock
    | 6 => s.readmit sock
    | _ => s)

end Sys2Proof.Machine
end

