-- ==== Sys2Proof/Machine/Power.lean ====
section
/-! DEFINITION. Power and clocks: cadence and ballast (R296-R299), supply sag (R300, R301), coolant, limit tables and headroom (R459-R462), the energy accumulators and per-job counters (R468-R470). -/

namespace Sys2Proof.Machine

-- cadence (R296) ---------------------------------------------------------------

/-- A raised GAP: above the old one, at most 255; the value is free (log 27). -/
def gapUp (old : BitVec 8) (f : W64) : BitVec 8 :=
  if old.toNat < 255 then BitVec.ofNat 8 (old.toNat + 1 + f.toNat % (255 - old.toNat)) else 255
/-- A GAP that may fall again: between 1 and the old one; the value is free (log 27). -/
def gapDown (old : BitVec 8) (f : W64) : BitVec 8 := BitVec.ofNat 8 (1 + f.toNat % Nat.max old.toNat 1)
/-- Writes MXE_CADENCE.GAP of every core of a die, by one rule. -/
def State.setGap (s : State) (sock : Nat) (f : BitVec 8 → BitVec 8) : State :=
  (List.range (coresOf sock)).foldl (fun s i => let c := s.core sock i; s.setCore sock i { c with gap := f c.gap }) s
/-- Power control raises GAP on every core of a die. -/
def State.raiseGap (s : State) (sock : Nat) : State := let p := s.free; p.2.setGap sock (fun old => gapUp old p.1)
/-- Power control lets GAP fall on every core of a die. -/
def State.relaxGap (s : State) (sock : Nat) : State := let p := s.free; p.2.setGap sock (fun old => gapDown old p.1)

-- ballast (R297-R299) ----------------------------------------------------------

/-- Ballast rows a window needs: what the operand rows fall short of rows(k) − STEP (R297); none when STEP is 0 or the die has yielded and OVER stands (R299). -/
def Die.ballastNeed (d : Die) (rows : Nat) : Nat :=
  let step := d.slope.toNat % 65536
  if step = 0 || d.stopBallast then 0 else d.rows.toNat - step - rows
/-- The cores that show BALLAST: the first n of the die, in ascending order. -/
def State.showBallast (s : State) (sock n : Nat) : State :=
  (List.range (coresOf sock)).foldl (fun s i => let c := s.core sock i; s.setCore sock i { c with ballast := decide (i < n) }) s
/-- SLOPE_WINDOW (R297-R299): a window in which the given number of operand rows entered the die's arrays. A 16th conflict window that needs no ballast ends the conflict without YIELD, as the worked case of R299 has it (log 27). -/
def execSlopeWindow (sock rows : Nat) (s : State) : Out :=
  .next (if !(s.die sock).present then s
    else
      let d0 := s.die sock
      let d := if d0.ovr then d0 else { d0 with stopBallast := false, conflict := 0 }
      let need := d.ballastNeed rows
      let counting := d.ovr && (decide (0 < d.conflict) || decide (0 < need))
      let k := if counting && !d.stopBallast then d.conflict + 1 else d.conflict
      let met := 16 ≤ k && need = 0
      let d1 : Die := { d with rows := BitVec.ofNat 32 (rows + need), conflict := if met then 0 else k, dieHold := d.ovr && decide (0 < need) }
      let s1 := (s.setDie sock d1).showBallast sock need
      if 16 ≤ k && !met && !d.stopBallast then s1.soon (.slopeYield sock) else s1)
/-- SLOPE_YIELD (R299): the end of the 16th conflict window while OVER still stands. -/
def execSlopeYield (sock : Nat) (s : State) : Out :=
  let d := s.die sock
  .next (if d.ovr && decide (16 ≤ d.conflict) then
      ((s.setDie sock { d with yielded := true, dieHold := false, stopBallast := true, conflict := 0 }).showBallast sock 0).raiseGap sock
    else s)

-- clocks and sag (R300, R301) --------------------------------------------------

/-- PWR_FLL_n's fields. -/
def fllCode (v : W32) : Nat := v.toNat % 128
def fllTarget (v : W32) : Nat := fieldNat v.toNat 14 8
def fllSag (v : W32) : Bool := v.getLsbD 15
def fllLdo (v : W32) : Nat := fieldNat v.toNat 23 16
def fllWord (ldo : Nat) (sag : Bool) (target code : Nat) : W32 := BitVec.ofNat 32 (ldo % 256 * 65536 + (if sag then 32768 else 0) + target % 128 * 256 + code % 128)
/-- SAG_TRIP (R301): CODE falls by DROP, not below 0; the LDO step is not lowered. -/
def execSagTrip (sock bay : Nat) (s : State) : Out :=
  let b := s.bay sock bay
  let drop := fieldNat b.sag.toNat 23 16
  .next (s.setBay sock bay { b with fll := fllWord (fllLdo b.fll) true (fllTarget b.fll) (fllCode b.fll - drop), sagging := true })
/-- SAG_CLEAR (R301): the trip clears, and the rise toward TARGET begins. -/
def execSagClear (sock bay : Nat) (s : State) : Out := .next (s.setBay sock bay { s.bay sock bay with sagging := false })
/-- SAG_RECOVERY_STEP (R301): one step up; SAG clears at TARGET. The LDO is not lowered while SAG stands: it is at least the step of the new CODE before the FLL moves (R300), and that of CODE once the response is over. -/
def execSagRecoveryStep (sock bay : Nat) (s : State) : Out :=
  let b := s.bay sock bay
  .next (if fllSag b.fll && !b.sagging then
      let code := if fllCode b.fll < fllTarget b.fll then fllCode b.fll + 1 else fllCode b.fll
      let step := (Config.ldoStep code).toNat
      let going := decide (code < fllTarget b.fll)
      s.setBay sock bay { b with fll := fllWord (if going then Nat.max (fllLdo b.fll) step else step) going (fllTarget b.fll) code }
    else s)

-- coolant, tables, headroom (R459-R462) ----------------------------------------

/-- The table R460 selects. -/
def Thm.tableFor (t : Thm) : Nat :=
  if t.forceAir || 10 ≤ t.lost then 0
  else if t.kind == 1 && 800 ≤ t.flow.toNat then 1
  else if t.kind == 2 && 4000 ≤ t.flow.toNat then 2
  else 0
/-- The row in force of a table for an inlet temperature: the first whose bound it does not exceed (R460). -/
def rowFor (table inlet : Nat) : Nat × Nat × Nat × Nat × Nat × Nat :=
  (coolRows.find? fun r => r.1 == table && decide (inlet ≤ r.2.2.1)).getD (0, 1, 255, 600, 200, 100)
def rowOf (table row : Nat) : Nat × Nat × Nat × Nat × Nat × Nat :=
  (coolRows.find? fun r => r.1 == table && r.2.1 == row).getD (0, 1, 255, 600, 200, 100)
/-- The row in force. -/
def Thm.now (t : Thm) : Nat × Nat × Nat × Nat × Nat × Nat := rowOf t.table.toNat t.row.toNat
/-- The cap of a row on a die: W2 dies at sockets 0 and 1. -/
def dieCap (r : Nat × Nat × Nat × Nat × Nat × Nat) (sock : Nat) : Nat := if sock < 2 then r.2.2.2.2.1 else r.2.2.2.2.2
def clamp16 (x : Int) : BitVec 16 := BitVec.ofNat 16 (min x.toNat 65535)
/-- Publishes the headroom of every die at once (R462): a die that is absent or under reset publishes 0. -/
def State.publishHeads (s : State) : State :=
  let r := s.thm.now
  let p (n : Nat) : Int := Int.ofNat (SMap.get 0 s.thm.power n)
  (List.range 4).foldl (fun s n =>
    let h : BitVec 16 := if s.inService n then clamp16 (min ((dieCap r n : Int) - p n) ((r.2.2.2.1 : Int) - p 4)) else 0
    { s with dsp := { s.dsp with heads := SMap.put 0 s.dsp.heads n h, working := SMap.put 0 s.dsp.working n (h.setWidth 32) } }) s
/-- PWR_STATUS.OVER of every die, and what power control does to GAP (R461): raised while the package or the die is above its cap, held while the die is throttled, else free to fall. -/
def State.applyCaps (s : State) : State :=
  let r := s.thm.now
  let p (n : Nat) : Nat := SMap.get 0 s.thm.power n
  let ovr := decide (r.2.2.2.1 < p 4)
  (List.range 4).foldl (fun s n =>
    if !s.inService n then s
    else
      let d := s.die n
      let s1 := s.setDie n { d with ovr := ovr }
      if ovr || dieCap r n < p n then s1.raiseGap n else if d.throttled then s1 else s1.relaxGap n) s
/-- Puts a selection in force. -/
def Thm.force (t : Thm) (r : Nat × Nat × Nat × Nat × Nat × Nat) : Thm :=
  { t with table := BitVec.ofNat 2 r.1, row := BitVec.ofNat 4 r.2.1, raise := none }
/-- What one evaluation makes of the selection (R461): a cap not raised takes effect at once; a raise must hold for 1000 evaluations, and within a table INLET must stay 2 °C below the bound of the row being left. -/
def Thm.evaluate (t : Thm) : Thm :=
  let sel := rowFor t.tableFor t.inlet.toNat
  let now := t.now
  if sel.1 == now.1 && sel.2.1 == now.2.1 then { t with raise := none }
  else if sel.2.2.2.1 ≤ now.2.2.2.1 then t.force sel
  else if sel.1 == now.1 && now.2.2.1 < t.inlet.toNat + 2 then { t with raise := none }
  else
    let n := match t.raise with
      | some (a, b, n) => if a.toNat == sel.1 && b.toNat == sel.2.1 then n + 1 else 1
      | none => 1
    { t with raise := some (BitVec.ofNat 2 sel.1, BitVec.ofNat 4 sel.2.1, n) }
/-- COOLANT_REPORT (R459): KIND 3 reads as 0. -/
def execCoolantReport (kind : BitVec 2) (inlet : BitVec 8) (flow : BitVec 16) (s : State) : Out :=
  .next { s with thm := { s.thm with kind := if kind == 3 then 0 else kind, inlet := inlet, flow := flow, lost := 0 } }
/-- POWER_EVALUATION (R460-R462): the watts measured over the last millisecond, of dies 0-3 and the package. -/
def execPowerEvaluation (p0 p1 p2 p3 package : Nat) (s : State) : Out :=
  let power := SMap.put 0 (SMap.put 0 (SMap.put 0 (SMap.put 0 (SMap.put 0 [] 0 p0) 1 p1) 2 p2) 3 p3) 4 package
  let t : Thm := { s.thm with power := power, lost := s.thm.lost + 1 }
  let s1 := { s with thm := t.evaluate }
  let s2 := (s1.applyCaps).publishHeads
  let s3 := if t.lost = 10 then s2.soon .coolantReportLoss else s2
  .next (match s3.thm.raise with
    | some (_, _, 1000) => s3.soon .tableRaise
    | _ => s3)
/-- TABLE_RAISE (R461): the raised selection takes effect, through GAP and the published headroom. -/
def execTableRaise (s : State) : Out :=
  .next (match s.thm.raise with
    | some (a, b, n) =>
      if 1000 ≤ n then ({ s with thm := s.thm.force (rowOf a.toNat b.toNat) }).applyCaps.publishHeads else s
    | none => s)
/-- COOLANT_REPORT_LOSS (R462): the air table. -/
def execCoolantReportLoss (s : State) : Out :=
  let t : Thm := { s.thm with lost := Nat.max s.thm.lost 10 }
  .next ({ s with thm := t.force (rowFor 0 t.inlet.toNat) }).applyCaps.publishHeads
/-- THERMAL_THROTTLE (R460): a die's junction temperature in °C. -/
def execThermalThrottle (sock temp : Nat) (s : State) : Out :=
  let d := s.die sock
  .next (if !s.inService sock then s
    else if 105 ≤ temp then (s.setDie sock { d with throttled := true }).raiseGap sock
    else if temp < 102 && d.throttled then (s.setDie sock { d with throttled := false }).relaxGap sock
    else s)
/-- THERMAL_TRIP (R460): 125 °C asks for a forced reset with CAUSE 3. -/
def execThermalTrip (sock : Nat) (s : State) : Out :=
  .next (if s.inService sock then s.askReset (BitVec.ofNat 4 sock) 3 true else s)

-- energy and job counters (R468-R470) ------------------------------------------

/-- Whether a socket's accumulator reads: a die left out at boot reads 0 (R468). -/
def State.hasEnergy (s : State) (sock : Nat) : Bool :=
  if sock < 4 then (s.die sock).present || (s.die sock).leftOut else sock == 4 || (sock == 5 && s.boot.io1)
def State.energyOf (s : State) (sock : Nat) : Energy := if s.hasEnergy sock then SMap.get .reset s.energy sock else .reset
/-- ENERGY_ACCUMULATOR_UPDATE (R468): microjoules measured; each pass from 2^40 − 1 to 0 counts a wrap. -/
def execEnergyAccumulatorUpdate (sock uj : Nat) (s : State) : Out :=
  .next (if sock < 6 && s.hasEnergy sock then
      let e := SMap.get .reset s.energy sock
      let total := e.acc.toNat + uj
      let e1 : Energy := ⟨BitVec.ofNat 40 total, e.wraps + BitVec.ofNat 32 (total / 2 ^ 40)⟩
      { s with energy := SMap.put .reset s.energy sock e1 }
    else s)
/-- The result a requester's counter read delivers. -/
def State.delivers (s : State) (r : Requester) (v : W32) : State :=
  { s with reads := ⟨r, v⟩ :: s.reads.filter fun x => x.req != r }
/-- ENERGY_LO_READ (R469): LOW, with HIGH and WRAPS of the same update into the requester's shadow. -/
def execEnergyLoRead (r : Requester) (sock : Nat) (s : State) : Out :=
  let e := s.energyOf sock
  let sh : EShadow := ⟨r, sock, (e.acc >>> 32).setWidth 8, e.wraps⟩
  .next ({ s with eshadows := sh :: s.eshadows.filter fun x => !(x.req == r && x.sock == sock) }.delivers r (e.acc.setWidth 32))
/-- The requester's held shadow of a die's accumulator. -/
def State.eshadow (s : State) (r : Requester) (sock : Nat) : Option EShadow := s.eshadows.find? fun x => x.req == r && x.sock == sock
/-- ENERGY_HI_READ (R469): the shadow, released, or the live value. -/
def execEnergyHiRead (r : Requester) (sock : Nat) (s : State) : Out :=
  let high : BitVec 8 := match s.eshadow r sock with
    | some x => x.high
    | .none => ((s.energyOf sock).acc >>> 32).setWidth 8
  .next ({ s with eshadows := s.eshadows.filter fun x => !(x.req == r && x.sock == sock) }.delivers r (high.setWidth 32))
/-- Counter k of the job that DSP_JOBSEL selects. -/
def State.jobcnt (s : State) (k : Nat) : W64 := SMap.get 0 (s.job s.dsp.jobsel.toNat).cnts k
/-- JOBCNT_LO_READ (R470): the low half, with the high half latched for the requester. -/
def execJobcntLoRead (r : Requester) (k : BitVec 3) (s : State) : Out :=
  let v := s.jobcnt k.toNat
  let sh : JShadow := ⟨r, k.toNat, (v >>> 32).setWidth 32⟩
  .next ({ s with jshadows := sh :: s.jshadows.filter fun x => !(x.req == r && x.k == k.toNat) }.delivers r (v.setWidth 32))
/-- JOBCNT_HI_READ (R470): the latched half, released, or the live one. -/
def execJobcntHiRead (r : Requester) (k : BitVec 3) (s : State) : Out :=
  let hi : W32 := match s.jshadows.find? fun x => x.req == r && x.k == k.toNat with
    | some x => x.high
    | .none => (s.jobcnt k.toNat >>> 32).setWidth 32
  .next ({ s with jshadows := s.jshadows.filter fun x => !(x.req == r && x.k == k.toNat) }.delivers r hi)
/-- JOBCNT_CLEAR (R470): a write of DSP_JOBCNTCLR with ALL sets every counter of the selected job to zero. -/
def execJobcntClear (v : W32) (s : State) : Out :=
  let j := s.dsp.jobsel.toNat
  .next (if v.getLsbD 31 then s.setJob j { s.job j with cnts := [] } else s)

end Sys2Proof.Machine
end

