-- ==== Sys2Proof/Machine/Doff.lean ====
section
/-! DEFINITION. The Doff gang-switch (R430-R442): the engine's checks, the phases of a Doff, late packets, restore and discard. The save area is written and read as bytes through job 0's tables; its layout is fixed when the halt ends (log 16). -/

namespace Sys2Proof.Machine

-- the area (R433-R435) ---------------------------------------------------------

/-- The engine as job 0 to memory. -/
def State.doffGet (s : State) (area : W64) (off n : Nat) : List Byte := s.getBytes (dspWho 0) (area + BitVec.ofNat 64 off) n
def State.doffPut (s : State) (area : W64) (off : Nat) (bs : List Byte) : State := s.putBytes (dspWho 0) (area + BitVec.ofNat 64 off) bs
/-- The header of an area: 88 bytes of fields. -/
def State.doffHdr (s : State) (area : W64) : List Byte := s.doffGet area 0 88
/-- Whether an area's header can be read and written. -/
def State.hdrOpen (s : State) (area : W64) : Bool :=
  winOf area == .global && area.toNat % 4096 == 0 && s.dspCheck 0 .rw area.toNat 4096 1 == .ok
/-- MAGIC, VERSION and JOB of a header. -/
def hdrIs (h : List Byte) (job : Nat) : Bool := fld h 0 4 == 0x46464F44 && fld h 4 2 == 1 && fld h 6 2 == job
/-- The area check of R434. A page being moved does not pass (log 16). -/
def State.areaOk (s : State) (job : Nat) (area : W64) : Bool :=
  let h := s.doffHdr area
  s.hdrOpen area && hdrIs h job && fld h 24 4 == 0 && decide (4096 + 160 * fld h 48 4 ≤ fld h 8 8)
  && s.dspCheck 0 .rw area.toNat (fld h 8 8) 1 == .ok
/-- The next multiple of 4 KiB. -/
def pageUp (n : Nat) : Nat := (n + 4095) / 4096 * 4096

-- the engine (R430-R432) -------------------------------------------------------

/-- The live launches of a job, in order of acceptance; a launch's place among them is its quota index (R396, log 16). -/
def State.jobLaunches (s : State) (job : Nat) : List Nat :=
  (sortBy (fun a b => decide (a.2.order ≤ b.2.order)) (s.launches.filter fun p => p.2.live && p.2.job.toNat == job)).map (·.1)
/-- Whether a die of a job's partition is under warm reset. -/
def State.jobDieDown (s : State) (job : Nat) : Bool :=
  (s.jobLaunches job).any fun lid => (s.partDies (s.launch lid).part).any fun k => (s.die k).inReset
/-- The Doffed job, if it is Doffed (R436). -/
def State.doffed (s : State) (job : Nat) : Option Doffed := s.doff.jobs.find? fun d => d.job.toNat == job && d.state2 && !d.draining
def State.setDoffed (s : State) (d : Doffed) : State :=
  { s with doff := { s.doff with jobs := s.doff.jobs.map fun (x : Doffed) => if x.job == d.job then d else x } }
/-- The checks of R432, in their order; own is the job of a doff.issue's group. -/
def State.doffCheck (s : State) (own : Option Nat) (job : Nat) (area : W64) : Nat :=
  if s.doff.busy || s.jobDieDown job then 1
  else if job = 0 || 4095 < job || (s.jobLaunches job).isEmpty then 2
  else if own = some job then 3
  else if (s.doffed job).isSome then 6
  else if !s.areaOk job area then 4
  else 0
/-- An operation ends (R430): its status, the DOFF interrupt; a die reset that waited starts (R442). -/
def State.doffEnd (s : State) (status : Nat) : State :=
  let s1 := { s with doff := { s.doff with busy := false, phase := 0, status := BitVec.ofNat 8 status, teams := [], filled := false } }
  let s2 := ((s1.irq .doff).soon .dispatchRound).soon .placementPass
  if s2.rst.waiting.isEmpty then s2 else s2.soon .dieResetStart
/-- A class-7 code (R440): PLN_DOFFSTAT and the header show it, and the interrupt is raised. -/
def State.doffCode (s : State) (area : W64) (code : Nat) : State :=
  ({ s with doff := { s.doff with code := BitVec.ofNat 16 code } }.doffPut area 28 (natLe code 2)).irq .doff

-- phase 1: the halt (R436) -----------------------------------------------------

/-- The teams of a job that hold rows, in ascending socket, core, bank and row. -/
def State.jobTeams (s : State) (job : BitVec 12) : List Nat :=
  let ts := s.teams.filter fun p => p.2.job == job && p.2.state != .saved && p.2.state != .done
  (sortBy (fun a b => decide (coreKey a.2.sock a.2.core * 32 + a.2.row ≤ coreKey b.2.sock b.2.core * 32 + b.2.row)) ts).map (·.1)
/-- Stops the groups of a team where its bank may stop them: at its yield point, or when the limit has expired. -/
def State.haltTeam (late : Bool) (s : State) (tid : Nat) : State :=
  let t := s.team tid
  if late || ((s.core t.sock t.core).bank t.bank).atYield then
    (List.range t.groups.length).foldl (fun s i =>
      match s.group ⟨tid, i⟩ with
      | none => s
      | some g => match g.saved with
        | some c => if g.status == .held then s.haltGroup ⟨tid, i⟩ (g.popHandler c) else s.stopAt ⟨tid, i⟩
        | none => s.stopAt ⟨tid, i⟩) s
  else s
/-- Whether a group of a halted team stands: it has ended, or it stopped for the Doff. -/
def Group.stands (g : Group) : Bool := g.status == .out || (g.status == .stopping && g.drained)
/-- Steps 2 and 5 of R417 for a team whose groups stand: the fence, and its reductions. -/
def State.fenceTeam (s : State) (tid : Nat) : State :=
  let t := s.team tid
  if t.state == .loading || !t.groups.all Group.stands then s
  else
    let c := s.core t.sock t.core
    let s1 := if t.fenced then s else (s.setTeam tid { t with fenced := true }).setCore t.sock t.core { c with gen := c.gen + 1 }
    (s1.performReds tid (s1.team tid).reds).1
/-- Steps 4 and 6 of R417; copies of a peer do not count (R441). -/
def State.teamHalted (s : State) (tid : Nat) : Bool :=
  let t := s.team tid
  let t' := { t with copies := t.copies.filter fun c => !s.copyPeer tid c }
  t.state != .loading && t.groups.all Group.stands && t.fenced && t.reds.isEmpty && (s.setTeam tid t').teamStill false tid
/-- The largest size of a team's block at core save (R435): 4096 quarantine records, 256 saved requests, 256 replay entries. -/
def State.blockMax (s : State) (block : Nat) (tid : Nat) : Nat :=
  let t := s.team tid
  let q := ((s.core t.sock t.core).quar.filter fun q => q.tid == tid).length
  block - 32 * q - 80 * t.savedReqs.length + 4096 * 32 + 256 * 80 + 256 * 16

/-- The interrupted context of a halted group, in Flinal terms. -/
def State.haltCtx (s : State) (gid : GId) (g : Group) : Ctx :=
  let t : Trap := g.trap.getD { code := Code.preempt, reason := 3, lane := noLane, d0 := 0, d1 := 0, word := g.frame.word, func := g.frame.func, double := false, opn := false }
  s.flinalCtx gid g (Ctx.mk g.frames g.div g.active t (!g.noPoint) g.nat g.waits false g.begun)
/-- The groups of a team that have not ended (LIVE). -/
def Team.live (t : Team) : List Nat := (List.range t.groups.length).filter fun i => match t.groups[i]? with | some g => g.status != .out | .none => false
/-- A team block (R435): the record of R422, the scratch image, and for each live group its section and its divergence record; the team section stands in the lowest. -/
def State.teamBlock (s : State) (tid : Nat) : List Byte :=
  let t := s.team tid
  t.barBytes ++ SMap.bytes t.scratch 0 (s.launch t.lid).scratch
  ++ t.live.flatMap fun i => match s.group ⟨tid, i⟩ with
    | none => []
    | some g =>
      let c := s.haltCtx ⟨tid, i⟩ g
      s.groupSection ⟨tid, i⟩ g c (if t.live.head? = some i then s.teamSection tid else []) ++ divBytes c

/-- A Doff begins (R432, R436): the header is marked running. -/
def State.doffBegin (s : State) (ctl : W32) (area : W64) : State :=
  let job := ctl.setWidth 12
  let s1 := (s.doffPut area 30 (natLe s.dsp.mode.toNat 2)).doffPut area 24 (natLe 1 4)
  let s2 := { s1 with doff := { s1.doff with ctl := ctl, area := area, runArea := area, busy := true, phase := 1, status := 0, nreel := 0, nnet := 0, teams := [], filled := false } }
  (s2.jobTeams job).foldl (State.haltTeam false) s2
/-- A Doff is abandoned (R436): its halted groups resume at their points. -/
def State.doffAbandon (s : State) (status : Nat) : State :=
  let job : BitVec 12 := s.doff.ctl.setWidth 12
  let s1 := (s.doffPut s.doff.runArea 16 (natLe s.doff.need 8)).doffPut s.doff.runArea 24 (natLe 3 4)
  let s2 := (s1.jobTeams job).foldl (fun s tid =>
    let t := s.team tid
    let gs := t.groups.map fun (g : Group) =>
      if g.status == .stopping && g.drained then { g with status := .ready, trap := none, drained := false } else { g with preStop := false }
    (s.setTeam tid { t with groups := gs }).unfence tid) s1
  s2.doffEnd status
/-- The layout (R435), every section at its largest; NEED counts the header too (log 16). -/
def State.doffMeasure (s : State) : State :=
  let d := s.doff
  let ts := s.jobTeams (d.ctl.setWidth 12)
  let blocks := (ts.map fun tid => s.blockMax (s.teamBlock tid).length tid).foldl (· + ·) 0
  let latecap := fld (s.doffHdr d.runArea) 48 4
  let netOff := pageUp (pageUp (4096 + 32 * ts.length) + blocks)
  let reelOff := netOff + 2621440
  let lateOff := reelOff + 40960
  { s with doff := { d with teams := ts, netOff := netOff, reelOff := reelOff, lateOff := lateOff, lateCap := latecap, need := lateOff + pageUp (160 * latecap) } }
/-- The requests of a job that stops withdraw when a sweep begins (R396). -/
def State.withdrawJob (s : State) (job : BitVec 12) : State :=
  (s.jobTeams job).foldl (fun s tid => (List.range (s.team tid).groups.length).foldl (fun s i => s.withdraw ⟨tid, i⟩) s) s
/-- Phase 1 ends once every team of the job stands still: NEED is measured, and the Reel sweep begins. -/
def State.doffHalt (s : State) (late : Bool) : State :=
  let job : BitVec 12 := s.doff.ctl.setWidth 12
  let ts := s.jobTeams job
  let s1 := ts.foldl State.fenceTeam (ts.foldl (State.haltTeam late) s)
  if late && ts.any (fun tid => (s1.team tid).groups.any Group.inHandler) then s1.doffMeasure.doffAbandon 11
  else if !ts.all s1.teamHalted then s1
  else
    let s2 := if s1.dsp.mode = 0 then ts.foldl (fun s tid => s.setTeam tid (((s.team tid).putBack 0).putBack 1)) s1 else s1
    let s3 := s2.doffMeasure
    if fld (s3.doffHdr s3.doff.runArea) 8 8 < s3.doff.need then s3.doffAbandon 10
    else
      let s4 := (s3.doffPut s3.doff.runArea 16 (natLe s3.doff.need 8)).withdrawJob job
      { s4 with doff := { s4.doff with phase := 2 }, reel := { s4.reel with sweep := some job, blocked := job :: s4.reel.blocked.filter (· != job) } }

-- phases 2 to 5 (R396, R436-R438) ----------------------------------------------

/-- A Reel record (R396). -/
def reelRecord (x : ReelSlot) (old quota : Nat) : List Byte :=
  natLe x.key.toNat 8 ++ natLe x.version.toNat 2 ++ natLe old 2 ++ natLe 2 1 ++ natLe quota 1 ++ natLe 0 2 ++ x.fields.flatMap fun (f : W64) => natLe f.toNat 8
/-- The sweep ends when no slot of the job is left: the records are written in the order swept. -/
def State.doffReel (s : State) : State :=
  let job : BitVec 12 := s.doff.ctl.setWidth 12
  if s.reel.slots.any fun p => p.2.job == job && p.2.st != .empty then s
  else
    let grids := s.jobLaunches job.toNat
    let quota (x : ReelSlot) : Nat := (grids.findIdx? (· == x.grid)).getD 255
    let recs := s.reel.swept.flatMap fun r => reelRecord r.2.1 r.2.2 (quota r.2.1)
    let s1 := s.doffPut s.doff.runArea s.doff.reelOff recs
    { s1 with doff := { s1.doff with phase := 3, nreel := s.reel.swept.length }, reel := { s1.reel with sweep := none, swept := [] } }
/-- A router or late record (R438). -/
def packetRecord (p : Packet) (stray : Bool) : List Byte :=
  natLe p.router.toNat 1 ++ natLe p.chan.toNat 1 ++ natLe (p.port.toNat + (if stray then 128 else 0)) 1 ++ natLe 0 1 ++ natLe p.src.toNat 1 ++ natLe p.dst.toNat 1
  ++ natLe p.len.toNat 2 ++ natLe p.seq.toNat 4 ++ natLe 0 4 ++ natLe p.header.toNat 16
  ++ (p.payload.take p.len.toNat ++ List.replicate 128 0).take 128
/-- A record read back; router is where it is injected. -/
def readPacket (job : BitVec 12) (b : List Byte) (router : Nat) : Packet :=
  { job := job, router := BitVec.ofNat 4 router, chan := BitVec.ofNat 1 (fld b 1 1), port := BitVec.ofNat 3 (fld b 2 1), src := BitVec.ofNat 4 (fld b 4 1),
    dst := BitVec.ofNat 4 (fld b 5 1), len := BitVec.ofNat 16 (fld b 6 2), seq := BitVec.ofNat 32 (fld b 8 4), header := BitVec.ofNat 128 (fld b 16 16),
    payload := (b.drop 32).take (fld b 6 2) }
/-- The sweep's order of packets (R436): router, channel, port; each queue from its head. -/
def packetRank (p : Packet) : Nat := p.router.toNat * 16 + p.chan.toNat * 8 + p.port.toNat
/-- Phase 3: the job's packets become records, and from now on the routers divert it (R437). -/
def State.doffRouters (s : State) : State :=
  let d := s.doff
  let job : BitVec 12 := d.ctl.setWidth 12
  let mine := sortBy (fun a b => decide (packetRank a ≤ packetRank b)) ((s.pln.packets ++ s.pln.dead.flatMap DeadLink.held).filter fun (p : Packet) => p.job == job)
  let s1 := s.doffPut d.runArea d.netOff (mine.flatMap fun p => packetRecord p false)
  let keep (l : List Packet) : List Packet := l.filter fun p => p.job != job
  let entry : Doffed := { job := job, area := d.runArea, lateOff := d.lateOff, nlate := 0, lateDrop := 0, lateCap := d.lateCap, state2 := false,
                          draining := false, grids := s.jobLaunches job.toNat, peers := [] }
  { s1 with
    doff := { s1.doff with phase := 4, nnet := mine.length, jobs := s1.doff.jobs ++ [entry] }
    pln := { s1.pln with packets := keep s1.pln.packets, dead := s1.pln.dead.map fun (x : DeadLink) => { x with held := keep x.held } } }
/-- A directory entry (R435). -/
def State.dirEntry (s : State) (tid off n : Nat) : List Byte :=
  let t := s.team tid
  let l := s.launch t.lid
  natLe l.queue.toNat 1 ++ natLe t.sock 1 ++ natLe t.core 1 ++ natLe t.bank 1 ++ natLe l.seq.toNat 4 ++ natLe t.idx 4
  ++ natLe (t.live.foldl (fun x i => x + 2 ^ i) 0) 2 ++ natLe 0 2 ++ natLe off 8 ++ natLe n 4 ++ natLe 0 4
/-- A team leaves its row as a saved team (R423, R436); its peer copies stay with IO1 (R441). -/
def State.doffSave (s : State) (tid : Nat) : State :=
  let t := s.team tid
  let live : BitVec 16 := BitVec.ofNat 16 (t.live.foldl (fun x i => x + 2 ^ i) 0)
  let peers := t.copies.filter fun c => c.live && s.copyPeer tid c
  let rest := t.copies.filter fun c => c.live && !c.held && !s.copyPeer tid c
  let c := s.core t.sock t.core
  let s1 := s.setCore t.sock t.core { c with quar := c.quar.filter (fun q => q.tid != tid), meetings := c.meetings.filter fun m => m.tid != tid }
  let d := s1.die t.sock
  let s2 := s1.setDie t.sock { d with arrivals := d.arrivals.filter fun a => a.tid != tid }
  let gs := t.groups.map fun (g : Group) => { g with status := .out, active := 0, trap := none, saved := none, numTrap := [], drained := false, bankDone := g.status != .out }
  let s3 := (s2.setTeam tid { t with state := .saved, grans := [], groups := gs, restoreLive := live, fenced := false, copies := rest }).freeRow t
  { s3 with doff := { s3.doff with jobs := s3.doff.jobs.map fun (x : Doffed) => if x.job == t.job && !peers.isEmpty then { x with peers := x.peers ++ [(tid, peers)] } else x } }
/-- Phase 4: the directory and the blocks are written, and the rows go FREE. -/
def State.doffCore (s : State) : State :=
  let d := s.doff
  let first := pageUp (4096 + 32 * d.teams.length)
  let out := d.teams.foldl (fun (p : State × Nat × Nat) tid =>
    let (s, i, off) := p
    let b := s.teamBlock tid
    ((((s.doffPut d.runArea off b).doffPut d.runArea (4096 + 32 * i) (s.dirEntry tid off b.length)).doffSave tid), i + 1, off + b.length)) (s, 0, first)
  { out.1 with doff := { out.1.doff with phase := 5 } }
/-- Phase 5 ends once no packet of the job is on the Plinth: the header's fields, and STATE 2 last; the job is Doffed. -/
def State.doffLate (s : State) : State :=
  let d := s.doff
  let job : BitVec 12 := d.ctl.setWidth 12
  if s.pln.packets.any (fun p => p.job == job) then s
  else match d.jobs.find? fun x => x.job == job with
  | none => s.doffEnd 0
  | some x =>
    let s1 := (s.doffPut d.runArea 32 (natLe d.teams.length 4 ++ natLe d.nnet 4 ++ natLe d.nreel 4 ++ natLe x.nlate 4)).doffPut d.runArea 52
      (natLe x.lateDrop.toNat 4 ++ natLe 4096 8 ++ natLe d.netOff 8 ++ natLe d.reelOff 8 ++ natLe d.lateOff 8)
    (((s1.setDoffed { x with state2 := true }).doffPut d.runArea 24 (natLe 2 4))).doffEnd 0

/-- DOFF_PHASE_END (R436): late says that the halt limit has expired. A phase whose work is not done goes on. -/
def execDoffPhaseEnd (late : Bool) (s : State) : Out :=
  .next (if !s.doff.busy then s
    else match s.doff.phase.toNat with
      | 1 => s.doffHalt late
      | 2 => s.doffReel
      | 3 => s.doffRouters
      | 4 => s.doffCore
      | 5 => s.doffLate
      | _ => s)

/-- LATE_PACKET (R437): a packet of a job that the routers divert is binned, or dropped when the bin is full; after a discard it is dropped and counted without a code (R440). -/
def execLatePacket (p : Packet) (s : State) : Out :=
  .next (match s.doff.jobs.find? fun x => x.job == p.job with
    | none => s
    | some x =>
      let s0 := { s with pln := { s.pln with packets := s.pln.packets.erase p } }
      if x.draining || x.lateCap ≤ x.nlate then
        let s1 := (s0.setDoffed { x with lateDrop := x.lateDrop + 1 }).doffPut x.area 52 (natLe (x.lateDrop + 1).toNat 4)
        if x.draining then s1
        else
          let s2 := s1.doffCode x.area Code.lateOverflow
          if x.state2 then s2.doffCode x.area Code.lateStray else s2
      else
        let s1 := (s0.doffPut x.area (x.lateOff + 160 * x.nlate) (packetRecord p x.state2)).setDoffed { x with nlate := x.nlate + 1 }
        let s2 := if x.state2 then s1.doffPut x.area 44 (natLe (x.nlate + 1) 4) else s1
        if x.state2 then s2.doffCode x.area Code.lateStray else s2)

-- restore and discard (R440) ---------------------------------------------------

/-- The directory of an area. -/
def State.dir (s : State) (area : W64) : List (List Byte) :=
  let h := s.doffHdr area
  let off := fld h 56 8
  (List.range (Nat.min (fld h 32 4) 2560)).map fun i => s.doffGet area (off + 32 * i) 32
/-- The saved team that an entry names. -/
def State.dirTeam (s : State) (job : Nat) (e : List Byte) : Option Nat :=
  (s.teams.find? fun p =>
    let l := s.launch p.2.lid
    p.2.job.toNat == job && l.queue.toNat == fld e 0 1 && l.seq.toNat == fld e 4 4 && p.2.idx == fld e 8 4).map (·.1)
/-- The status of a restore's checks (R431, R440). -/
def State.restoreCheck (s : State) (job : Nat) (area : W64) : Nat :=
  let h := s.doffHdr area
  if (s.doffed job).isNone then 7
  else if !s.hdrOpen area || !hdrIs h job || fld h 24 4 != 2 then 8
  else if fld h 52 4 != 0 then 9
  else if fld h 30 2 != s.dsp.mode.toNat then 8
  else 0
/-- A restore begins: the teams of the directory wait for their rows. -/
def State.restoreBegin (s : State) (ctl : W32) : State :=
  let job := ctl.toNat % 4096
  let es := s.dir s.doff.area
  let s1 := es.foldl (fun s e =>
    match s.dirTeam job e with
    | none => s
    | some tid =>
      let t := s.team tid
      if t.state != .saved then s
      else
        let s1 := s.setTeam tid { t with sock := fld e 1 1, core := fld e 2 1, waitRestore := true, restoreLive := BitVec.ofNat 16 (fld e 12 2) }
        { s1 with doff := { s1.doff with teams := s1.doff.teams ++ [tid] } })
    { s with doff := { s.doff with ctl := ctl, runArea := s.doff.area, busy := true, phase := 6, status := 0, teams := [], filled := false } }
  s1.soon .placementPass

/-- A group restored from its section and its divergence record (R419, R421): none where a check fails. The answer holds the bytes used. -/
def State.fillGroup (s : State) (gid : GId) (b : List Byte) : Option (State × Nat) :=
  match s.group gid with
  | none => none
  | some g =>
    let n := fld b 4 4
    let sec := b.take n
    let t0 : Trap := { code := Code.preempt, reason := 3, lane := noLane, d0 := 0, d1 := 0, word := 0, func := 0, double := false, opn := false }
    match s.fillCtx gid (Ctx.mk [] [] 0 t0 true .clear .clear false false) sec with
    | none => none
    | some c =>
      let d := b.drop n
      let k := fld d 0 4
      let len := (List.range (Nat.min k 32)).foldl (fun off _ => off + 16 + 8 * Nat.min (fld d (off + 8) 4) 33) 8
      let es := readDiv (Nat.min k 32) (d.drop 8) []
      let ended : Mask := BitVec.ofNat 32 (fld sec 20 4)
      let blocks (dp : Nat) : Nat := (blocksOf (items (s.teamWords gid.tid (c.frames.reverse.getD dp ⟨0, 0, 0, [], 0, []⟩).func))).length
      if 32 < k || !divOk blocks c.frames.length c.active ended es then none
      else
        let g1 := { g with frames := c.frames, div := es, active := c.active, ended := ended, waits := c.waits, noPoint := false, trap := none }
        let s1 := { s.setGroup gid g1 with fresh := s.fresh + 32 * c.frames.length }
        let s2 := if fld sec 28 4 = 0 then s1 else s1.restoreTeam gid.tid (sec.drop (fld sec 28 4))
        let s3 := (List.range (Nat.min (fld sec 32 4) 256)).foldl (fun s i => s.replay gid g1 (sec.drop (fld sec 36 4 + 16 * i))) s2
        some (s3, n + len)
def State.fillGroups (s : State) (tid : Nat) : List Nat → List Byte → Option State
  | [], _ => some s
  | i :: is, b => match s.fillGroup ⟨tid, i⟩ b with
    | none => none
    | some (s1, n) => State.fillGroups s1 tid is (b.drop n)
/-- A placed team filled from its block (R440 step 1): none where a check of the restores fails. No ring entry is fetched until its groups issue again. -/
def State.fillTeam (s : State) (tid : Nat) (e b : List Byte) : Option State :=
  let t := s.team tid
  let l := s.launch t.lid
  let live := (List.range l.groups).filter fun i => fld e 12 2 / 2 ^ i % 2 == 1
  match t.readBars b with
  | none => none
  | some t1 =>
    let bytes := (b.drop t.barSize).take l.scratch
    let peers := ((s.doff.jobs.flatMap Doffed.peers).filter fun p => p.1 == tid).flatMap (·.2)
    let t2 := { t1 with fenced := true, scratch := SMap.putBytes [] 0 bytes, copies := t.copies ++ peers }
    (State.fillGroups (s.setTeam tid t2) tid live (b.drop (t.barSize + l.scratch))).map fun s1 => (s1.barSettleAll tid (List.range 16)).dieSettle t.lid t.sock
/-- Fills every placed team of the directory; a launch whose team fails is terminated, with TEAM_FORMAT. -/
def State.fillTeams (s : State) (area : W64) (job : Nat) : List (List Byte) → State
  | [] => s
  | e :: es =>
    let s1 := match s.dirTeam job e with
      | none => s
      | some tid =>
        let t := s.team tid
        if t.state != .resident || !s.doff.teams.contains tid then s
        else match s.fillTeam tid e (s.doffGet area (fld e 16 8) (fld e 24 4)) with
          | some s1 => s1
          | none => (s.doffCode area Code.teamFormat).terminate t.lid
    State.fillTeams s1 area job es
/-- The Reel records of an area (R397). -/
def State.reelRecords (s : State) (area : W64) (x : Doffed) : List (ReelSlot × Nat) :=
  let h := s.doffHdr area
  (List.range (Nat.min (fld h 40 4) 512)).map fun i =>
    let b := s.doffGet area (fld h 72 8 + 80 * i) 80
    ({ ReelSlot.reset with st := .live, job := x.job, key := BitVec.ofNat 52 (fld b 0 8), grid := x.grids.getD (fld b 13 1) 0, fields := fieldsOf (b.drop 16) }, fld b 10 2 % 512)
/-- Packets of records from an offset. -/
def State.packetRecords (s : State) (area : W64) (job : BitVec 12) (off n : Nat) (late : Bool) : List Packet :=
  (List.range n).map fun i =>
    let b := s.doffGet area (off + 160 * i) 160
    readPacket job b (if late then fld b 5 1 else fld b 0 1)
/-- The groups of a restored team become ready (R440 step 5); a team with none drains. -/
def State.wakeTeam (s : State) (tid : Nat) : State :=
  let t := s.team tid
  if t.state != .resident then s
  else
    let s1 := (List.range t.groups.length).foldl (fun s i =>
      match s.group ⟨tid, i⟩ with
      | none => s
      | some g => if g.status == .loading then (s.setGroup ⟨tid, i⟩ { g with status := .ready, look := g.frames.length }).lookGroup ⟨tid, i⟩ else s) s
    let s2 := s1.unfence tid
    if t.groups.all (fun g => g.status == .out) then (s2.setTeam tid { s2.team tid with state := .draining }).soon (.completionEvent tid) else s2

/-- DOFF_RESTORE_DONE (R440): once every team of the directory is placed or ended, the teams are filled and the Reel records boarded; once those are on the ring, the packets are injected and the job goes on. -/
def execDoffRestoreDone (s : State) : Out :=
  let d := s.doff
  let job : BitVec 12 := d.ctl.setWidth 12
  .next (if !d.busy || d.phase != 6 then s
    else match d.jobs.find? fun x => x.job == job with
      | none => s.doffEnd 0
      | some x =>
        if !d.filled then
          if d.teams.any (fun tid => (s.team tid).state == .saved || (s.team tid).state == .loading) then s
          else
            let s1 := s.fillTeams d.runArea job.toNat (s.dir d.runArea)
            { s1 with doff := { s1.doff with filled := true }, reel := { s1.reel with boards := s1.reel.boards ++ s1.reelRecords d.runArea x } }
        else if !s.reel.boards.isEmpty then s
        else
          let h := s.doffHdr d.runArea
          let ps := s.packetRecords d.runArea job (fld h 64 8) (Nat.min (fld h 36 4) 16384) false ++ s.packetRecords d.runArea job (fld h 80 8) (Nat.min (fld h 44 4) x.lateCap) true
          let s1 := { s with
            pln := { s.pln with packets := ps ++ s.pln.packets }
            reel := { s.reel with blocked := s.reel.blocked.filter (· != job) }
            doff := { s.doff with jobs := s.doff.jobs.filter fun (y : Doffed) => y.job != job } }
          let s2 := d.teams.foldl State.wakeTeam s1
          (s2.doffPut d.runArea 24 (natLe 4 4)).doffEnd 0)

/-- A discard (R440): every live launch of the job is terminated; its slots are on the ring no more (R382). -/
def State.discard (s : State) (ctl : W32) (x : Doffed) : State :=
  let s0 := { s with doff := { s.doff with ctl := ctl, status := 0 } }
  let lids := s0.jobLaunches x.job.toNat
  let s1 := lids.foldl (fun s lid => s.setLaunch lid { s.launch lid with reelHeld := 0 }) s0
  let s2 := s1.terminateAll lids
  ((s2.setDoffed { x with draining := true, peers := [] }).doffPut x.area 24 (natLe 5 4)).settle lids |>.doffEnd 0
/-- DISCARD_DRAIN_END (R440): no request of a discarded job is in service; the routers divert it no more. -/
def execDiscardDrainEnd (s : State) : Out :=
  let gone := (s.doff.jobs.filter fun (x : Doffed) => x.draining).map Doffed.job
  .next (if gone.isEmpty then s
    else { s with
      doff := { s.doff with jobs := s.doff.jobs.filter fun (x : Doffed) => !x.draining }
      reel := { s.reel with blocked := s.reel.blocked.filter fun j => !gone.contains j } }.soon .dispatchRound)

/-- A write of PLN_DOFFCTL (R430): ignored while GO reads 1; GO with OP 1, 2 or 3 starts that operation if its checks pass, and STATUS shows how they went. -/
def State.doffctl (s : State) (v : W32) : State :=
  let d := s.doff
  let ctl := v &&& 0x7FFFFFFF
  let job := v.toNat % 4096
  let refuse (st : Nat) : State := { s with doff := { d with ctl := ctl, status := BitVec.ofNat 8 st } }
  if d.busy then s
  else if !v.getLsbD 31 then { s with doff := { d with ctl := ctl } }
  else match fieldNat v.toNat 30 28 with
    | 1 => (match s.doffCheck none job d.area with
      | 0 => s.doffBegin ctl d.area
      | st => refuse st)
    | 2 => (match s.restoreCheck job d.area with
      | 0 => s.restoreBegin ctl
      | st => refuse st)
    | 3 => (match s.doffed job with
      | some x => s.discard ctl x
      | none => refuse 7)
    | _ => { s with doff := { d with ctl := ctl } }
/-- The operation a start event names: OP 1, 2 or 3 of PLN_DOFFCTL. -/
def withOp (v : W32) (op : Nat) : W32 := (v &&& 0x8FFFFFFF) ||| BitVec.ofNat 32 (op * 2 ^ 28)
/-- DOFF_START (R430, R432): a write of PLN_DOFFCTL with OP 1. -/
def execDoffStart (v : W32) (s : State) : Out := .next (s.doffctl (withOp v 1))
/-- DOFF_RESTORE (R440): a write of PLN_DOFFCTL with OP 2. -/
def execDoffRestore (v : W32) (s : State) : Out := .next (s.doffctl (withOp v 2))
/-- DOFF_DISCARD (R440): a write of PLN_DOFFCTL with OP 3. -/
def execDoffDiscard (v : W32) (s : State) : Out := .next (s.doffctl (withOp v 3))

/-- doff.issue (R432): the checks and the acceptance as one step; the status is the i32 result. -/
def execDoffIssue (h : Hd) (job area : Opnd) (s : State) : Out :=
  withCur s fun gid g => s.afterReds gid g (fun _ => true) fun s g => s.elect gid g [(.i32, job), (.ptr, area)] fun xs =>
    let j := uns 32 (xs.getD 0 0)
    let a := xs.getD 1 0
    let own := (s.team gid.tid).job.toNat
    let st := s.doffCheck (some own) j a
    let ctl : W32 := BitVec.ofNat 32 (2 ^ 28 + fieldNat s.doff.ctl.toNat 27 12 * 4096 + j % 4096)
    let s1 := if st = 0 then s.doffBegin ctl a else s
    s1.deliver gid ((s1.group gid).getD g) h (BitVec.ofNat 64 st)

end Sys2Proof.Machine
end

