-- ==== Sys2Proof/Machine/Native.lean ====
section
/-! DEFINITION. The native level (R249-R286): the native-only ops, and how a mirrored op reaches its Flinal meaning. -/

namespace Sys2Proof.Machine

-- native-only ops (R268, R282) -----------------------------------------------

/-- The active lanes' elements of a source vector register, or the broadcast scalar s2 (R254). -/
def NatWin.vecOrS (w : NatWin) (scal n : Nat) (hi : Bool) : List (BitVec 32) :=
  if n = 255 then List.replicate 32 (if hi then (w.scalar scal).extractLsb' 32 32 else (w.scalar scal).setWidth 32)
  else w.vec (if hi then n + 1 else n)
/-- A native-only op moves no point by itself. -/
def State.natOp (s : State) (gid : GId) (g : Group) (w : NatWin) : State := s.setGroup gid { g with nat := w }

/-- A 16-bit quarter of a word. -/
def putQuarter (x k imm : Nat) (keep : Bool) : Nat :=
  if keep then x - x / 2 ^ (16 * k) % 65536 * 2 ^ (16 * k) + imm * 2 ^ (16 * k) else imm * 2 ^ (16 * k)
/-- n.li. -/
def execNLi (sc : Bool) (d : BitVec 8) (imm : BitVec 16) (m : BitVec 8) (s : State) : Out :=
  withCur s fun gid g =>
    let k := m.toNat % 4
    let keep := m.getLsbD 2
    let w := g.nat
    s.natOp gid g (if m.getLsbD 3 then w.putPred d.toNat g.active (if imm.getLsbD 0 then 0xFFFFFFFF else 0)
      else if sc then w.putScalar d.toNat (BitVec.ofNat 64 (putQuarter (w.scalar d.toNat).toNat k imm.toNat keep))
      else w.putVec d.toNat g.active ((w.vec d.toNat).map fun x => BitVec.ofNat 32 (putQuarter x.toNat k imm.toNat keep)))
/-- A copied register keeps its lost mark (R239, R407). -/
def NatWin.copyLost (w : NatWin) (w0 : NatWin) (f : RegFile) (src dst : Nat) : NatWin :=
  match w0.lostAt f src with
  | some l => { w with lost := (f, dst, l.1) :: w.lost }
  | none => w
/-- n.mov. -/
def execNMov (sc : Bool) (d a m : BitVec 8) (s : State) : Out :=
  withCur s fun gid g =>
    let w := g.nat
    let dn := d.toNat
    let an := a.toNat
    s.natOp gid g (if m.getLsbD 1 then (w.putPred dn g.active (g.pred an)).copyLost w .pred an dn
      else if sc then (w.putScalar dn (w.scalar an)).copyLost w .scalar an dn
      else
        let w1 := (w.putVec dn g.active (w.vecOrS 2 an false)).copyLost w .vec an dn
        if m.getLsbD 0 then (w1.putVec (dn + 1) g.active (w.vecOrS 2 an true)).copyLost w .vec (an + 1) (dn + 1) else w1)
/-- n.bcast. -/
def execNBcast (d a m : BitVec 8) (s : State) : Out :=
  withCur s fun gid g =>
    let w := g.nat
    let x := w.scalar a.toNat
    let all (y : BitVec 32) : List (BitVec 32) := List.replicate 32 y
    let w1 := w.putVec d.toNat g.active (all (x.setWidth 32))
    s.natOp gid g (if m.getLsbD 0 then w1.putVec (d.toNat + 1) g.active (all (x.extractLsb' 32 32)) else w1)
/-- The control word of a bit field. -/
def bfpk (a b : Nat) : Nat := Nat.min a 255 + Nat.min b 255 * 256
/-- n.bfpk. -/
def execNBfpk (sc : Bool) (d a b : BitVec 8) (s : State) : Out :=
  withCur s fun gid g =>
    let w := g.nat
    s.natOp gid g (if sc then w.putScalar d.toNat (BitVec.ofNat 64 (bfpk ((w.scalar a.toNat).toNat % 2 ^ 32) ((w.scalar b.toNat).toNat % 2 ^ 32)))
      else
        let x := w.vecOrS 2 a.toNat false
        let y := w.vecOrS 3 b.toNat false
        w.putVec d.toNat g.active (lanes32.map fun l => BitVec.ofNat 32 (bfpk (x.getD l 0).toNat (y.getD l 0).toNat)))

/-- Bytes of a slot of a kind (R282). -/
def slotSize (m : BitVec 8) : Nat := match m.toNat % 4 with | 0 => 128 | 1 => 256 | 2 => 8 | _ => 4
/-- The bytes of a register as a spill stores them. -/
def NatWin.slotBytes (w : NatWin) (act : Mask) (d : Nat) (m : BitVec 8) : List Byte :=
  let vec (n : Nat) : List Byte := (w.vec n).flatMap fun (x : BitVec 32) => natLe x.toNat 4
  match m.toNat % 4 with
  | 0 => vec d
  | 1 => vec d ++ vec (d + 1)
  | 2 => natLe (w.scalar d).toNat 8
  | _ => natLe (if d = 0 then act else SMap.get 0 w.q d).toNat 4
/-- The register as a fill reads it. -/
def NatWin.fillSlot (w : NatWin) (d : Nat) (m : BitVec 8) (bs : List Byte) : NatWin :=
  let vec (o : Nat) : List (BitVec 32) := lanes32.map fun l => BitVec.ofNat 32 (fld bs (o + 4 * l) 4)
  match m.toNat % 4 with
  | 0 => w.putVec d 0xFFFFFFFF (vec 0)
  | 1 => (w.putVec d 0xFFFFFFFF (vec 0)).putVec (d + 1) 0xFFFFFFFF (vec 128)
  | 2 => w.putScalar d (BitVec.ofNat 64 (fld bs 0 8))
  | _ => w.putPred d 0xFFFFFFFF (BitVec.ofNat 32 (fld bs 0 4))
/-- The line by which a register to be stored is lost: either of a pair (R407). -/
def NatWin.lostBy (w : NatWin) (f : RegFile) (d : Nat) (m : BitVec 8) : Option Nat :=
  ((w.lostAt f d).or (if m.toNat % 4 = 1 then w.lostAt f (d + 1) else none)).map (·.1)
/-- n.spill: every lane is stored, after the register's outstanding write (R261). A lost register leaves a poisoned slot (R407). -/
def execNSpill (d : BitVec 8) (imm : BitVec 16) (m : BitVec 8) (s : State) : Out :=
  withCur s fun gid g =>
    let off := (g.nat.scalar 0).toNat + 4 * imm.toNat
    if 262144 < off + slotSize m then s.fail gid g Code.spillOverflow
    else
      let w := g.nat
      let file : RegFile := match m.toNat % 4 with | 2 => .scalar | 3 => .pred | _ => .vec
      let mine (p : Pend) : Bool := p.file == file && (p.reg == d.toNat || (m.toNat % 4 == 1 && p.reg == d.toNat + 1))
      let w1 := { (w.pend.filter mine).foldl NatWin.land w with pend := w.pend.filter fun p => !mine p }
      s.natOp gid g ({ w1 with spill := SMap.putBytes w1.spill off (w1.slotBytes g.active d.toNat m) }.markSlot off (slotSize m) (w1.lostBy file d.toNat m))
/-- n.fill: it is interlocked, so its register is written when it issues (R261). A poisoned slot marks it lost, and the instruction that reads it raises DATA_LOSS (R225, R239, R407). -/
def execNFill (d : BitVec 8) (imm : BitVec 16) (m : BitVec 8) (s : State) : Out :=
  withCur s fun gid g =>
    let off := (g.nat.scalar 0).toNat + 4 * imm.toNat
    if 262144 < off + slotSize m then s.fail gid g Code.spillOverflow
    else
      let file : RegFile := match m.toNat % 4 with | 2 => .scalar | 3 => .pred | _ => .vec
      let w := g.nat.fillSlot d.toNat m (SMap.bytes g.nat.spill off (slotSize m))
      s.natOp gid g (w.markReg file d.toNat ((g.nat.poison.find? fun p => decide (off ≤ p.1) && decide (p.1 < off + slotSize m)).map (·.2)))

-- mirrored ops (R266) --------------------------------------------------------

/-- n.bfx and n.bfi read position and length from a control word (R268). -/
def natBfx (h : Hd) (sg : Bool) (v c : Opnd) (s : State) : Out :=
  valueOp2 h h.ty .i32 h.ty v c (fun x y => bfxLane h.ty.bits sg x (y &&& 255) (y >>> 8 &&& 255)) s
def natBfi (h : Hd) (a b c : Opnd) (s : State) : Out :=
  valueOp3 h h.ty h.ty .i32 [h.ty] a b c (fun x z y => bfiLane h.ty.bits x z (y &&& 255) (y >>> 8 &&& 255)) s

/-- The Flinal meaning of a mirrored op; a control instruction has a native meaning of its own. -/
def nativeExec (i : Instr) (s : State) : Out :=
  match i with
  | .add h m a b => execAdd h m a b s
  | .sub h m a b => execSub h m a b s
  | .mul h m a b => execMul h m a b s
  | .mad h a b c => execMad h a b c s
  | .div h m a b => execDiv h m a b s
  | .divrem h m a b => execDivrem h m a b s
  | .rem h m a b => execRem h m a b s
  | .neg h m a => execNeg h m a s
  | .abs h m a => execAbs h m a s
  | .min h m a b => execMin h m a b s
  | .max h m a b => execMax h m a b s
  | .addc h a b c => execAddc h a b c s
  | .subb h a b c => execSubb h a b c s
  | .and h a b => execAnd h a b s
  | .or h a b => execOr h a b s
  | .xor h a b => execXor h a b s
  | .andn h a b => execAndn h a b s
  | .not h a => execNot h a s
  | .shl h a b => execShl h a b s
  | .shr h m a b => execShr h m a b s
  | .rot h m a b => execRot h m a b s
  | .popc h a => execPopc h a s
  | .clz h a => execClz h a s
  | .ctz h a => execCtz h a s
  | .brev h a => execBrev h a s
  | .cmp h c a b => execCmp h c a b s
  | .sel h c a b => execSel h c a b s
  | .ext h m a => execExt h m a s
  | .trunc h a => execTrunc h a s
  | .ptoi h a => execPtoi h a s
  | .itop h a => execItop h a s
  | .ptrIdx h m k p x => execPtrIdx h m k p x s
  | .addFloat h r a b => execAddFloat h r a b s
  | .subFloat h r a b => execSubFloat h r a b s
  | .mulFloat h r a b => execMulFloat h r a b s
  | .fma h r a b c => execFma h r a b c s
  | .divFloat h r a b => execDivFloat h r a b s
  | .sqrt h r a => execSqrt h r a s
  | .rcp h a => execRcp h a s
  | .rsqrt h a => execRsqrt h a s
  | .minFloat h a b => execMinFloat h a b s
  | .maxFloat h a b => execMaxFloat h a b s
  | .negFloat h a => execNegFloat h a s
  | .absFloat h a => execAbsFloat h a s
  | .copysign h a b => execCopysign h a b s
  | .cmpFloat h c a b => execCmpFloat h c a b s
  | .class h m a => execClass h m a s
  | .rint h r a => execRint h r a s
  | .exp2 h a => execExp2 h a s
  | .log2 h a => execLog2 h a s
  | .sin h a => execSin h a s
  | .cos h a => execCos h a s
  | .tanh h a => execTanh h a s
  | .sigm h a => execSigm h a s
  | .amax h a b c d => execAmax h a b c d s
  | .amin h a b c d => execAmin h a b c d s
  | .cvt h r t g a => execCvt h r t g a s
  | .cvtSlot h k g a => execCvtSlot h k g a s
  | .q4Pack h k x b => execQ4Pack h k x b s
  | .q4Unpack h k q x b => execQ4Unpack h k q x b s
  | .q4Make h w x => execQ4Make h w x s
  | .q4Elem h q => execQ4Elem h q s
  | .q4Scale h q => execQ4Scale h q s
  | .bitcast h a => execBitcast h a s
  | .shfl h m v n => execShfl h m v n s
  | .vote h m p => execVote h m p s
  | .scan h e c v => execScan h e c v s
  | .xred h c v => execXred h c v s
  | .xamax h m x k => execXamax h m x k s
  | .first h v => execFirst h v s
  | .active h => execActive h s
  | .emit h m v x => execEmit h m v x s
  | .ld h ac a sc p => execLd h ac a sc p s
  | .st h ac r sc p v => execSt h ac r sc p v s
  | .ldk h ac a sc p o => execLdk h ac a sc p o s
  | .stk h ac r sc p v o => execStk h ac r sc p v o s
  | .gather h ac w g sc b k => execGather h ac w g sc b k s
  | .scatter h ac w g sc b k v => execScatter h ac w g sc b k v s
  | .prefetch h ac f p => execPrefetch h ac f p s
  | .ptrExport h ac p => execPtrExport h ac p s
  | .ptrCast h ac w p => execPtrCast h ac w p s
  | .atom h ac o r sc p x => execAtom h ac o r sc p x s
  | .cas h ac r sc p e n => execCas h ac r sc p e n s
  | .red h ac o r sc p x => execRed h ac o r sc p x s
  | .fence h o sc => execFence h o sc s
  | .bar h b l m => execBar h b l m s
  | .barArrive h b l m => execBarArrive h b l m s
  | .barWait b p => execBarWait b p s
  | .barWaitTimed h b p l => execBarWaitTimed h b p l s
  | .xbInit h p n => execXbInit h p n s
  | .xbExpect h p n => execXbExpect h p n s
  | .xbWait p => execXbWait p s
  | .xbWaitTimed h p l => execXbWaitTimed h p l s
  | .spoolClaim h x => execSpoolClaim h x s
  | .spoolCommit h x p => execSpoolCommit h x p s
  | .spoolWaitfilled h x => execSpoolWaitfilled h x s
  | .spoolRelease h x p => execSpoolRelease h x p s
  | .spoolWaitfree x => execSpoolWaitfree x s
  | .hodKick h e n => execHodKick h e n s
  | .hodBind h e r => execHodBind h e r s
  | .sread h x => execSread h x s
  | .hodPut h e r => execHodPut h e r s
  | .hodGet h e r => execHodGet h e r s
  | .reelBoard h k p => execReelBoard h k p s
  | .reelAlight h k n d c => execReelAlight h k n d c s
  | .reelCapture h o f r k n x y => execReelCapture h o f r k n x y s
  | .reelFence => execReelFence s
  | .mxLdst h k p => execMxLdst h k p s
  | .mxSwap c => execMxSwap c s
  | .mxStream h k p => execMxStream h k p s
  | .mxStreamBound h k p x => execMxStreamBound h k p x s
  | .mxSpgather h k p => execMxSpgather h k p s
  | .mxCompress h k p => execMxCompress h k p s
  | .mxDrain h k p => execMxDrain h k p s
  | .mxDrainAdd h k p => execMxDrainAdd h k p s
  | .mxWait t => execMxWait t s
  | .trap c => execTrap c s
  | .trapDetail c d => execTrapDetail c d s
  | .ctxDrain => execCtxDrain s
  | .ctxSpill p => execCtxSpill p s
  | .ctxFill p => execCtxFill p s
  | .ctxBank b => execCtxBank b s
  | .ctxDivSave ce p => execCtxDivSave ce p s
  | .ctxDivRestore ce p => execCtxDivRestore ce p s
  | .ctxBarSave ce p => execCtxBarSave ce p s
  | .ctxBarRestore ce p => execCtxBarRestore ce p s
  | .tret => execTret s
  | .doffIssue h j a => execDoffIssue h j a s
  | .rdctr h n => execRdctr h n s
  | .rdcap h o => execRdcap h o s
  | .phaseDecl p => execPhaseDecl p s
  | .nLi x d k m => execNLi x d k m s
  | .nMov x d a m => execNMov x d a m s
  | .nBcast d a m => execNBcast d a m s
  | .nBfpk x d a b => execNBfpk x d a b s
  | .nSpill d k m => execNSpill d k m s
  | .nFill d k m => execNFill d k m s
  | _ => .fault .noGroup

end Sys2Proof.Machine
end

