-- ==== Sys2Proof/Machine/Bundle.lean ====
section
/-! DEFINITION. Bundles (R252-R286): the decoding of slots, whole-course checks, native divergence and calls, the issue of a bundle, lock-step meetings (R292-R295), results of variable latency. -/

namespace Sys2Proof.Machine

-- register fields (R249, R250, R254) -----------------------------------------

/-- An operand field: its number, whether it is field B, and its file where the op fixes one (FILE of R277, or a predicate field). -/
structure NSrc where
  n : Nat
  isB : Bool
  scal : Option Bool

/-- A source register of a type, in a scalar form or not; none where the field is undefined. -/
def srcReg (eff : Nat) (sc : Bool) (ty : Ty) (x : NSrc) : Option Opnd :=
  let scal := x.scal.getD (sc || ty == .hnd)
  let reg (f : RegFile) (n : Nat) : Option Opnd := some (.reg f (BitVec.ofNat 8 n) ty)
  if ty == .i1 then (if x.n < 16 then reg .pred x.n else none)
  else if scal then (if x.n < 64 then reg .scalar x.n else none)
  else if ty == .hnd then none
  else if x.n = 255 then reg .scalar (if x.isB then 3 else 2)
  else if isPair ty then (if x.n % 2 = 0 && x.n + 1 < eff then reg .vec x.n else none)
  else if x.n < eff then reg .vec x.n else none
/-- A destination register (R250, R254). -/
def dstReg (eff : Nat) (sc : Bool) (ty : Ty) (n : Nat) : Option (RegFile × Nat) :=
  if ty == .i1 then (if 1 ≤ n && n < 16 then some (.pred, n) else none)
  else if sc || ty == .hnd then (if 2 ≤ n && n < 64 then some (.scalar, n) else none)
  else if isPair ty then (if n % 2 = 0 && n + 1 < eff then some (.vec, n) else none)
  else if n < eff then some (.vec, n) else none
/-- The registers a destination of a type takes. -/
def regsOf (f : RegFile) (n : Nat) (ty : Ty) : List (RegFile × Nat) := if f == .vec && isPair ty then [(f, n), (f, n + 1)] else [(f, n)]

/-- What an op does to the course: nothing, the return from the handler, or a control op with its fields. -/
inductive NKind where
  | plain | leave | br (t : Nat) | cbr (q t f p : Nat) | switch (sc : Bool) (d dflt p n : Nat) | call (f : Nat) | ret | exit | unreach
  deriving DecidableEq, Repr
/-- A decoded op: what it does, the registers it writes, whether it stands only in a bundle with E, and whether its results have variable latency. -/
structure NOp where
  kind : NKind
  run : State → Out
  dsts : List (RegFile × Nat)
  ctl : Bool
  late : Bool      -- its results have variable latency (R257)

def NOp.mk' (run : State → Out) (dsts : List (RegFile × Nat)) : NOp := ⟨.plain, run, dsts, false, false⟩
def NOp.control (k : NKind) : NOp := ⟨k, fun s => .next s, [], true, false⟩

-- mirrored ops ---------------------------------------------------------------

/-- The type of operand k of an instruction built with numbered references: its position's, or the type the op gives it. -/
def natTy (ps : List (Opnd × Pos)) (oty : Option Ty) (k : Nat) : Option Ty :=
  match ps.find? fun p => p.1 == ref (BitVec.ofNat 16 k) with
  | some (_, .ex t) => some t
  | some (_, .own ok) => oty.filter ok
  | some (_, .any ok) => oty.filter ok
  | none => none

/-- Joins options of a list. -/
def allSome {α : Type} : List (Option α) → Option (List α)
  | [] => some []
  | none :: _ => none
  | some x :: xs => (allSome xs).map (x :: ·)

/-- An op that mirrors a Flinal instruction: opcode, type, SX and AC as there, the operand fields in Flinal order, the result field. d2 is the second result's field. xw is the extension count that selects a form of trap. -/
def mirror (eff : Nat) (sup : Bool) (op : Nat) (sc : Bool) (tyc sx : Nat) (ac : Nat) (oty : Option Ty) (xs : List NSrc) (d d2 : Nat) (lits : List W32) (late : Bool)
    (scOk : Bool) : Option NOp :=
  match Ty.ofCode tyc, Sys2Proof.rowOf op sx xs.length with
  | some ty, some row =>
    let refs := (List.range xs.length).map fun k => ref (BitVec.ofNat 16 k)
    let h0 : Hd := ⟨.flinal, .flinal, ty, sc && row.u, false⟩
    let acv := BitVec.ofNat 3 ac
    if !row.tys ty || (row.ac == .zero && ac != 0) || (sc && !row.u && !scOk) || (row.s && !sup) || xs.length != (match row.shape with | .refs n => n | .off n => n | _ => 99) then none
    else match build op sx h0 acv refs [] false lits with
      | none => none
      | some i0 =>
        let ps := positions i0
        let os := allSome ((List.range xs.length).map fun k => match natTy ps oty k, xs[k]? with
          | some t, some x => srcReg eff (sc && row.u) t x
          | _, _ => none)
        let rts := defTys i0
        let mk (t : Option Ty) (n : Nat) : Option (Dst × List (RegFile × Nat)) := match t with
          | none => if n = 0 then some (.flinal, []) else none
          | some t => (dstReg eff (sc && row.u) t n).map fun r => (.reg r.1 (BitVec.ofNat 8 r.2), regsOf r.1 r.2 t)
        let typeOk := match i0 with | .atom _ _ o _ _ _ _ => atomTy o ty | .red _ _ o _ _ _ _ => atomTy o ty | _ => true
        match os, mk rts[0]? d, mk rts[1]? d2 with
        | some os, some r, some r2 =>
          if !typeOk then none
          else (build op sx { h0 with dst := r.1, dst2 := r2.1 } acv os [] false lits).map fun i =>
            { kind := if op == 0xE6 then .leave else .plain, run := nativeExec i, dsts := r.2 ++ r2.2, ctl := op == 0xE6 || op == 0xE7 || op == 0xE8, late := late }
        | _, _, _ => none
  | _, _ => none

/-- A source field. -/
def fa (n : Nat) : NSrc := ⟨n, false, none⟩
def fb (n : Nat) : NSrc := ⟨n, true, none⟩

/-- Fields of a 40-bit slot. -/
structure Slot40 where
  sc : Bool
  idx : Nat
  d : Nat
  a : Nat
  b : Nat
  m : Nat
def Slot40.of (x : Nat) : Slot40 := ⟨x.testBit 39, fieldNat x 38 32, fieldNat x 31 24, fieldNat x 23 16, fieldNat x 15 8, fieldNat x 7 0⟩

/-- Integer type code of the width-indexed ops: i8, i16, i32, i64. -/
def ity (k : Nat) : Nat := 2 + k % 4
/-- Float type code of the type-indexed ops: f16, bf16, f32, f64. -/
def fty (k : Nat) : Nat := 6 + k % 4

/-- A bit-field op (R268). -/
def fieldOp (eff : Nat) (sc : Bool) (tyc : Nat) (d : Nat) (xs : List NSrc) (run : Hd → List Opnd → State → Out) : Option NOp :=
  match Ty.ofCode tyc with
  | none => none
  | some ty =>
    if !ty.isI then none
    else
      let tys := (List.replicate (xs.length - 1) ty) ++ [.i32]
      match allSome ((tys.zip xs).map fun p => srcReg eff sc p.1 p.2), dstReg eff sc ty d with
      | some os, some r => some (.mk' (run ⟨.reg r.1 (BitVec.ofNat 8 r.2), .flinal, ty, sc, false⟩ os) (regsOf r.1 r.2 ty))
      | _, _ => none

/-- Slot A (R263): e is the extension of a wide op. -/
def slotA (eff : Nat) (sup : Bool) (x : Slot40) (e : Nat) : Option NOp :=
  let t := x.m / 16
  let sx := x.m % 16
  let mir (tyc sx : Nat) (oty : Option Ty) (xs : List NSrc) (d d2 : Nat) : Option NOp :=
    if x.sc && tyc = 1 then none else mirror eff sup (x.idx + 0x10) x.sc tyc sx 0 oty xs d d2 [] false false
  let un (o : Option NOp) : Option NOp := if x.b = 0 then o else none
  let i := x.idx
  let t20 := fieldNat (x.a * 65536 + x.b * 256 + x.m) 19 0
  let t20ok := decide (x.a / 16 = 0)
  if [0, 1, 2, 4, 6, 9, 0xA, 0x10, 0x11, 0x12, 0x13, 0x15, 0x16, 0x17, 0x20].contains i then mir t sx none [fa x.a, fb x.b] x.d 0
  else if [7, 8, 0x14, 0x18, 0x19, 0x1A, 0x1B, 0x25, 0x26].contains i then un (mir t sx none [fa x.a] x.d 0)
  else if i = 0x1C then (if sx < 2 then fieldOp eff x.sc t x.d [fa x.a, fb x.b] (fun h os => match os with | [v, c] => natBfx h (sx == 1) v c | _ => fun s => .next s) else none)
  else if i = 0x21 then mirror eff sup 0x31 x.sc t 0 0 none [⟨sx, false, none⟩, fa x.a, fb x.b] x.d 0 [] false false
  else if i = 0x23 || i = 0x24 then (if x.b % 16 = 0 then mir t sx (Ty.ofCode (x.b / 16)) [fa x.a] x.d 0 else none)
  else if i = 0x27 then mirror eff sup 0x37 x.sc 10 (x.m % 16) 0 (Ty.ofCode t) [fa x.a, fb x.b] x.d 0 [] false false
  else if i = 0x28 then
    let pred := x.m.testBit 3
    if x.m / 16 != 0 || (pred && x.m % 8 != 0) || (!x.sc && !pred && decide (1 < x.m % 4)) then none
    else match dstReg eff x.sc (if pred then .i1 else .i32) x.d with
      | none => none
      | some r => some (.mk' (execNLi x.sc (BitVec.ofNat 8 x.d) (BitVec.ofNat 16 (x.a * 256 + x.b)) (BitVec.ofNat 8 x.m)) [r])
  else if i = 0x29 then
    let ty : Ty := if x.m.testBit 1 then .i1 else if x.m.testBit 0 then .i64 else .i32
    if x.b != 0 || decide (3 ≤ x.m) then none
    else match srcReg eff x.sc ty (fa x.a), dstReg eff x.sc ty x.d with
      | some _, some r => some (.mk' (execNMov x.sc (BitVec.ofNat 8 x.d) (BitVec.ofNat 8 x.a) (BitVec.ofNat 8 x.m)) (regsOf r.1 r.2 ty))
      | _, _ => none
  else if i = 0x2A then
    if x.m != 0 then none
    else match srcReg eff x.sc .i32 (fa x.a), srcReg eff x.sc .i32 (fb x.b), dstReg eff x.sc .i32 x.d with
      | some _, some _, some r => some (.mk' (execNBfpk x.sc (BitVec.ofNat 8 x.d) (BitVec.ofNat 8 x.a) (BitVec.ofNat 8 x.b)) [r])
      | _, _, _ => none
  else if i = 0x2B then
    let ty : Ty := if x.m = 1 then .i64 else .i32
    if x.sc || x.b != 0 || decide (1 < x.m) || decide (64 ≤ x.a) then none
    else (dstReg eff false ty x.d).map fun r => .mk' (execNBcast (BitVec.ofNat 8 x.d) (BitVec.ofNat 8 x.a) (BitVec.ofNat 8 x.m)) (regsOf r.1 r.2 ty)
  else if i = 0x30 then (if x.sc || x.d != 0 || !t20ok then none else some (.control (.br t20)))
  else if i = 0x31 then (if x.sc || !t20ok || decide (16 ≤ x.d) then none else some (.control (.cbr x.d t20 (fieldNat e 39 20) (fieldNat e 19 0))))
  else if i = 0x32 then
    let n := fieldNat e 19 10
    if !t20ok || n = 0 || e % 1024 != 0 || (srcReg eff x.sc .i32 (fa x.d)).isNone then none
    else some (.control (.switch x.sc x.d t20 (fieldNat e 39 20) n))
  else if i = 0x33 then (if x.sc || x.d != 0 || x.m != 0 then none else some (.control (.call (x.a * 256 + x.b))))
  else if i = 0x34 || i = 0x35 || i = 0x36 then
    (if x.sc || x.d != 0 || x.a != 0 || x.b != 0 || x.m != 0 then none else some (.control (if i = 0x34 then .ret else if i = 0x35 then .exit else .unreach)))
  else if 0x40 ≤ i && i < 0x44 then mirror eff sup 0x13 x.sc (ity i) 0 0 none [fa x.a, fb x.b, fa x.m] x.d 0 [] false false
  else if 0x44 ≤ i && i < 0x4C then
    (if t != 0 then none else mirror eff sup (if i < 0x48 then 0x1B else 0x1C) x.sc (ity i) 0 0 none [fa x.a, fb x.b, fa sx] x.d sx [] false false)
  else if 0x4C ≤ i && i < 0x50 then
    fieldOp eff x.sc (ity i) x.d [fa x.a, fb x.b, fa x.m] (fun h os => match os with | [a, b, c] => natBfi h a b c | _ => fun s => .next s)
  else if 0x50 ≤ i && i < 0x58 then mirror eff sup 0x15 x.sc (ity i) (if i < 0x54 then 0 else 1) 0 none [fa x.a, fb x.b] x.d x.m [] false false
  else none

/-- Slot B (R264, R278). -/
def slotB (eff : Nat) (sup : Bool) (x : Slot40) : Option NOp :=
  let t := x.m / 16
  let sx := x.m % 16
  let i := x.idx
  let mir (tyc sx ac : Nat) (oty : Option Ty) (xs : List NSrc) (d d2 : Nat) : Option NOp := mirror eff sup (i + 0x40) x.sc tyc sx ac oty xs d d2 [] false false
  let un (o : Option NOp) : Option NOp := if x.b = 0 then o else none
  if [0, 1, 2, 4, 8, 9, 0xC, 0xD, 0x30].contains i then mir t sx 0 none [fa x.a, fb x.b] x.d 0
  else if [5, 6, 7, 0xA, 0xB, 0xF, 0x10, 0x11, 0x12, 0x13, 0x14, 0x15, 0x31, 0x32, 0x33, 0x35].contains i then un (mir t sx 0 none [fa x.a] x.d 0)
  else if i = 0xE then (if sx / 4 != 0 then none else mir t (x.b + sx % 4 * 256) 0 none [fa x.a] x.d 0)
  else if i = 0x20 then (if x.b % 16 != 0 then none else mir t sx 0 (Ty.ofCode (x.b / 16)) [fa x.a] x.d 0)
  else if i = 0x21 then (if x.b.testBit 3 then none else mir t sx (x.b % 8) (Ty.ofCode (x.b / 16)) [fa x.a] x.d 0)
  else if i = 0x22 then
    (if sx.testBit 3 then mir 13 1 (sx % 8) (Ty.ofCode t) [fa x.a, fb x.b] x.d 0 else un (mir 13 0 (sx % 8) (Ty.ofCode t) [fa x.a] x.d 0))
  else if i = 0x23 then
    (if sx.testBit 3 then mir t 1 (sx % 8) none [fa x.a, fb x.b, fa x.d] x.d 0 else mir t 0 (sx % 8) none [fa x.a, fb x.b] x.d 0)
  else if i = 0x24 then mir t sx 0 none [fa x.a, fb x.b] x.d 0
  else if i = 0x25 || i = 0x26 then un (mir t sx 0 none [fa x.a] x.d 0)
  else if i = 0x27 then (if x.b % 16 != 0 || sx != 0 then none else mir t 0 0 (Ty.ofCode (x.b / 16)) [fa x.a] x.d 0)
  else if i = 0x34 then un (mir t sx 0 none [fa x.d, fa x.a] x.d x.a)
  else if i = 0x36 then (if x.a != 0 then none else un (mir t sx 0 none [] x.d 0))
  else if 0x40 ≤ i && i ≤ 0x45 then
    if i = 0x41 then (if x.sc || x.d != 0 || x.a != 0 || x.b != 0 || x.m != 0 then none else some (.mk' (execMxSwap false) []))
    else if t != 0 then none
    else
      let op := i + 0x80
      let s3 := sx.testBit 3
      let p : NSrc := ⟨x.a, false, some x.sc⟩
      if i = 0x42 && s3 then mirror eff sup op x.sc 14 1 (sx % 8) none [p, ⟨x.b, true, some true⟩] x.d 0 [] true true
      else if x.b != 0 || (s3 && i != 0x45) then none
      else mirror eff sup op x.sc 14 (if s3 then 1 else 0) (sx % 8) none [p] x.d 0 [] true true
  else if 0x50 ≤ i && i < 0x60 then mirror eff sup 0x43 x.sc (fty ((i - 0x50) / 4)) (i % 4) 0 none [fa x.a, fb x.b, fa x.m] x.d 0 [] false false
  else if 0x60 ≤ i && i < 0x68 then
    mirror eff sup (if i < 0x64 then 0x56 else 0x57) x.sc (fty i) 0 0 none [fa x.d, fa x.a, fb x.b, fa x.m] x.d x.a [] false false
  else none

/-- The operand fields a wide slot-C op has, by its Flinal row. -/
def wideSrcs (op sx : Nat) (a : Nat) (file : Nat) : Nat :=
  if op = 0x77 then 1 + sx / 4 % 2
  else if op = 0xE8 then (if a = 0 && file = 0 then 0 else 1)
  else match Sys2Proof.rowOf op sx 0 with
    | some r => (match r.shape with | .refs n => n | _ => 0)
    | none => 0

/-- Slot C (R265, R276, R277, R280-R282): e is the extension, where the op is wide. A trap with a zero A field and no FILE bit has no detail (log 9). -/
def slotC (eff : Nat) (sup : Bool) (x : Slot40) (e : Nat) : Option NOp :=
  let i := x.idx
  let p : NSrc := ⟨x.a, false, some x.sc⟩
  let ld (op : Nat) (lits : List W32) (store : Bool) : Option NOp :=
    if x.b.testBit 3 || x.m / 16 != 0 then none
    else if store then mirror eff sup op x.sc (x.b / 16) (x.m % 16) (x.b % 8) none [p, fa x.d] 0 0 lits true true
    else mirror eff sup op x.sc (x.b / 16) (x.m % 16) (x.b % 8) none [p] x.d 0 lits true true
  if i = 0 then ld 0x80 [] false
  else if i = 1 then ld 0x81 [] true
  else if i = 2 then (if e / 2 ^ 32 != 0 then none else ld 0x82 [BitVec.ofNat 32 e] false)
  else if i = 3 then (if e / 2 ^ 32 != 0 then none else ld 0x83 [BitVec.ofNat 32 e] true)
  else if i = 0x70 || i = 0x71 then
    let ty : Ty := match x.m % 4 with | 0 => .i32 | 1 => .i64 | 2 => .i64 | _ => .i1
    let sc := x.m % 4 == 2
    if x.sc || decide (4 ≤ x.m) then none
    else if i = 0x70 then (match srcReg eff sc ty (fa x.d) with
      | some _ => if x.d = 255 then none else some (.mk' (execNSpill (BitVec.ofNat 8 x.d) (BitVec.ofNat 16 (x.a * 256 + x.b)) (BitVec.ofNat 8 x.m)) [])
      | none => none)
    else (dstReg eff sc ty x.d).map fun r => .mk' (execNFill (BitVec.ofNat 8 x.d) (BitVec.ofNat 16 (x.a * 256 + x.b)) (BitVec.ofNat 8 x.m)) (if sc then [r] else regsOf r.1 r.2 ty)
  else
    let op := if i = 0x77 then 0x77 else i + 0x80
    let okIdx := (4 ≤ i && i ≤ 8) || (0x10 ≤ i && i ≤ 0x12) || i = 0x18 || (0x20 ≤ i && i ≤ 0x22) || (0x24 ≤ i && i ≤ 0x26) || (0x28 ≤ i && i ≤ 0x2C)
      || (0x30 ≤ i && i ≤ 0x34) || (0x38 ≤ i && i ≤ 0x3B) || i = 0x46 || (0x60 ≤ i && i ≤ 0x6B) || i = 0x77
    let file := fieldNat e 19 16
    let sx := fieldNat e 9 0
    let n := wideSrcs op sx x.a file
    let fs : List Nat := [x.a, x.b, fieldNat e 39 32, fieldNat e 31 24]
    let xs : List NSrc := (List.range n).map fun k => ⟨fs.getD k 0, k == 1, some (file.testBit k)⟩
    if !okIdx || x.sc || x.m != 0 || fieldNat e 12 10 != 0 || file / 2 ^ n != 0 || (fs.drop n).any (fun f => f != 0) then none
    else mirror eff sup op false (fieldNat e 23 20) sx (fieldNat e 15 13) none xs x.d 0 [] true false

/-- Whether a slot's op is wide (R256). -/
def wideA (i : Nat) : Bool := i == 0x31 || i == 0x32
def wideC (i : Nat) : Bool := !(i == 0 || i == 1 || i == 0x70 || i == 0x71)

-- bundles and courses (R252, R284, R285) -------------------------------------

/-- A decoded bundle. -/
structure NBundle where
  sync : Bool
  w : Bool
  e : Bool
  ops : List NOp

/-- Whether no register stands twice. -/
def distinctRegs (rs : List (RegFile × Nat)) : Bool := rs.eraseDups.length == rs.length

/-- Decodes a bundle: the number of the undefined slot where it is undefined (3 for its control byte or its slots together). -/
def decodeBundle (eff : Nat) (sup : Bool) (b : BitVec 128) : Except Nat NBundle :=
  let n := b.toNat
  let va := n.testBit 124
  let vb := n.testBit 123
  let vc := n.testBit 122
  let ra := fieldNat n 119 80
  let rb := fieldNat n 79 40
  let rc := fieldNat n 39 0
  let a := Slot40.of ra
  let c := Slot40.of rc
  let oa := if va then (if wideA a.idx && vc then none else (slotA eff sup a rc).map fun o => [o]) else some []
  let ob := if vb then (slotB eff sup (Slot40.of rb)).map fun o => [o] else some []
  let oc := if vc then (if wideC c.idx && va then none else (slotC eff sup c ra).map fun o => [o]) else some []
  let e := n.testBit 125
  if fieldNat n 121 120 != 0 then .error 3
  else match oa, ob, oc with
    | none, _, _ => .error 0
    | _, none, _ => .error 1
    | _, _, none => .error 2
    | some x, some y, some z =>
      let ops := x ++ y ++ z
      let ctl := (ops.filter NOp.ctl).length
      if !distinctRegs (ops.flatMap NOp.dsts) || decide (1 < ctl) || (ctl = 1 && !e) then .error 3
      else .ok ⟨n.testBit 127, n.testBit 126, e, ops⟩

/-- Whether a bundle index is a COURSE point's (R270). -/
def XBody.courseAt (x : XBody) (b : Nat) : Bool := decide (b < x.bundles.length) && x.points.any fun p => p.bundle == b && p.isCourse
/-- The targets of a switch's table. -/
def XBody.table (x : XBody) (b n : Nat) : List Nat := (List.range n).map fun k => fieldNat ((x.bundles.getD (b + 1 + k / 6) 0).toNat) (20 * (k % 6) + 19) (20 * (k % 6))
/-- Whether a P is a COURSE point's bundle, or the exit (R270). -/
def pOk (x : XBody) (p : Nat) : Bool := p == 0xFFFFF || x.courseAt p
/-- Checks of R270 and R271 on a control op at bundle b of an entry x; targets are bundles of the main entry y (R275). -/
def NKind.ok (x y : XBody) (b : Nat) : NKind → Bool
  | .br t => y.courseAt t
  | .cbr _ t f p => y.courseAt t && y.courseAt f && pOk y p
  | .switch _ _ d p n => y.courseAt d && pOk y p && (x.table b n).all y.courseAt
      && ((List.range ((n + 5) / 6)).all fun i => (x.bundles.getD (b + 1 + i) 0).toNat / 2 ^ 120 == 0)
      && ((List.range (6 * ((n + 5) / 6) - n)).all fun k => fieldNat ((x.bundles.getD (b + 1 + (n + k) / 6) 0).toNat) (20 * ((n + k) % 6) + 19) (20 * ((n + k) % 6)) == 0)
  | _ => true

/-- Decodes a native course whole from bundle b (R284): none when it is defined, else the bundle and slot. A course with no E in its 24 bundles goes on as a chain when no point stands in the next (R239). -/
def courseBad (eff : Nat) (sup : Bool) (x y : XBody) : Nat → Nat → Nat → Option (Nat × Nat)
  | 0, _, b => some (b, 3)
  | fuel + 1, left, b =>
    match x.bundles[b]? with
    | none => some (b, 3)
    | some w =>
      match decodeBundle eff sup w with
      | .error k => some (b, k)
      | .ok nb =>
        if !(nb.ops.all fun o => o.kind.ok x y b) then some (b, 0)
        else if nb.e then
          (if (x.pointAt (b + 1)).isSome || nb.ops.any (fun o => o.ctl) || x.bundles.length ≤ b + 1 then none
           else courseBad eff sup x y fuel 23 (b + 1))
        else match left with
          | 0 => some (b, 3)
          | l + 1 => courseBad eff sup x y fuel l (b + 1)

-- control ops (R270-R274) ----------------------------------------------------

/-- deliver of R269: none where the push would pass 32 entries. The Bool asks for run_next. -/
def natDeliver (g : Group) (parts : List (Nat × Mask)) (p : Nat) : Option (Group × Bool) :=
  let topP := g.top.map DivEntry.p
  let add (e : DivEntry) : DivEntry := parts.foldl (fun e q => e.add q.1 q.2) e
  match parts with
  | [(t, m)] =>
    if topP = some t then (match g.div with
      | e :: es => some ({ g with div := add e :: es }, true)
      | [] => some (g.natGoto t m, false))
    else some (g.natGoto t m, false)
  | _ =>
    if topP = some p then (match g.div with | e :: es => some ({ g with div := add e :: es }, true) | [] => none)
    else if g.div.length = 32 then none
    else some ({ g with div := add ⟨p, g.depth, 0, []⟩ :: g.div }, true)

/-- A control op's end: the group goes on at its bundle, runs the next lanes, or retires. -/
def State.natGo (s : State) (gid : GId) (r : Group × Bool) : State :=
  (if r.2 then s.natRunNext gid r.1 else s.setGroup gid (s.natEnter gid r.1)).endCourse gid

/-- The checks of a call (R236, R272): its callee's lookup (R218) and its frame. .ok: the callee's key is kept, so that the call itself looks up nothing again. -/
def State.callCheck (s : State) (gid : GId) (g : Group) (f : Nat) : Except State State :=
  let key := s.keyOf gid g f noResume
  match s.lookup gid g key with
  | (.miss, s1) => .error (s1.waitXlat gid g key)
  | (.refused code off, s1) => .error (s1.xlFault gid { g with got := none } code off f)
  | (.hit _, s1) =>
    let x := s1.xbody gid g g.frame.func noResume
    let base := (g.nat.scalar 0).toNat + x.vframe + x.sframe + 16
    if 262144 < base + s1.frameBytes gid g f then .error (s1.fail gid { g with got := none } Code.spillOverflow)
    else .ok (s1.setGroup gid { g with got := some key })

/-- A control op (R270-R274): its sources are those of w0, the registers before its bundle (R255). -/
def State.natControl (s : State) (gid : GId) (g : Group) (w0 : NatWin) (k : NKind) : State :=
  let g0 := { g with nat := w0 }
  let deliver (parts : List (Nat × Mask)) (p : Nat) : State := match natDeliver g parts p with
    | none => s.fail gid g Code.divDepth
    | some r => s.natGo gid r
  match k with
  | .plain => s
  | .leave => s
  | .br t => deliver [(t, g.active)] 0xFFFFF
  | .cbr q t f p =>
    let mt := g.active &&& g0.pred q
    let mf := g.active &&& ~~~(g0.pred q)
    match if q = 0 then none else w0.lostAt .pred q with
    | some l => s.dataLoss gid g l
    | none => deliver (if t = f then [(t, g.active)] else [(t, mt), (f, mf)].filter fun r => r.2 != 0) p
  | .switch sc d dflt p n =>
    let r := match srcReg 256 sc .i32 (fa d) with | some o => s.read gid g0 .i32 o | none => .all 0
    match r.lost with
    | some l => s.dataLoss gid g l
    | none =>
      let tab := (s.curBody gid g).table g.nat.bundle n
      let tgt (l : Nat) : Nat := if uns 32 (r.lane l) < n then tab.getD (uns 32 (r.lane l)) 0 else dflt
      deliver (switchParts ((lanesOf g.active).map fun l => (l, tgt l))) p
  | .call f =>
    match s.callCheck gid g f with
    | .error t => t
    | .ok s1 =>
      let x := s1.xbody gid g g.frame.func noResume
      let s0 := (g.nat.scalar 0).toNat
      let l := s0 + x.vframe + x.sframe
      -- the call of a resume entry returns to the main entry (R247, R275)
      let back := if g.nat.resume = noResume then (g.nat.bundle + 1, g.nat.entry)
        else ((s1.curBody gid g).nextB, (s1.entryId (s1.keyOf gid g g.frame.func noResume)).getD g.nat.entry)
      let link := natLe s0 4 ++ natLe (g.nat.scalar 1).toNat 4 ++ natLe back.1 4 ++ natLe back.2 4
      let w := { g.nat with spill := SMap.putBytes g.nat.spill l link, entry := (s1.entryId (s1.keyOf gid g f noResume)).getD 0, bundle := 0, resume := noResume, retried := false }
      let w1 := (w.putScalar 1 (BitVec.ofNat 64 l)).putScalar 0 (BitVec.ofNat 64 (l + 16))
      (s1.setGroup gid (s1.natEnter gid { g with got := none, nat := w1, frames := ⟨f, 0, 0, [], 0, []⟩ :: g.frames })).endCourse gid
  | .ret =>
    match g.top with
    | some e =>
      if e.p = 0xFFFFF then s.natGo gid ({ g with div := { e with arrived := e.arrived ||| g.active } :: g.div.drop 1 }, true)
      else s.natGo gid ({ g with div := ⟨0xFFFFF, g.depth, g.active, []⟩ :: g.div }, true)
    | none => s.natGo gid ({ g with div := ⟨0xFFFFF, g.depth, g.active, []⟩ :: g.div }, true)
  | .exit => s.orderPoint gid g fun s g => s.natGo gid (g.endLanes g.active, true)
  | .unreach => s.fail gid g Code.unreachable

-- the issue of a bundle ------------------------------------------------------

/-- A register's contents taken from one window into another. -/
def NatWin.takeReg (w from' : NatWin) (r : RegFile × Nat) : NatWin :=
  let keep := w.lost.filter (fun l => !(l.1 == r.1 && l.2.1 == r.2))
  let lost := from'.lost.filter (fun l => l.1 == r.1 && l.2.1 == r.2) ++ keep
  match r.1 with
  | .vec => { w with v := SMap.put (List.replicate 32 (0 : BitVec 32)) w.v r.2 (from'.vec r.2), lost := lost }
  | .scalar => { w with s := SMap.put 0 w.s r.2 (from'.scalar r.2), lost := lost }
  | .pred => { w with q := SMap.put 0 w.q r.2 (SMap.get 0 from'.q r.2), lost := lost }
/-- A result held outstanding (R257): the register's new contents, whole. -/
def NatWin.pendReg (from' : NatWin) (r : RegFile × Nat) : Pend :=
  let lost := (from'.lost.find? fun l => l.1 == r.1 && l.2.1 == r.2).map (·.2.2)
  match r.1 with
  | .vec => ⟨.vec, r.2, from'.vec r.2, 0xFFFFFFFF, lost⟩
  | .scalar => ⟨.scalar, r.2, [(from'.scalar r.2).setWidth 32, (from'.scalar r.2).extractLsb' 32 32], 0xFFFFFFFF, lost⟩
  | .pred => ⟨.pred, r.2, [SMap.get 0 from'.q r.2], 0xFFFFFFFF, lost⟩

/-- The state an op leaves; an op that ends no course answers a next state. -/
def outState (s : State) : Out → State
  | .next t => t
  | _ => s
/-- Runs the plain ops of a bundle: every source is read from w0, and each result goes to its register, or waits outstanding (R255, R257). The results a spill has waited for are written (R261). -/
def runOps (gid : GId) (w0 : NatWin) : List NOp → NatWin → State → State
  | [], w, s => match s.group gid with | some g => s.setGroup gid { g with nat := w } | none => s
  | o :: os, w, s =>
    match s.group gid with
    | none => s
    | some g =>
      let s1 := outState s (o.run (s.setGroup gid { g with nat := { w0 with spill := w.spill, poison := w.poison } }))
      match s1.group gid with
      | none => s1
      | some g1 =>
        let landed := w0.pend.filter fun p => !g1.nat.pend.contains p
        let w1 := landed.foldl NatWin.land { w with spill := g1.nat.spill, poison := g1.nat.poison, pend := w.pend.filter fun p => !landed.contains p }
        runOps gid w0 os (if o.late then { w1 with pend := w1.pend ++ o.dsts.map g1.nat.pendReg } else o.dsts.foldl (fun w r => w.takeReg g1.nat r) w1) s1

/-- The point a fault at a bundle returns to (R240, R283), and the one a wait parks at: its own WAIT point, or for the ops of slot B and `hod.bind` the FAULT point (R279). -/
def XBody.faultPoint (x : XBody) (b : Nat) : Option PointRec := lastFault x.points b none
def XBody.waitPoint (x : XBody) (b : Nat) : Option PointRec :=
  match x.pointAt b with
  | some p => if p.kind.testBit 5 then some p else x.faultPoint b
  | none => x.faultPoint b

/-- The status of a group after an op was tried. -/
def State.statusOf (s : State) (gid : GId) : GStatus := match s.group gid with | some g => g.status | none => .out
/-- Whether a tried op does not take effect: it faults, or waits (R255, R279). -/
def NOp.stuck (t : State) (gid : GId) (k : NKind) : Bool :=
  match k, t.statusOf gid with
  | .plain, st => st != .ready
  | _, .stopping => true
  | _, .xlat => true
  | .exit, .wait => true
  | .leave, .wait => (match t.group gid with | some g => g.inHandler | none => false)
  | _, _ => false
/-- The first op of a bundle that does not take effect, tried on the state before it: the state that its fault or wait leaves. -/
def blocker (s : State) (gid : GId) (g : Group) : List NOp → Option State
  | [] => none
  | o :: os =>
    let t := match o.kind with
      | .plain => outState s (o.run s)
      | .leave => outState s (o.run s)
      | k => s.natControl gid g g.nat k
    if NOp.stuck t gid o.kind then some t else blocker s gid g os

/-- The value that DATA_LOSS names (R408): the first lost operand of the instruction at the point, with its line. -/
def State.lostValue (s : State) (gid : GId) (g : Group) (x : XBody) (p : PointRec) : Option (Nat × Nat) :=
  let s0 := (g.nat.scalar 0).toNat
  let vals := (x.locsOf p).map (readLoc g s0 (s0 + x.vframe))
  match (withBefore (items (s.wordsOf gid g g.frame.func)) []).find? fun q => q.1.word == p.word with
  | none => none
  | some q => (usesOf q.2 q.1.instr).findSome? fun v => match vals.find? fun r => r.1 == v with
    | some r => r.2.lost.map fun line => (v, line)
    | none => none

/-- Sets a group back to the point of the instruction that faulted or waits (R240, R279, R283); g: the group before its bundle. -/
def State.rewind (s : State) (gid : GId) (g : Group) (x : XBody) : State :=
  match s.group gid with
  | none => s
  | some gt =>
    let b := g.nat.bundle
    match if gt.status == .wait then x.waitPoint b else x.faultPoint b with
    | none => s
    | some p =>
      let trap := gt.trap.map fun t => if t.code = Code.dataLoss then (match s.lostValue gid g x p with
        | some l => { t with d0 := BitVec.ofNat 64 l.2, d1 := BitVec.ofNat 32 l.1 }
        | none => t) else t
      s.setGroup gid { gt.setFrame { gt.frame with word := p.word, block := p.block } with trap := trap, nat := { gt.nat with bundle := p.bundle, met := false } }

/-- The group parks at a bundle with W until no result is outstanding (R259). -/
def Group.atMark (g : Group) (w : Bool) : Group := if w && g.status == .ready && !g.nat.pend.isEmpty then { g with status := .wmark } else g
/-- The position after a bundle without a control op: the next bundle, or past a resume entry's last the main entry's NEXTB (R275). -/
def State.natAfter (s : State) (gid : GId) (g : Group) (x : XBody) : Group :=
  let b := g.nat.bundle + 1
  let w := { g.nat with bundle := b, met := false }
  s.natSync gid { g with nat :=
    if g.nat.resume != noResume && decide (x.bundles.length ≤ b)
    then { w with bundle := x.nextB, resume := noResume, retried := false, entry := (s.entryId (s.keyOf gid g g.frame.func noResume)).getD g.nat.entry } else w }

/-- Issues the bundle a group stands at: no op takes effect where one faults or waits (R255, R279). An E inside a chain ends a course and not the issue (R239). -/
def State.runBundle (s : State) (gid : GId) (g : Group) (x : XBody) (nb : NBundle) : State :=
  let b := g.nat.bundle
  let g0 := match x.faultPoint b with | some p => g.setFrame { g.frame with word := p.word } | none => g
  let s0 := s.setGroup gid g0
  match blocker s0 gid g0 nb.ops with
  | some t => t.rewind gid g x
  | none =>
    let s1 := runOps gid g.nat (nb.ops.filter fun o => o.kind == .plain) g.nat s0
    match s1.group gid with
    | none => s1
    | some ga =>
      let g1 := ga.setFrame g.frame
      let mark (t : State) : State := match t.group gid with | some h => t.setGroup gid (h.atMark nb.w) | none => t
      match nb.ops.find? fun o => o.kind != .plain with
      | some c => if c.kind == .leave then outState s1 (c.run s1) else mark (s1.natControl gid g1 g.nat c.kind)
      | none =>
        let g2 := s1.natAfter gid g1 x
        let s2 := s1.setGroup gid g2
        if nb.e then
          if (x.pointAt (b + 1)).isNone && decide (b + 1 < x.bundles.length) && !nb.ops.any NOp.ctl then
            let s3 := s2.retireCourse gid
            (match s3.group gid with | some h => s3.setGroup gid { h with begun := true } | none => s3)
          else (mark s2).endCourse gid
        else if nb.w then { (mark s2).issueDone gid with cur := none }
        else s2

/-- The EFF of a group's key. -/
def State.effOf (s : State) (gid : GId) : Nat := let t := s.team gid.tid; (s.launch t.lid).eff gid.g t.sock
/-- Whether a group's function is a supervisor function, whose entry may hold the system ops (R74, R281). -/
def State.supFunc (s : State) (gid : GId) (g : Group) : Bool :=
  match s.func (s.modOf gid g) g.frame.func with | some f => f.kind == 2 | none => false

/-- The control op in which the instruction that begins at bundle b ends, and its distance: no point of another instruction lies between. -/
def ahead (eff : Nat) (sup : Bool) (x : XBody) : Nat → Nat → Nat → Option (NKind × Nat)
  | 0, _, _ => none
  | fuel + 1, d, b =>
    if 0 < d && (x.pointAt b).isSome then none
    else match x.bundles[b]? with
      | none => none
      | some w => match decodeBundle eff sup w with
        | .error _ => none
        | .ok nb => match nb.ops.find? fun o => o.kind != .plain with
          | some o => some (o.kind, d)
          | none => ahead eff sup x fuel (d + 1) (b + 1)
/-- Runs n bundles, or until one does not take effect. -/
def State.tryBundles (gid : GId) (eff : Nat) (sup : Bool) (x : XBody) : Nat → State → State
  | 0, s => s
  | n + 1, s => match s.group gid with
    | none => s
    | some g => match (x.bundles[g.nat.bundle]?).map (decodeBundle eff sup) with
      | some (.ok nb) =>
        let t := s.runBundle gid g x nb
        if t.statusOf gid == .ready then State.tryBundles gid eff sup x n t else t
      | _ => s
/-- The first bundle of a branch or call: what can stop it is found before any of its moves takes effect, so that the point it returns to is exact (R239, R241). -/
def State.preview (s : State) (gid : GId) (g : Group) (x : XBody) (eff : Nat) (sup : Bool) : Except State State :=
  match x.pointAt g.nat.bundle with
  | none => .ok s
  | some p =>
    if !p.isFault then .ok s
    else
      let g0 := g.setFrame { g.frame with word := p.word, block := p.block }
      match ahead eff sup x 96 0 g.nat.bundle with
      | some (.call f, _ + 1) => s.callCheck gid g0 f
      | some (.cbr _ _ _ _, n + 1) =>
        (match (State.tryBundles gid eff sup x (n + 2) s).group gid with
         | some h => (match h.status, h.trap with
           | .stopping, some t => .error (s.stopGroup gid g0 t)
           | _, _ => .ok s)
         | none => .ok s)
      | _ => .ok s

/-- The quad of a group (R292). -/
def quadOf (g : Nat) : Nat := g / 4
/-- A member arrives at a run (R293): it joins the meeting of its key, or opens one behind the open ones. -/
def State.arriveMeeting (s : State) (gid : GId) (g : Group) (word : Nat) : State :=
  let t := s.team gid.tid
  let c := s.core t.sock t.core
  let is (m : Meeting) : Bool := m.tid == gid.tid && m.quad == quadOf gid.g && m.entry == g.nat.entry && m.word == word
  let ms := if c.meetings.any is then c.meetings.map (fun m => if is m then { m with arrived := m.arrived ++ [gid.g] } else m)
    else c.meetings ++ [⟨gid.tid, quadOf gid.g, g.nat.entry, word, [gid.g], []⟩]
  { ((s.setCore t.sock t.core { c with meetings := ms }).setGroup gid { g with status := .lock }).issueDone gid with cur := none }

/-- Whether a bundle is a switch's table, which no course reaches (R271, R285). -/
def XBody.isTable (x : XBody) (eff : Nat) (sup : Bool) (b : Nat) : Bool :=
  decide ((x.bundles.getD b 0).toNat < 2 ^ 120) && (List.range 171).any fun k => decide (k < b) && match (x.bundles[b - 1 - k]?).map (decodeBundle eff sup) with
    | some (.ok nb) => nb.ops.any fun o => (match o.kind with | .switch _ _ _ _ n => decide (k < (n + 5) / 6) | _ => false)
    | _ => false
/-- The undefined bundle and slot of the course a group is about to begin (R284, R285). -/
def State.badCourse (s : State) (gid : GId) (g : Group) : Option (Nat × Nat) :=
  let x := s.curBody gid g
  let b := g.nat.bundle
  let eff := s.effOf gid
  let sup := s.supFunc gid g
  if !x.courseAt b then none
  else if x.isTable eff sup b then some (b, 3)
  else courseBad eff sup x (s.xbody gid g g.frame.func noResume) 96 23 b
/-- An undefined course does not begin (R286): its entry is discarded and translated again, once; then NATIVE_UNDEF at the course's WORD. -/
def State.refuseCourse (s : State) (gid : GId) (g : Group) (bad : Nat × Nat) : State :=
  let g1 := s.natSync gid g
  if g.nat.retried then s.raise gid g1 Code.nativeUndef noLane (BitVec.ofNat 64 bad.1) (BitVec.ofNat 32 bad.2)
  else
    let t := s.team gid.tid
    (s.discardEntry (classOf t.sock) g.nat.entry t.sock (bayOf t.core)).waitFetch gid { g1 with nat := { g.nat with retried := true } }

/-- Issues the bundle at which the running group stands on the native level (R252-R262, R284, R286); its entry may have been discarded (R225). -/
def State.issueNative (s : State) (gid : GId) (g : Group) : State :=
  let x := s.curBody gid g
  let b := g.nat.bundle
  let eff := s.effOf gid
  let sup := s.supFunc gid g
  if !((s.cache (classOf (s.team gid.tid).sock)).entries.any fun e => e.id == g.nat.entry) then s.waitFetch gid g
  else match s.badCourse gid g with
  | some bad => s.refuseCourse gid g bad
  | none =>
    match (x.bundles[b]?).map (decodeBundle eff sup) with
    | none => s.raise gid g Code.nativeUndef noLane (BitVec.ofNat 64 b) 3
    | some (.error k) => s.raise gid g Code.nativeUndef noLane (BitVec.ofNat 64 b) (BitVec.ofNat 32 k)
    | some (.ok nb) =>
      if nb.sync && !g.nat.met then s.arriveMeeting gid g (match x.waitPoint b with | some p => p.word | none => 0)
      else match s.preview gid g x eff sup with
        | .error t => t
        | .ok s1 => s1.runBundle gid ((s1.group gid).getD g) x nb

/-- BUNDLE_ISSUE: the next bundle of the group that issues; a group on the Flinal level goes on the native level at its point first, where its entries hold one (R247). -/
def execBundleIssue (gid : GId) (s : State) : Out :=
  .next (if s.cur != some gid then s
    else match s.group gid with
    | none => s
    | some g =>
      if g.nat.on then s.issueNative gid g
      else match s.toNative gid g with
        | some g1 => ({ s.setGroup gid g1 with fresh := s.fresh + 32 }).issueNative gid g1
        | none => s)

/-- RESULT_WRITEBACK (R257, R259): the oldest outstanding result of a group is written; a group parked at a W bundle goes on once none is left. -/
def execResultWriteback (gid : GId) (s : State) : Out :=
  .next (match s.group gid with
    | none => s
    | some g => match g.nat.pend with
      | [] => s
      | p :: ps =>
        let w := { g.nat.land p with pend := ps }
        s.setGroup gid { g with nat := w, status := if g.status == .wmark && ps.isEmpty then .ready else g.status })

-- lock-step meetings (R292-R295) ---------------------------------------------

/-- Whether a member of a quad is settled for a meeting (R293); one that keeps its cluster is in an issue. -/
def State.settledFor (s : State) (m : Meeting) (i : Nat) : Bool :=
  match s.group ⟨m.tid, i⟩ with
  | none => true
  | some g => m.arrived.contains i || m.issued.contains i || !(g.status == .ready || g.status == .lock || g.status == .stall)
/-- Members of a meeting in ascending cluster order. -/
def Meeting.members (m : Meeting) : List Nat := sortBy (fun a b => decide (a ≤ b)) m.arrived
/-- Whether a quad's open meeting has met: every member is settled. -/
def State.meetingMet (s : State) (m : Meeting) : Bool := (List.range 4).all fun k => s.settledFor m (4 * m.quad + k)
/-- The open meeting of a quad: the first. -/
def Core.openMeeting (c : Core) (tid quad : Nat) : Option Meeting := c.meetings.find? fun m => m.tid == tid && m.quad == quad
/-- Whether a cluster issues no new course since a meeting with a participant on it has met (R294). -/
def State.meetingHolds (s : State) (sock core cluster : Nat) : Bool :=
  let c := s.core sock core
  c.meetings.any fun m => c.openMeeting m.tid m.quad == some m && s.meetingMet m && m.arrived.any fun i => i % 4 == cluster
/-- Whether a participant's cluster is in another group's issue. -/
def State.clusterBusy (s : State) (m : Meeting) : Bool :=
  let t := s.team m.tid
  let busy (x : GId) : Bool := (s.team x.tid).sock == t.sock && (s.team x.tid).core == t.core && m.arrived.any fun i => i % 4 == x.g % 4
  (match s.cur with | some x => busy x | none => false)
  || s.teams.any fun p => (List.range p.2.groups.length).any fun i => s.statusOf ⟨p.1, i⟩ == .stall && busy ⟨p.1, i⟩

/-- A participant that has run the bundle keeps its cluster, and goes on with its issue (R288). -/
def State.keepCluster (s : State) (gid : GId) : State :=
  match s.group gid with
  | some g => if g.status == .ready then s.setGroup gid { g with status := .stall } else s
  | none => s
/-- Runs the participants' bundle in cluster order: .error where one faults, with the state in which it alone has stopped. -/
def runMembers (s0 : State) (tid : Nat) : List Nat → State → Except State State
  | [], s => .ok s
  | i :: is, s =>
    let gid : GId := ⟨tid, i⟩
    let one (s : State) : State := match s.group gid with
      | none => s
      | some g =>
        let g1 := { g with status := .ready, nat := { g.nat with met := true } }
        ({ s.setGroup gid g1 with cur := some gid }).issueNative gid g1
    let t := one s
    if t.statusOf gid == .stopping then .error (one s0) else runMembers s0 tid is (t.keepCluster gid)

/-- A participant set back to the FAULT point of the run's instruction (R295). -/
def State.backToFault (s : State) (gid : GId) : State :=
  match s.group gid with
  | none => s
  | some g =>
    if g.status == .stopping then s
    else match (s.curBody gid g).faultPoint g.nat.bundle with
      | some p => s.setGroup gid { g.setFrame { g.frame with word := p.word, block := p.block } with status := .ready, nat := { g.nat with bundle := p.bundle, met := false } }
      | none => s.setGroup gid { g with status := .ready }

/-- A lock-step issue takes the place of choose (R289): it takes a credit where the member has one, and moves the pointer. place: the member's place in its cluster's rotation. -/
def State.lockCredit (s : State) (place : GId → Nat) (gid : GId) : State :=
  let t := s.team gid.tid
  let c := s.core t.sock t.core
  let s1 := s.setCore t.sock t.core { c with ptrs := (gid.g % 4, place gid) :: c.ptrs.filter fun q => q.1 != gid.g % 4 }
  match s1.group gid with
  | some g => s1.setGroup gid { g with arb := g.arb - 1 }
  | none => s1
/-- A group's place in a rotation: bank, row and group index. -/
def State.placeOf (s : State) (gid : GId) : Nat := let t := s.team gid.tid; (t.bank * 64 + t.row) * 16 + gid.g

/-- Bundles of the run that a member stands at (R292). -/
def lockLen (eff : Nat) (sup : Bool) (x : XBody) : Nat → Nat → Nat
  | 0, _ => 0
  | n + 1, b => match (x.bundles[b]?).map (decodeBundle eff sup) with
    | some (.ok nb) => if nb.sync then 1 + lockLen eff sup x n (b + 1) else 0
    | _ => 0
def State.lockLenOf (s : State) (gid : GId) : Nat :=
  match s.group gid with
  | some g => lockLen (s.effOf gid) (s.supFunc gid g) (s.curBody gid g) 24 g.nat.bundle
  | none => 0

/-- LOCKSTEP_MEETING (R293-R295): when every member of the quad is settled and the participants' clusters are free, those that arrived run the bundle together; a fault of one leaves it without effect on all. -/
def execLockstepMeeting (tid quad : Nat) (s : State) : Out :=
  let t := s.team tid
  let c := s.core t.sock t.core
  .next (match c.openMeeting tid quad with
    | none => s
    | some m =>
      if !s.meetingMet m || s.clusterBusy m then s
      else
        let ids : List GId := m.members.map fun i => ⟨tid, i⟩
        let s1 := s.setCore t.sock t.core { c with meetings := c.meetings.erase m }
        let lens := ids.map s.lockLenOf
        if lens.any fun n => n != lens.headD 0 then
          ids.foldl (fun s i => match s.group i with
            | some g => s.fail i (s.natSync i g) Code.lockstepMismatch
            | none => s) s1
        else
          let free := ids.foldl (fun s i => match s.group i with
            | some g => (s.setGroup i { g with status := .ready }).lockCredit s.placeOf i
            | none => s) s1
          match runMembers free tid m.members free with
          | .ok r => { r with cur := s.cur }
          | .error r => { ids.foldl State.backToFault r with cur := s.cur })

end Sys2Proof.Machine
end

