-- ==== Sys2Proof/Machine/Issue.lean ====
section
/-! DEFINITION. Issue (R287-R291): the arbiter of a slot cluster, the end of a course, the numeric window (R68, R69). -/

namespace Sys2Proof.Machine

/-- The rotation of a cluster (R289): its resident groups in ascending order of bank, row and group index. A saved team's groups are there until their `tret` (R423). -/
def State.rotation (s : State) (sock core cluster : Nat) : List GId :=
  let ts := s.teams.filter fun p => p.2.sock == sock && p.2.core == core && p.2.state != .done && p.2.state != .loading
  let keyed := ts.flatMap fun p => ((List.range p.2.groups.length).filter fun i => i % 4 == cluster
      && (match p.2.groups[i]? with | some g => g.status != .out && (p.2.state == .resident || g.inHandler) | none => false)).map fun i =>
    (s.placeOf ⟨p.1, i⟩, (⟨p.1, i⟩ : GId))
  (sortBy (fun a b => decide (a.1 ≤ b.1)) keyed).map (·.2)

/-- Whether a group that is to stop at its next point still has to be kept from issuing (R394, R416). -/
def State.stopsFirst (s : State) (gid : GId) (g : Group) : Bool := g.preStop && !g.inHandler && g.waits.reelRes.isNone && (s.canStop gid g || s.alighting gid)
/-- Readiness (R287). -/
def State.isReady (s : State) (gid : GId) : Bool :=
  match s.group gid with
  | none => false
  | some g => g.status == .ready && !s.stopsFirst gid g && (!g.nat.on || (s.badCourse gid g).isNone)

def State.credit (s : State) (gid : GId) : Nat := match s.group gid with | some g => g.arb | none => 0
def State.setCredit (s : State) (gid : GId) (n : Nat) : State := match s.group gid with | some g => s.setGroup gid { g with arb := n } | none => s

/-- The rotation after the pointer, which does not move when a group leaves (R289). -/
def State.turn (s : State) (p : Option Nat) (l : List GId) : List GId :=
  match p with
  | none => l
  | some k => l.filter (fun y => decide (k < s.placeOf y)) ++ l.filter fun y => decide (s.placeOf y ≤ k)

/-- choose of R289: the group, and the state with its credit and the pointer moved. -/
def State.choose (s : State) (sock core cluster : Nat) : Option (GId × State) :=
  let l := s.rotation sock core cluster
  let c := s.core sock core
  let p := (c.ptrs.find? fun q => q.1 == cluster).map (·.2)
  let order := s.turn p l
  let take (s : State) (x : GId) : GId × State :=
    let s1 := s.setCredit x (s.credit x - 1)
    let c := s1.core sock core
    (x, s1.setCore sock core { c with ptrs := (cluster, s1.placeOf x) :: c.ptrs.filter fun q => q.1 != cluster })
  match order.find? fun x => s.isReady x && decide (0 < s.credit x) with
  | some x => some (take s x)
  | none => match order.find? fun x => s.isReady x with
    | none => none
    | some x => some (take (l.foldl (fun s y => s.setCredit y (s.weight y)) s) x)

/-- Groups of a cluster that are to stop and can. -/
def State.stopPending (s : State) (sock core cluster : Nat) : State :=
  (s.rotation sock core cluster).foldl (fun s x => match s.group x with
    | some g => if g.preStop && s.canStop x g then s.stopAt x else s
    | none => s) s

/-- The courses that a cluster's ready groups stand at are decoded before they are chosen (R284, R287): an undefined one does not begin. -/
def State.decodeNext (s : State) (sock core cluster : Nat) : State :=
  (s.rotation sock core cluster).foldl (fun s x => match s.group x with
    | some g => if g.status == .ready && g.nat.on && !s.stopsFirst x g then (match s.badCourse x g with | some bad => s.refuseCourse x g bad | none => s) else s
    | none => s) s

/-- A chosen group begins its course, or resumes it; a NUM_THRESHOLD is taken before a course begins (R69). -/
def State.issueTo (s : State) (gid : GId) : State :=
  match s.group gid with
  | none => s
  | some g =>
    match g.numTrap with
    | n :: ns =>
      if g.begun || g.inHandler then { s.setGroup gid { g with begun := true } with cur := some gid }
      else s.raisePoint gid { g with numTrap := ns } Code.numThreshold noLane (BitVec.ofNat 64 n) 0
    | [] => { s.setGroup gid { g with begun := true } with cur := some gid }

/-- COURSE_ISSUE (R287-R289): the cluster's next issue, when no group of the model issues. A group stalled in `reel.alight` keeps its cluster and goes on (R384). -/
def execCourseIssue (sock core cluster : Nat) (s : State) : Out :=
  .next (if s.cur.isSome then s
    else
      let s1 := (s.stopPending sock core cluster).decodeNext sock core cluster
      match (s1.rotation sock core cluster).find? fun x => match s1.group x with | some g => g.status == .stall | none => false with
      | some x => (match s1.group x with
        | some g => { s1.setGroup x { g with status := .ready } with cur := some x }
        | none => s1)
      | none => if s1.meetingHolds sock core cluster then s1 else match s1.choose sock core cluster with
        | none => s1
        | some (x, s2) => s2.issueTo x)

/-- COURSE_END (R68, R260): the course retires; a group that is to stop does so at its next point. -/
def execCourseEnd (gid : GId) (s : State) : Out :=
  let s1 := (s.issueDone gid).retireCourse gid
  .next (if (s.team gid.tid).state == .done then s
    else match s1.group gid with
    | some g => if g.preStop && g.status != .out then s1.stopAt gid else s1
    | none => s1)

/-- NUM_WINDOW_CLOSE (R68): the counts and the window's course count are zeroed, HIT is not (R69). -/
def execNumWindowClose (sock core bank : Nat) (s : State) : Out :=
  let c := s.core sock core
  let b := c.bank bank
  .next (if b.window = 0 || decide (b.retired.toNat < b.window.toNat) then s
    else s.setCore sock core (c.setBank bank { b with counts := [], retired := 0 }))

end Sys2Proof.Machine
end

