-- ==== Sys2Proof/Machine/Regs.lean ====
section
/-! DEFINITION. The management registers that have no row of their own (R9): what a write does, and what a read of each returns. RO fields and reserved bits ignore writes; reserved bits read zero. A register of an absent die ignores writes and reads zero (log 28). -/

namespace Sys2Proof.Machine

/-- Bits of a write that a register keeps. -/
def keep32 (v : W64) (m : W32) : W32 := v.setWidth 32 &&& m

/-- The compute die that holds a register, if one does. -/
def regDie : Reg → Option Nat
  | .spnEvt k _ _ | .spnXlkey k _ | .pwrSlope k | .pwrStatus k | .pwrFll k _ | .pwrSag k _ => some k
  | .numWindow k _ _ | .numLimit k _ _ _ | .numCount k _ _ _ | .numStatus k _ _ => some k
  | .ctxTrapbase k _ | .ctxTraperr k _ | .hodInflight k _ | .mxeCadence k _ => some k
  | _ => .none
/-- Whether a register answers: one of no compute die does, and one of a die that is not absent (R2, R456). -/
def State.regThere (s : State) (r : Reg) : Bool := match regDie r with | some k => s.inS k | .none => true

/-- Writes a core's bank. -/
def State.setBankOf (s : State) (sock core bank : Nat) (f : Bank → Bank) : State :=
  let c := s.core sock core
  s.setCore sock core (c.setBank bank (f (c.bank bank)))
/-- Writes the registers of the job that DSP_JOBSEL selects (R316, R409). -/
def State.setSel (s : State) (f : JobRegs → JobRegs) : State := let j := s.dsp.jobsel.toNat; s.setJob j (f (s.job j))

/-- What a write of a register does (R9), by the register's own field table. -/
def State.writeReg (s : State) (r : Reg) (v : W64) : State :=
  let v32 : W32 := v.setWidth 32
  match r with
  | .plnMode | .plnBootunit | .plnCapbase | .dspQhead _ | .dspHeadroom _ | .spnCache _ | .hodInflight _ _ | .mxeCadence _ _ | .pwrFll _ _ | .pwrEnergyWrap _
  | .migQhead _ | .reelStatus | .plnDoffstat | .plnDiestat | .thmCoolant => s
  | .dspQcfg n => s.qcfgWrite n.toNat v32
  | .dspQbase n => let q := s.queue n.toNat; s.setQueue n.toNat { q with base := v &&& 0x000FFFFFFFFFFC00 }
  | .dspQstat n => let q := s.queue n.toNat; s.setQueue n.toNat { q with stat := q.stat &&& ~~~(v.setWidth 6 &&& 0x3E) }
  | .dspSteer => { s with dsp := { s.dsp with steer := keep32 v 0x800000FF } }
  | .dspJobsel => { s with dsp := { s.dsp with jobsel := v.setWidth 12 } }
  | .dspJobroot => s.setSel fun j => { j with root := v &&& 0x800FFFFFFFFFE000 }
  | .ctxHmod => s.setSel fun j => { j with hmod := v }
  | .ctxHfunc => s.setSel fun j => { j with hfunc := keep32 v 0x8000FFFF }
  | .ctxRoute => s.setSel fun j => { j with route := v.setWidth 8 }
  | .dspVfyctl n =>
    let q := s.queue n.toNat
    s.setQueue n.toNat { q with vfyctl := keep32 v (if v.toNat % 65536 = 0 then 0x0000FFFF else 0x8000FFFF) }
  | .dspVfyreg n => let q := s.queue n.toNat; s.setQueue n.toNat { q with vfyreg := v &&& 0x000FFFFFFFFF0000 }
  | .dspVfyout n => let q := s.queue n.toNat; s.setQueue n.toNat { q with vfyout := v &&& 0x000FFFFFFFFFFFC0 }
  | .spnEvt k b n => let y := s.bay k b; s.setBay k b { y with evts := SMap.put 0 y.evts n.toNat v32 }
  | .spnXlkey k n => let d := s.die k; s.setDie k { d with xlkey := SMap.put 0 d.xlkey n.toNat v32 }
  | .numWindow k c b => s.setBankOf k c b fun x => { x with window := v32 }
  | .numLimit k c b n => s.setBankOf k c b fun x => { x with limits := SMap.put 0 x.limits n.toNat v32 }
  | .numCount k c b n => s.setBankOf k c b fun x => { x with counts := SMap.put 0 x.counts n.toNat v32 }
  | .numStatus k c b => s.setBankOf k c b fun x => { x with hit := x.hit &&& ~~~(v.setWidth 8) }
  | .ctxTrapbase k c => s.setCore k c { s.core k c with trapbase := v &&& 0x000FFFFFFFFFF000 }
  | .ctxTraperr k c => if v.getLsbD 31 then s.setCore k c { s.core k c with traperr := 0 } else s
  | .pwrSlope k => s.setDie k { s.die k with slope := keep32 v 0x0000FFFF }
  | .pwrStatus k => if v.getLsbD 0 then s.setDie k { s.die k with yielded := false } else s
  | .pwrSag k b => s.setBay k b { s.bay k b with sag := keep32 v 0xFFFF03FF }
  | .plnShootva => { s with pln := { s.pln with shootva := v &&& 0x000FFFFFFFFF0000 } }
  | .plnCong => { s with pln := { s.pln with wmax := (v >>> 16).setWidth 9, thresh := v.setWidth 8 } }
  | .plnLinkpm => { s with pln := { s.pln with pmEn := v.getLsbD 31, pmLow := (v >>> 16).setWidth 8, pmWin := (v >>> 8).setWidth 8 } }
  | .migQcfg x => s.migCfg x v32
  | .migQbase x => if (s.ring x).en then s else s.setRing x { s.ring x with base := v &&& 0x000FFFFFFFFFFFE0 }
  | .plnDoffctl => s.doffctl v32
  | .plnDoffarea => { s with doff := { s.doff with area := v &&& 0x000FFFFFFFFFF000 } }
  | .plnDierst => s.dierst v32
  | .thmSel => { s with thm := { s.thm with forceAir := v.getLsbD 31 } }

/-- REGISTER_WRITE (R9). -/
def execRegisterWrite (r : Reg) (v : W64) (s : State) : Out := .next (if s.regThere r then s.writeReg r v else s)

/-- Packs fields from the high one down: (value, lowest bit). -/
def pack (fs : List (Nat × Nat)) : W64 := BitVec.ofNat 64 ((fs.map fun f => f.1 * 2 ^ f.2).foldl (· + ·) 0)
def bitOf (b : Bool) : Nat := if b then 1 else 0

/-- PWR_STATUS (R298). -/
def Die.pwrStatus (d : Die) : W64 := pack [(Nat.min d.rows.toNat 65535, 16), (bitOf d.dieHold, 2), (bitOf d.ovr, 1), (bitOf d.yielded, 0)]
/-- MXE_CADENCE (R296). -/
def State.cadence (s : State) (k c : Nat) : W64 := let x := s.core k c; pack [(bitOf (s.die k).dieHold, 17), (bitOf x.ballast, 16), (x.gap.toNat, 0)]

/-- PLN_LINKPM WIDTH (R329) where its one field stands for every die's link: the narrowest width any of them has (DESIGN CHOICE, log 37). -/
def State.linkWidth (s : State) : Nat := (List.range 6).foldl (fun m k => Nat.max m (s.die k).width.toNat) 0

/-- What a read of a register returns (R9): a requester's held shadow where the register has one (R469). -/
def State.regValue (s : State) (q : Requester) (r : Reg) : W64 :=
  let d := s.doff
  let j := s.job s.dsp.jobsel.toNat
  match r with
  | .plnMode => s.boot.mode.setWidth 64
  | .plnBootunit => pack [(s.boot.ukind.toNat, 6), (s.boot.unit.toNat, 0)]
  | .plnCapbase => s.boot.capbase.setWidth 64
  | .dspQcfg n => let x := s.queue n.toNat; pack [(bitOf x.en, 31), (x.log2n.toNat, 24), (x.pceil.toNat, 16), (x.part.toNat, 12), (x.job.toNat, 0)]
  | .dspQbase n => (s.queue n.toNat).base
  | .dspQhead n => (s.queue n.toNat).head.setWidth 64
  | .dspQstat n => (s.queue n.toNat).stat.setWidth 64
  | .dspHeadroom n => (SMap.get 0 s.dsp.heads n.toNat).setWidth 64
  | .dspSteer => s.dsp.steer.setWidth 64
  | .dspJobsel => s.dsp.jobsel.setWidth 64
  | .dspJobroot => j.root
  | .ctxHmod => j.hmod
  | .ctxHfunc => j.hfunc.setWidth 64
  | .ctxRoute => j.route.setWidth 64
  | .dspVfyctl n => (s.queue n.toNat).vfyctl.setWidth 64
  | .dspVfyreg n => (s.queue n.toNat).vfyreg
  | .dspVfyout n => (s.queue n.toNat).vfyout
  | .spnEvt k b n => (SMap.get 0 (s.bay k b).evts n.toNat).setWidth 64
  | .spnCache n => s.spnCache n.toNat
  | .spnXlkey k n => (SMap.get 0 (s.die k).xlkey n.toNat).setWidth 64
  | .numWindow k c b => ((s.core k c).bank b).window.setWidth 64
  | .numLimit k c b n => (SMap.get 0 ((s.core k c).bank b).limits n.toNat).setWidth 64
  | .numCount k c b n => (SMap.get 0 ((s.core k c).bank b).counts n.toNat).setWidth 64
  | .numStatus k c b => ((s.core k c).bank b).hit.setWidth 64
  | .ctxTrapbase k c => (s.core k c).trapbase
  | .ctxTraperr k c => (s.core k c).traperr.setWidth 64
  | .hodInflight k c => BitVec.ofNat 64 (s.inflight k c)
  | .mxeCadence k c => s.cadence k c
  | .pwrSlope k => (s.die k).slope.setWidth 64
  | .pwrStatus k => (s.die k).pwrStatus
  | .pwrFll k b => (s.bay k b).fll.setWidth 64
  | .pwrSag k b => (s.bay k b).sag.setWidth 64
  | .pwrEnergyWrap k => (match s.eshadow q k with | some x => x.wraps | none => (s.energyOf k).wraps).setWidth 64
  | .plnShootva => s.pln.shootva
  | .plnCong => pack [(s.pln.wmax.toNat, 16), (s.pln.thresh.toNat, 0)]
  | .plnLinkpm => pack [(bitOf s.pln.pmEn, 31), (s.pln.pmLow.toNat, 16), (s.pln.pmWin.toNat, 8), (s.linkWidth, 0)]
  | .migQcfg x => let r := s.ring x; pack [(bitOf r.en, 31), (bitOf r.bad, 4), (r.log2n.toNat, 0)]
  | .migQbase x => (s.ring x).base
  | .migQhead x => (s.ring x).head.setWidth 64
  | .reelStatus => pack [(s.reel.byp.toNat, 16), (s.reel.empty.toNat, 0)]
  | .plnDoffctl => pack [(bitOf d.busy, 31), (d.ctl.toNat, 0)]
  | .plnDoffarea => d.area
  | .plnDoffstat => pack [(bitOf d.busy, 31), (d.phase.toNat, 28), (d.status.toNat, 16), (d.code.toNat, 0)]
  | .plnDierst => pack [(bitOf s.rst.go, 31), (bitOf s.rst.kind, 30), (s.rst.sock.toNat, 0)]
  | .plnDiestat => pack [(s.rst.phase.toNat, 28), (s.rst.dsock.toNat, 24), (s.rst.status.toNat, 16), (s.rst.cause.toNat, 8), (s.rst.count.toNat, 0)]
  | .thmCoolant => pack [(s.thm.kind.toNat, 30), (s.thm.inlet.toNat, 16), (s.thm.flow.toNat, 0)]
  | .thmSel => pack [(bitOf s.thm.forceAir, 31), (s.thm.table.toNat, 8), (s.thm.row.toNat, 0)]
def State.readReg (s : State) (q : Requester) (r : Reg) : W64 := if s.regThere r then s.regValue q r else 0

-- registers whose write is a row of its own -----------------------------------

/-- A register as a read names it (R9): one of REGISTER_WRITE's, or one whose write is a row of its own. The low and high halves of R468 and R470 have read rows of their own. -/
inductive ReadReg where
  | plain (r : Reg)
  | plnBootrec | dspPartcfg | dspQtail (n : BitVec 6) | dspRestore | dspJobcntclr
  | spnXlmap (sock : Nat)
  | ctxAnswer (sock core : Nat) | ctxAlogctl (sock core bank : Nat) (k : BitVec 2) | ctxPreempt (sock core : Nat)
  | cstBankcfg (sock core : Nat) (n : BitVec 6) | cstQbind (sock core : Nat)
  | l2Split (sock : Nat) (n : BitVec 4) | l2Stagewin (sock : Nat) (n : BitVec 4)
  | plnShootctl | plnRoute (n : BitVec 4) | migQtail (x : BitVec 1)
  deriving DecidableEq, Repr

/-- The compute die of such a register. -/
def readRegDie : ReadReg → Option Nat
  | .plain r => regDie r
  | .spnXlmap k | .ctxAnswer k _ | .ctxAlogctl k _ _ _ | .ctxPreempt k _ | .cstBankcfg k _ _ | .cstQbind k _ | .l2Split k _ | .l2Stagewin k _ => some k
  | _ => none

/-- Log k of a bank: reductions, Hod failures, the Reel (R415). -/
def Bank.alog (b : Bank) (k : Nat) : ALog := match k with | 0 => b.log0 | 1 => b.log1 | 2 => b.log2 | _ => .reset
/-- A log's control register (R415). -/
def ALog.ctl (l : ALog) : W64 := pack [(l.ovr.toNat, 16), (l.entries.length, 0)]
/-- A log entry as the management window shows it (R415). -/
def LogEntry.bytes (e : LogEntry) : List Byte :=
  natLe e.addr.toNat 8 ++ natLe e.operand.toNat 8 ++ natLe e.code 2 ++ natLe e.sx 2 ++ natLe e.lane 1 ++ natLe e.group 1 ++ natLe 0 2 ++ natLe e.team 4 ++ natLe 0 4
/-- The 32-byte entries of a log; an entry it does not hold reads zero. -/
def State.alogBytes (s : State) (sock core bank k i : Nat) : List Byte :=
  match (((s.core sock core).bank bank).alog k).entries[i]? with
  | some e => e.bytes
  | none => List.replicate 32 0

/-- What a read of any register returns (R9): a write-only field reads zero. -/
def State.readAny (s : State) (q : Requester) (r : ReadReg) : W64 :=
  let there := match readRegDie r with | some k => s.inS k | none => true
  if !there then 0
  else match r with
    | .plain r => s.regValue q r
    | .plnBootrec => BitVec.ofNat 64 s.boot.bootrec
    | .dspPartcfg => pack [(bitOf (s.dsp.queues.any fun q => q.2.en), 31), (s.dsp.mode.toNat, 0)]
    | .dspQtail n => (s.queue n.toNat).tail.setWidth 64
    | .dspRestore => s.dsp.restore
    | .dspJobcntclr => 0
    | .spnXlmap k => pack [(bitOf (s.die k).xlmap.isSome, 31), (bitOf (s.xlEntry k).isSome, 30)]
    | .ctxAnswer _ _ => 0
    | .ctxAlogctl k c b i => (((s.core k c).bank b).alog i.toNat).ctl
    | .ctxPreempt k c => (s.core k c).preempt.setWidth 64
    | .cstBankcfg k c n => (s.bankCfg k c n.toNat).setWidth 64
    | .cstQbind k c => (s.core k c).qbind.setWidth 64
    | .l2Split k n => let x := (s.die k).split n.toNat; pack [(bitOf x.pend, 31), (x.want.toNat, 0)]
    | .l2Stagewin k n => ((s.die k).win n.toNat).read
    | .plnShootctl => s.pln.shootctl.setWidth 64
    | .plnRoute n => (SMap.get 0 s.pln.routes n.toNat).setWidth 64
    | .migQtail x => (s.ring x).tail.setWidth 64

end Sys2Proof.Machine
end

