-- ==== Sys2Proof/Machine/Dispatch.lean ====
section
/-! DEFINITION. The dispatch: one arm per constructor of Instr, each one direct call of its meaning, or a refusal by name. -/

namespace Sys2Proof.Machine

def exec (i : Instr) (s : State) : Host.Outcome State Fault Refusal :=
  match i with
  | .coldStart => Sys2Proof.Machine.execColdStart s
  | .bootStageEnd fails => Sys2Proof.Machine.execBootStageEnd fails s
  | .bootStageLimit f => Sys2Proof.Machine.execBootStageLimit f s
  | .standbyPowerLoss => Sys2Proof.Machine.execStandbyPowerLoss s
  | .bootrecClear v => Sys2Proof.Machine.execBootrecClear v s
  | .testModeCommand c => Sys2Proof.Machine.execTestModeCommand c s
  | .exitCommand c => Sys2Proof.Machine.execExitCommand c s
  | .testModeExit => Sys2Proof.Machine.execTestModeExit s
  | .recoveryImage digest version sig => Sys2Proof.Machine.execRecoveryImage digest version sig s
  | .attestationRequest nonce => Sys2Proof.Machine.execAttestationRequest nonce s
  | .updateRequest p w digest sig => Sys2Proof.Machine.execUpdateRequest p w digest sig s
  | .updateStart => Sys2Proof.Machine.execUpdateStart s
  | .updateCommit pass => Sys2Proof.Machine.execUpdateCommit pass s
  | .moduleRegister job image => Sys2Proof.Machine.execModuleRegister job image s
  | .moduleUnregister handle => Sys2Proof.Machine.execModuleUnregister handle s
  | .partcfgWrite v => Sys2Proof.Machine.execPartcfgWrite v s
  | .queueEnable n v => Sys2Proof.Machine.execQueueEnable n v s
  | .queueDisable n v => Sys2Proof.Machine.execQueueDisable n v s
  | .queueTailWrite n v => Sys2Proof.Machine.execQueueTailWrite n v s
  | .dispatchRound => Sys2Proof.Machine.execDispatchRound s
  | .placementPass => Sys2Proof.Machine.execPlacementPass s
  | .backfillReserve part => Sys2Proof.Machine.execBackfillReserve part s
  | .teamSetupDone tid => Sys2Proof.Machine.execTeamSetupDone tid s
  | .completionEvent tid => Sys2Proof.Machine.execCompletionEvent tid s
  | .verifyRecord queue seq => Sys2Proof.Machine.execVerifyRecord queue seq s
  | .translationDone sock bay => Sys2Proof.Machine.execTranslationDone sock bay s
  | .entryReadError cls idx => Sys2Proof.Machine.execEntryReadError cls idx s
  | .xlmapMap sock => Sys2Proof.Machine.execXlmapMap sock s
  | .xlmapUnmap sock => Sys2Proof.Machine.execXlmapUnmap sock s
  | .courseIssue sock core cluster => Sys2Proof.Machine.execCourseIssue sock core cluster s
  | .bundleIssue gid => Sys2Proof.Machine.execBundleIssue gid s
  | .resultWriteback gid => Sys2Proof.Machine.execResultWriteback gid s
  | .courseEnd gid => Sys2Proof.Machine.execCourseEnd gid s
  | .numWindowClose sock core bank => Sys2Proof.Machine.execNumWindowClose sock core bank s
  | .lockstepMeeting tid quad => Sys2Proof.Machine.execLockstepMeeting tid quad s
  | .faultDrainDone gid => Sys2Proof.Machine.execFaultDrainDone gid s
  | .handlerEntry gid => Sys2Proof.Machine.execHandlerEntry gid s
  | .ctxAnswer sock core v => Sys2Proof.Machine.execCtxAnswer sock core v s
  | .alogClear sock core bank k v => Sys2Proof.Machine.execAlogClear sock core bank k v s
  | .preemptRequest sock core v => Sys2Proof.Machine.execPreemptRequest sock core v s
  | .preemptYield sock core => Sys2Proof.Machine.execPreemptYield sock core s
  | .preemptLimit sock core => Sys2Proof.Machine.execPreemptLimit sock core s
  | .dspRestore v => Sys2Proof.Machine.execDspRestore v s
  | .sagTrip sock bay => Sys2Proof.Machine.execSagTrip sock bay s
  | .sagClear sock bay => Sys2Proof.Machine.execSagClear sock bay s
  | .sagRecoveryStep sock bay => Sys2Proof.Machine.execSagRecoveryStep sock bay s
  | .slopeWindow sock rows => Sys2Proof.Machine.execSlopeWindow sock rows s
  | .slopeYield sock => Sys2Proof.Machine.execSlopeYield sock s
  | .coolantReport kind inlet flow => Sys2Proof.Machine.execCoolantReport kind inlet flow s
  | .powerEvaluation p0 p1 p2 p3 package => Sys2Proof.Machine.execPowerEvaluation p0 p1 p2 p3 package s
  | .tableRaise => Sys2Proof.Machine.execTableRaise s
  | .coolantReportLoss => Sys2Proof.Machine.execCoolantReportLoss s
  | .thermalThrottle sock temp => Sys2Proof.Machine.execThermalThrottle sock temp s
  | .thermalTrip sock => Sys2Proof.Machine.execThermalTrip sock s
  | .bankModeWrite sock core n v => Sys2Proof.Machine.execBankModeWrite sock core n v s
  | .bankModeSwitchDone sock core n => Sys2Proof.Machine.execBankModeSwitchDone sock core n s
  | .qbindWrite sock core v => Sys2Proof.Machine.execQbindWrite sock core v s
  | .l2SplitWrite sock n v => Sys2Proof.Machine.execL2SplitWrite sock n v s
  | .l2SplitDone sock n => Sys2Proof.Machine.execL2SplitDone sock n s
  | .stagewinWrite sock n v => Sys2Proof.Machine.execStagewinWrite sock n v s
  | .stagewinZeroed sock n => Sys2Proof.Machine.execStagewinZeroed sock n s
  | .hostMemoryAccess pa len write => Sys2Proof.Machine.execHostMemoryAccess pa len write s
  | .backInvalidate line => Sys2Proof.Machine.execBackInvalidate line s
  | .shootdown v => Sys2Proof.Machine.execShootdown v s
  | .shootdownDone => Sys2Proof.Machine.execShootdownDone s
  | .migRingEnable q v => Sys2Proof.Machine.execMigRingEnable q v s
  | .migRingDisable q v => Sys2Proof.Machine.execMigRingDisable q v s
  | .migTailWrite q v => Sys2Proof.Machine.execMigTailWrite q v s
  | .migDescriptorTake q => Sys2Proof.Machine.execMigDescriptorTake q s
  | .migrationCopyDone => Sys2Proof.Machine.execMigrationCopyDone s
  | .linkDown a b => Sys2Proof.Machine.execLinkDown a b s
  | .routeWrite n v => Sys2Proof.Machine.execRouteWrite n v s
  | .linkNarrow sock => Sys2Proof.Machine.execLinkNarrow sock s
  | .linkWiden sock => Sys2Proof.Machine.execLinkWiden sock s
  | .dieAbsentReply sock core idx => Sys2Proof.Machine.execDieAbsentReply sock core idx s
  | .hodFetch tid engine => Sys2Proof.Machine.execHodFetch tid engine s
  | .hodChunkDone tid idx chunk => Sys2Proof.Machine.execHodChunkDone tid idx chunk s
  | .mxCommandDone sock core bank => Sys2Proof.Machine.execMxCommandDone sock core bank s
  | .redPerform tid => Sys2Proof.Machine.execRedPerform tid s
  | .reelPassage slot sock core => Sys2Proof.Machine.execReelPassage slot sock core s
  | .seamPassage slot => Sys2Proof.Machine.execSeamPassage slot s
  | .reelNokey sock core idx => Sys2Proof.Machine.execReelNokey sock core idx s
  | .timedWaitExpiry gid => Sys2Proof.Machine.execTimedWaitExpiry gid s
  | .doffStart v => Sys2Proof.Machine.execDoffStart v s
  | .doffRestore v => Sys2Proof.Machine.execDoffRestore v s
  | .doffDiscard v => Sys2Proof.Machine.execDoffDiscard v s
  | .doffPhaseEnd late => Sys2Proof.Machine.execDoffPhaseEnd late s
  | .latePacket p => Sys2Proof.Machine.execLatePacket p s
  | .doffRestoreDone => Sys2Proof.Machine.execDoffRestoreDone s
  | .discardDrainEnd => Sys2Proof.Machine.execDiscardDrainEnd s
  | .dieResetRequest v => Sys2Proof.Machine.execDieResetRequest v s
  | .dieLinkFailure sock => Sys2Proof.Machine.execDieLinkFailure sock s
  | .controlStateError sock => Sys2Proof.Machine.execControlStateError sock s
  | .dieResetStart => Sys2Proof.Machine.execDieResetStart s
  | .dieResetPhaseEnd pass => Sys2Proof.Machine.execDieResetPhaseEnd pass s
  | .energyLoRead r sock => Sys2Proof.Machine.execEnergyLoRead r sock s
  | .energyHiRead r sock => Sys2Proof.Machine.execEnergyHiRead r sock s
  | .jobcntLoRead r k => Sys2Proof.Machine.execJobcntLoRead r k s
  | .jobcntHiRead r k => Sys2Proof.Machine.execJobcntHiRead r k s
  | .jobcntClear v => Sys2Proof.Machine.execJobcntClear v s
  | .registerWrite r v => Sys2Proof.Machine.execRegisterWrite r v s
  | .blk tys => Sys2Proof.Machine.execBlk tys s
  | .br target n args => Sys2Proof.Machine.execBr target n args s
  | .cbr c bt bf t f args => Sys2Proof.Machine.execCbr c bt bf t f args s
  | .switch sel dflt base n => Sys2Proof.Machine.execSwitch sel dflt base n s
  | .ret => Sys2Proof.Machine.execRet s
  | .retValues v w => Sys2Proof.Machine.execRetValues v w s
  | .exit => Sys2Proof.Machine.execExit s
  | .unreachable => Sys2Proof.Machine.execUnreachable s
  | .call h two callee n args => Sys2Proof.Machine.execCall h two callee n args s
  | .args vals => Sys2Proof.Machine.execArgs vals s
  | .add h m a b => Sys2Proof.Machine.execAdd h m a b s
  | .sub h m a b => Sys2Proof.Machine.execSub h m a b s
  | .mul h m a b => Sys2Proof.Machine.execMul h m a b s
  | .mad h a b c => Sys2Proof.Machine.execMad h a b c s
  | .div h uns a b => Sys2Proof.Machine.execDiv h uns a b s
  | .divrem h uns a b => Sys2Proof.Machine.execDivrem h uns a b s
  | .rem h uns a b => Sys2Proof.Machine.execRem h uns a b s
  | .neg h sat a => Sys2Proof.Machine.execNeg h sat a s
  | .abs h sat a => Sys2Proof.Machine.execAbs h sat a s
  | .min h uns a b => Sys2Proof.Machine.execMin h uns a b s
  | .max h uns a b => Sys2Proof.Machine.execMax h uns a b s
  | .addc h a b c => Sys2Proof.Machine.execAddc h a b c s
  | .subb h a b c => Sys2Proof.Machine.execSubb h a b c s
  | .and h a b => Sys2Proof.Machine.execAnd h a b s
  | .or h a b => Sys2Proof.Machine.execOr h a b s
  | .xor h a b => Sys2Proof.Machine.execXor h a b s
  | .andn h a b => Sys2Proof.Machine.execAndn h a b s
  | .not h a => Sys2Proof.Machine.execNot h a s
  | .shl h a b => Sys2Proof.Machine.execShl h a b s
  | .shr h sgn a b => Sys2Proof.Machine.execShr h sgn a b s
  | .rot h right a b => Sys2Proof.Machine.execRot h right a b s
  | .popc h a => Sys2Proof.Machine.execPopc h a s
  | .clz h a => Sys2Proof.Machine.execClz h a s
  | .ctz h a => Sys2Proof.Machine.execCtz h a s
  | .brev h a => Sys2Proof.Machine.execBrev h a s
  | .bfx h sgn v pos len => Sys2Proof.Machine.execBfx h sgn v pos len s
  | .bfi h base ins pos len => Sys2Proof.Machine.execBfi h base ins pos len s
  | .cmp h c a b => Sys2Proof.Machine.execCmp h c a b s
  | .sel h c a b => Sys2Proof.Machine.execSel h c a b s
  | .const h bits => Sys2Proof.Machine.execConst h bits s
  | .ext h sgn a => Sys2Proof.Machine.execExt h sgn a s
  | .trunc h a => Sys2Proof.Machine.execTrunc h a s
  | .ptoi h a => Sys2Proof.Machine.execPtoi h a s
  | .itop h a => Sys2Proof.Machine.execItop h a s
  | .ptrIdx h sgn k p x => Sys2Proof.Machine.execPtrIdx h sgn k p x s
  | .addFloat h r a b => Sys2Proof.Machine.execAddFloat h r a b s
  | .subFloat h r a b => Sys2Proof.Machine.execSubFloat h r a b s
  | .mulFloat h r a b => Sys2Proof.Machine.execMulFloat h r a b s
  | .fma h r a b c => Sys2Proof.Machine.execFma h r a b c s
  | .divFloat h r a b => Sys2Proof.Machine.execDivFloat h r a b s
  | .sqrt h r a => Sys2Proof.Machine.execSqrt h r a s
  | .rcp h a => Sys2Proof.Machine.execRcp h a s
  | .rsqrt h a => Sys2Proof.Machine.execRsqrt h a s
  | .minFloat h a b => Sys2Proof.Machine.execMinFloat h a b s
  | .maxFloat h a b => Sys2Proof.Machine.execMaxFloat h a b s
  | .negFloat h a => Sys2Proof.Machine.execNegFloat h a s
  | .absFloat h a => Sys2Proof.Machine.execAbsFloat h a s
  | .copysign h a b => Sys2Proof.Machine.execCopysign h a b s
  | .cmpFloat h c a b => Sys2Proof.Machine.execCmpFloat h c a b s
  | .class h mask a => Sys2Proof.Machine.execClass h mask a s
  | .rint h r a => Sys2Proof.Machine.execRint h r a s
  | .exp2 h a => Sys2Proof.Machine.execExp2 h a s
  | .log2 h a => Sys2Proof.Machine.execLog2 h a s
  | .sin h a => Sys2Proof.Machine.execSin h a s
  | .cos h a => Sys2Proof.Machine.execCos h a s
  | .tanh h a => Sys2Proof.Machine.execTanh h a s
  | .sigm h a => Sys2Proof.Machine.execSigm h a s
  | .amax h a ia b ib => Sys2Proof.Machine.execAmax h a ia b ib s
  | .amin h a ia b ib => Sys2Proof.Machine.execAmin h a ia b ib s
  | .cvt h r sat sgn a => Sys2Proof.Machine.execCvt h r sat sgn a s
  | .cvtSlot h slot sgn a => Sys2Proof.Machine.execCvtSlot h slot sgn a s
  | .q4Pack h slot x band => Sys2Proof.Machine.execQ4Pack h slot x band s
  | .q4Unpack h slot q k band => Sys2Proof.Machine.execQ4Unpack h slot q k band s
  | .q4Make h w q => Sys2Proof.Machine.execQ4Make h w q s
  | .q4Elem h q => Sys2Proof.Machine.execQ4Elem h q s
  | .q4Scale h q => Sys2Proof.Machine.execQ4Scale h q s
  | .bitcast h a => Sys2Proof.Machine.execBitcast h a s
  | .shfl h m v n => Sys2Proof.Machine.execShfl h m v n s
  | .vote h m p => Sys2Proof.Machine.execVote h m p s
  | .scan h excl c v => Sys2Proof.Machine.execScan h excl c v s
  | .xred h c v => Sys2Proof.Machine.execXred h c v s
  | .xamax h isMin x idx => Sys2Proof.Machine.execXamax h isMin x idx s
  | .first h v => Sys2Proof.Machine.execFirst h v s
  | .active h => Sys2Proof.Machine.execActive h s
  | .emit h mask v sp => Sys2Proof.Machine.execEmit h mask v sp s
  | .ld h ac acq sc p => Sys2Proof.Machine.execLd h ac acq sc p s
  | .st h ac rel sc p v => Sys2Proof.Machine.execSt h ac rel sc p v s
  | .ldk h ac acq sc p off => Sys2Proof.Machine.execLdk h ac acq sc p off s
  | .stk h ac rel sc p v off => Sys2Proof.Machine.execStk h ac rel sc p v off s
  | .gather h ac width sgn scale base idx => Sys2Proof.Machine.execGather h ac width sgn scale base idx s
  | .scatter h ac width sgn scale base idx v => Sys2Proof.Machine.execScatter h ac width sgn scale base idx v s
  | .prefetch h ac f p => Sys2Proof.Machine.execPrefetch h ac f p s
  | .ptrExport h ac p => Sys2Proof.Machine.execPtrExport h ac p s
  | .ptrCast h ac w p => Sys2Proof.Machine.execPtrCast h ac w p s
  | .atom h ac op ord sc p x => Sys2Proof.Machine.execAtom h ac op ord sc p x s
  | .cas h ac ord sc p e n => Sys2Proof.Machine.execCas h ac ord sc p e n s
  | .red h ac op ord sc p x => Sys2Proof.Machine.execRed h ac op ord sc p x s
  | .fence h ord sc => Sys2Proof.Machine.execFence h ord sc s
  | .bar h b lm gm => Sys2Proof.Machine.execBar h b lm gm s
  | .barArrive h b lm gm => Sys2Proof.Machine.execBarArrive h b lm gm s
  | .barWait b ph => Sys2Proof.Machine.execBarWait b ph s
  | .barWaitTimed h b ph lim => Sys2Proof.Machine.execBarWaitTimed h b ph lim s
  | .xbInit h p n => Sys2Proof.Machine.execXbInit h p n s
  | .xbExpect h p n => Sys2Proof.Machine.execXbExpect h p n s
  | .xbWait p => Sys2Proof.Machine.execXbWait p s
  | .xbWaitTimed h p lim => Sys2Proof.Machine.execXbWaitTimed h p lim s
  | .spoolClaim h sp => Sys2Proof.Machine.execSpoolClaim h sp s
  | .spoolCommit h sp p => Sys2Proof.Machine.execSpoolCommit h sp p s
  | .spoolWaitfilled h sp => Sys2Proof.Machine.execSpoolWaitfilled h sp s
  | .spoolRelease h sp p => Sys2Proof.Machine.execSpoolRelease h sp p s
  | .spoolWaitfree sp => Sys2Proof.Machine.execSpoolWaitfree sp s
  | .hodKick h engine n => Sys2Proof.Machine.execHodKick h engine n s
  | .hodBind h engine req => Sys2Proof.Machine.execHodBind h engine req s
  | .sread h st => Sys2Proof.Machine.execSread h st s
  | .hodPut h engine req => Sys2Proof.Machine.execHodPut h engine req s
  | .hodGet h engine req => Sys2Proof.Machine.execHodGet h engine req s
  | .reelBoard h key pay => Sys2Proof.Machine.execReelBoard h key pay s
  | .reelAlight h key hint dst done => Sys2Proof.Machine.execReelAlight h key hint dst done s
  | .reelCapture h op field ord key hint x y => Sys2Proof.Machine.execReelCapture h op field ord key hint x y s
  | .reelFence => Sys2Proof.Machine.execReelFence s
  | .mxLdst h slot pb => Sys2Proof.Machine.execMxLdst h slot pb s
  | .mxSwap ce => Sys2Proof.Machine.execMxSwap ce s
  | .mxStream h slot pb => Sys2Proof.Machine.execMxStream h slot pb s
  | .mxStreamBound h slot pb st => Sys2Proof.Machine.execMxStreamBound h slot pb st s
  | .mxSpgather h slot pb => Sys2Proof.Machine.execMxSpgather h slot pb s
  | .mxCompress h slot pb => Sys2Proof.Machine.execMxCompress h slot pb s
  | .mxDrain h slot pb => Sys2Proof.Machine.execMxDrain h slot pb s
  | .mxDrainAdd h slot pb => Sys2Proof.Machine.execMxDrainAdd h slot pb s
  | .mxWait tok => Sys2Proof.Machine.execMxWait tok s
  | .ctxDrain => Sys2Proof.Machine.execCtxDrain s
  | .ctxSpill p => Sys2Proof.Machine.execCtxSpill p s
  | .ctxFill p => Sys2Proof.Machine.execCtxFill p s
  | .ctxBank b => Sys2Proof.Machine.execCtxBank b s
  | .ctxDivSave ce p => Sys2Proof.Machine.execCtxDivSave ce p s
  | .ctxDivRestore ce p => Sys2Proof.Machine.execCtxDivRestore ce p s
  | .ctxBarSave ce p => Sys2Proof.Machine.execCtxBarSave ce p s
  | .ctxBarRestore ce p => Sys2Proof.Machine.execCtxBarRestore ce p s
  | .tret => Sys2Proof.Machine.execTret s
  | .doffIssue h job area => Sys2Proof.Machine.execDoffIssue h job area s
  | .trap code => Sys2Proof.Machine.execTrap code s
  | .trapDetail code det => Sys2Proof.Machine.execTrapDetail code det s
  | .rdctr h n => Sys2Proof.Machine.execRdctr h n s
  | .rdcap h off => Sys2Proof.Machine.execRdcap h off s
  | .phaseDecl p => Sys2Proof.Machine.execPhaseDecl p s
  | .nLi q d imm m => Sys2Proof.Machine.execNLi q d imm m s
  | .nMov q d a m => Sys2Proof.Machine.execNMov q d a m s
  | .nBcast d a m => Sys2Proof.Machine.execNBcast d a m s
  | .nBfpk q d a b => Sys2Proof.Machine.execNBfpk q d a b s
  | .nSpill d imm m => Sys2Proof.Machine.execNSpill d imm m s
  | .nFill d imm m => Sys2Proof.Machine.execNFill d imm m s
  | .energyAccumulatorUpdate sock uj => Sys2Proof.Machine.execEnergyAccumulatorUpdate sock uj s
  | .peerLinkDown n => Sys2Proof.Machine.execPeerLinkDown n s
  | .inboundPeerTransfer link pa len write => Sys2Proof.Machine.execInboundPeerTransfer link pa len write s

end Sys2Proof.Machine
end

