-- ==== Sys2Proof/Machine/Auto.lean ====
section
/-! DEFINITION. What happens next when the agenda is empty and no group issues (log 1): the work at hand of the package's own agents and a passage of the Reel that a request waits for, in turn, and between them queues and parked groups are looked at again. -/

namespace Sys2Proof.Machine

/-- The teams that hold rows, and the saved ones whose groups still run their handlers (R423). -/
def State.placed (s : State) : List (Nat × Team) :=
  s.teams.filter fun p => p.2.state != .done && (p.2.state != .saved || p.2.groups.any fun g => g.inHandler && g.status != .out)
/-- The cores that hold teams, each once. -/
def State.busyCores (s : State) : List (Nat × Nat) := (s.placed.map fun p => (p.2.sock, p.2.core)).eraseDups
/-- The numbers of a sparse map's keys. -/
def keys {α : Type} (m : SMap α) : List Nat := m.map (·.1)

/-- Work of the Spindles, of outstanding native results, and of stopped groups whose record waits. -/
def State.spindleWork (s : State) : List Instr :=
  (s.cache0.claims ++ s.cache1.claims).map (fun c => Instr.translationDone c.sock c.bay)
  ++ s.placed.flatMap fun p => (List.range p.2.groups.length).filterMap fun i => match p.2.groups[i]? with
    | some g => if g.status == .stopping && !g.drained then some (Instr.faultDrainDone ⟨p.1, i⟩)
      else if g.nat.pend.isEmpty then none else some (Instr.resultWriteback ⟨p.1, i⟩)
    | none => none
/-- Work of the engines for the teams. -/
def State.engineWork (s : State) : List Instr :=
  s.placed.flatMap fun p =>
    let t := p.2
    (if t.state == .loading then [Instr.teamSetupDone p.1] else [])
    ++ (if t.state == .draining then [Instr.completionEvent p.1] else [])
    ++ (if t.hod0.kicks.isEmpty && t.copies.all (fun c => !c.held) then [] else [Instr.hodFetch p.1 0])
    ++ (if t.hod1.kicks.isEmpty && t.copies.all (fun c => !c.held) then [] else [Instr.hodFetch p.1 1])
    ++ (if t.reds.isEmpty then [] else [Instr.redPerform p.1])
    ++ ((List.range t.copies.length).filterMap fun i => match t.copies[i]? with
      | some c => if c.live && !c.held then c.left.head?.map (fun k => Instr.hodChunkDone p.1 i k) else none
      | none => none)
/-- Work of the cores: matrix commands, pre-emptions, searches that ended, lock-step meetings, the arbiters. -/
def State.coreWork (s : State) : List Instr :=
  s.cores.flatMap (fun p =>
    let k := p.1 / 64
    let c := p.1 % 64
    (if p.2.b0.queue.isEmpty then [] else [Instr.mxCommandDone k c 0]) ++ (if p.2.b1.queue.isEmpty then [] else [Instr.mxCommandDone k c 1])
    ++ (if p.2.preempt.getLsbD 31 then [Instr.preemptYield k c] else [])
    ++ ((List.range p.2.port.length).filterMap fun i => match p.2.port[i]? with
      | some r => if 512 ≤ r.passes then some (Instr.reelNokey k c i) else none
      | none => none)
    ++ p.2.meetings.map (fun m => Instr.lockstepMeeting m.tid m.quad)
    ++ (keys p.2.cfg).map (fun n => Instr.bankModeSwitchDone k c (BitVec.ofNat 6 n)))
  ++ s.busyCores.flatMap (fun c => (List.range 4).map fun q => Instr.courseIssue c.1 c.2 q)
/-- Work of the dies, the Plinth, the migration arbiter, the Doff engine and IO0. -/
def State.packageWork (s : State) : List Instr :=
  s.dies.flatMap (fun p => (keys p.2.splits).map (fun n => Instr.l2SplitDone p.1 (BitVec.ofNat 4 n)) ++ (keys p.2.wins).map (fun n => Instr.stagewinZeroed p.1 (BitVec.ofNat 4 n)))
  ++ (if s.pln.shootctl.getLsbD 31 then [Instr.shootdownDone] else [])
  ++ (if s.mig.moves.isEmpty then [] else [Instr.migrationCopyDone])
  ++ (if s.mig.r0.en then [Instr.migDescriptorTake 0] else []) ++ (if s.mig.r1.en then [Instr.migDescriptorTake 1] else [])
  ++ (if s.doff.busy then [Instr.doffPhaseEnd false, Instr.doffRestoreDone] else []) ++ (if s.doff.jobs.isEmpty then [] else [Instr.discardDrainEnd])
  ++ (if s.boot.exitReq then [Instr.testModeExit] else [])
def State.work (s : State) : List Instr := s.spindleWork ++ s.engineWork ++ s.packageWork ++ s.coreWork

/-- The first of a list of events that changes the state. -/
def State.first (s : State) : List Instr → Option State
  | [] => none
  | e :: es => match exec e s with
    | .next t => if t = s then State.first s es else some t
    | _ => State.first s es

/-- The slot whose passage a port's head request waits for: a board's empty slot, the hinted slot, or the next of a search; an applied alight waits for the seam. -/
def State.nextSlot (s : State) (sock core : Nat) (r : ReelReq) : Option Nat :=
  match r.kind with
  | .board _ =>
    if (s.launch (s.team r.tid).lid).det then (if (s.slot (r.key.toNat % 512)).st == .empty then some (r.key.toNat % 512) else none)
    else (List.range 512).find? fun i => (s.slot i).st == .empty
  | .fence => none
  | _ => if r.applied then none else match r.hint with
    | some h => some h.toNat
    | none => some ((r.since + 512 * 512 - ringPos sock core + r.passes) % 512)
/-- A passage that something waits for: a request's slot at its stop, or a slot that the seam settles. -/
def State.passages (s : State) : List Instr :=
  s.cores.flatMap (fun p => p.2.port.filterMap fun r => (s.nextSlot (p.1 / 64) (p.1 % 64) r).map fun i => Instr.reelPassage (BitVec.ofNat 9 i) (p.1 / 64) (p.1 % 64))
  ++ (s.reel.slots.filter fun p => p.2.st == .boarding || p.2.st == .alighting || s.reel.sweep == some p.2.job || (p.2.st == .live && s.gridOver p.2.grid)).map
      (fun p => Instr.seamPassage (BitVec.ofNat 9 p.1))
  ++ (match s.reel.boards with
    | [] => []
    | b :: _ => match (List.range 512).find? fun i => (s.slot i).st == .empty && (i == b.2 || decide (512 ≤ b.2)) with
      | some i => [Instr.seamPassage (BitVec.ofNat 9 i)]
      | none => [Instr.seamPassage (BitVec.ofNat 9 (b.2 % 512))])
/-- The passage taken: each in its turn as time goes on. -/
def State.passage (s : State) : Option Instr := match s.passages with | [] => none | l => l[s.time % l.length]?

/-- A cycle passes: the clocks of the dies and bays go on. -/
def State.clockTick (s : State) : State :=
  let bay (y : SMap Bay) (n : Nat) : SMap Bay := let b := SMap.get Bay.reset y n; SMap.put Bay.reset y n { b with cycles := b.cycles + 1 }
  let die (s : State) (k : Nat) : State := let d := s.die k; s.setDie k { d with cycles := d.cycles + 1, bays := (keys d.bays).foldl bay d.bays }
  (keys s.dies).foldl die { s with time := s.time + 1 }
/-- A fetch for the issuing group: its instruction and its length in words, decoded from the words at its point (R38, R242). Past a function's last word stands its exit: ret, or exit in a kernel (DEDUCED, log 17). -/
def State.fetch (s : State) (gid : GId) (g : Group) : Except XlCode (Instr × Nat) :=
  let ws := s.wordsOf gid g g.frame.func
  if !ws.isEmpty && decide (ws.length ≤ g.frame.word) then
    .ok (match s.func (s.modOf gid g) g.frame.func with | some f => if f.kind = 1 then .exit else .ret | none => .ret, 0)
  else decode (ws.drop g.frame.word)

/-- The group that step runs next, where the agenda is empty: the one that issues, while it is placed. -/
def State.issuing (s : State) : Option (GId × Group) :=
  match s.cur with
  | none => none
  | some gid => (s.group gid).map fun g => (gid, g)

/-- The parked group as it would issue again: its instruction, or its bundles up to one that waits. -/
def State.retry (gid : GId) : Nat → State → State
  | 0, s => s
  | n + 1, s =>
    if s.cur != some gid then s
    else match s.group gid with
      | none => s
      | some g =>
        if g.nat.on then (match exec (.bundleIssue gid) s with | .next t => State.retry gid n t | _ => s)
        else match s.fetch gid g with
          | .ok (i, k) => (match exec i { s with npc := g.frame.word + k } with | .next t => t | _ => s)
          | .error _ => s
/-- Whether what a parked group waits for is known to be unmet (R287): its instruction would park again, and do nothing else. -/
def State.stillWaits (s : State) (gid : GId) (g : Group) : Bool :=
  let t := State.retry gid 96 { s.setGroup gid { g with status := .ready } with cur := some gid }
  t.statusOf gid == .wait && decide ({ t with cur := s.cur, npc := s.npc } = s)
/-- Parked groups whose condition may be met are ready again (R279, R287). -/
def State.wake (s : State) : State :=
  let one (tid i : Nat) (g : Group) : Group := if g.status == .wait && !(s.stillWaits ⟨tid, i⟩ g) then { g with status := .ready } else g
  { s with teams := s.teams.map fun p => (p.1, { p.2 with groups := ((List.range p.2.groups.length).zip p.2.groups).map fun q => one p.1 q.1 q.2 }) }

/-- A cycle passes, queues are looked at again, and parked groups look again. -/
def State.idle (s : State) : State :=
  let s1 := s.wake.clockTick
  let live : List (Nat × Launch) := s1.launches.filter fun p => p.2.live
  let s2 := s1.settle (keys live)
  let s3 := if s2.dsp.queues.any fun q => q.2.en && q.2.head != q.2.tail then s2.soon .dispatchRound else s2
  if live.isEmpty then s3 else s3.soon .placementPass

/-- A step of the package's agents: the work at hand, and looking again after it, each have their turn as time goes on. -/
def State.auto (s : State) : State :=
  if s.cur.isSome then { s with cur := none }
  else
    let l := s.work ++ s.passage.toList
    match s.first (l.drop (s.time % (l.length + 1))) with
    | some t => t.clockTick
    | none => s.idle

/-- A module of one function of job 1, whose words are given. -/
def oneWordModule (ws : List W32) : Module :=
  { handle := 1, job := 1, funcs := [{ words := ws, kind := 0, nvals := 64, nblocks := 1, nparam := 0, nspool := 0, attrs := [], refused := 0 }], consts := [] }
/-- A resident team of one group at word 0 of that function, on core 0 of CD0, and its launch. -/
def oneTeam : Team :=
  { Team.none with
    lid := 0, idx := 0, job := 1, module := 1, sock := 0, core := 0, bank := 0, row := 0, state := .resident,
    groups := [{ Group.fresh 0 0 1 [] with status := .ready, begun := true }], bars := List.replicate 16 .reset }
def oneLaunch : Launch :=
  { Launch.none with job := 1, record := List.replicate 24 0 ++ [1, 0, 0, 0, 1, 0, 0, 0, 1, 0, 0, 0] ++ List.replicate 412 0 ++ [1] ++ List.replicate 575 0,
                     dies := [0], logical := 48, started := [0], live := true }
/-- The machine with words standing where the next step fetches (log 1): a group issues at them. -/
def State.withWords (s : State) (ws : List W32) : State :=
  let s1 := (({ s with dsp := { s.dsp with modules := [oneWordModule ws] } }.setLaunch 0 oneLaunch).setTeam 0 oneTeam)
  { s1.setDie 0 { s1.die 0 with present := true } with agenda := [], cur := some ⟨0, 0⟩, npc := 0 }

end Sys2Proof.Machine
end

