-- ==== Sys2Proof/Machine/Step.lean ====
section
/-! DEFINITION. One step of the machine, and the state in which a given instruction is fetched next. -/

namespace Sys2Proof.Machine

/-- One step: the next event of the agenda; else the instruction at the issuing group's point, on the native level its next bundle; words that no encoding gives raise the translation fault of R227; else what the package's agents do. -/
def step (s : State) : Host.Outcome State Fault Refusal :=
  match s.agenda with
  | i :: rest => exec i { s with agenda := rest }
  | [] =>
    match s.issuing with
    | none => .next s.auto
    | some (gid, g) =>
      if g.nat.on then exec (.bundleIssue gid) s
      else
        match s.fetch gid g with
        | .error c => .next (s.xlFault gid g (Code.ofXl c) g.frame.word g.frame.func)
        | .ok (i, n) => exec i { s with npc := g.frame.word + n }

/-- s with an instruction of w's low nbits standing where step fetches next: in a function of one module whose group issues (log 1). -/
def State.withFetchWord (s : State) (nbits w : Nat) : State := s.withWords (wordsOfNat 4 (w % 2 ^ nbits))

end Sys2Proof.Machine
end

