-- ==== Sys2Proof/Safety.lean ====
section
/-! DEFINITION. What counts as a safe run, and the vocabulary of the statements: which group issues, operands by lane as words of their type, results by lane, the bytes a store reaches, and what a step leaves as it was. -/

namespace Sys2Proof.Machine

/-- The canonical form of the physical memory: addresses strictly rising, no byte listed that an unlisted address reads as (log 3). -/
def Memory.wf (m : SMap Byte) : Bool := SMap.wf 0 m

/-- Whether a state keeps the form. -/
def State.ok (s : State) : Bool := Memory.wf s.mem

/-- A step that answers a next state. -/
def Completes (s : State) : Prop := ∃ t, step s = .next t

/-- A run of n steps, none of which ends in a fault or a refusal. -/
def SafeRun : Nat → State → Prop
  | 0, _ => True
  | n + 1, s => ∃ t, step s = .next t ∧ SafeRun n t

-- instructions of the issuing group ------------------------------------------

/-- The group gid issues, and g is what the state holds of it. -/
def Issues (s : State) (gid : GId) (g : Group) : Prop := s.cur = some gid ∧ s.group gid = some g

/-- No operand of a list is lost (R407). -/
def Sound (s : State) (gid : GId) (g : Group) (ins : List (Ty × Opnd)) : Prop := ∀ i ∈ ins, (s.read gid g i.1 i.2).lost = none

/-- The bits of an operand in a lane. -/
def opndBits (s : State) (gid : GId) (g : Group) (ty : Ty) (o : Opnd) (l : Nat) : Lane := (s.read gid g ty o).lane l
/-- An operand in a lane as a word of its type's width. -/
def opnd (s : State) (gid : GId) (g : Group) (ty : Ty) (o : Opnd) (l : Nat) : BitVec ty.bits := (opndBits s gid g ty o l).setWidth ty.bits

/-- One value a lane: with U the value the lowest active lane computes, in every lane (R33); else the active lanes' own (R89). -/
def byLane (h : Hd) (g : Group) (f : Nat → Lane) : List Lane :=
  if h.u then List.replicate 32 (f (lowest g.active)) else lanes32.map fun l => if g.active.getLsbD l then f l else 0
/-- The events of the lanes that compute, each class once (R67). -/
def evLanes (h : Hd) (g : Group) (f : Nat → Ev) : Ev :=
  if h.u then f (lowest g.active) else (lanesOf g.active).foldl (fun e l => e ||| f l) 0

/-- Instruction i completes with the result f of each lane in type ty, and the events e. -/
def Gives (s : State) (gid : GId) (g : Group) (h : Hd) (i : Instr) (ty : Ty) (f : Nat → BitVec ty.bits) (e : Nat → Ev) : Prop :=
  exec i s = .next (s.finish gid g h (resMask h g) [(ty, byLane h g fun l => (f l).setWidth 64)] (evLanes h g e))
/-- The same for an instruction of two results. -/
def Gives2 (s : State) (gid : GId) (g : Group) (h : Hd) (i : Instr) (ty : Ty) (f : Nat → BitVec ty.bits) (ty2 : Ty) (f2 : Nat → BitVec ty2.bits)
    (e : Nat → Ev) : Prop :=
  exec i s = .next (s.finish gid g h (resMask h g)
    [(ty, byLane h g fun l => (f l).setWidth 64), (ty2, byLane h g fun l => (f2 l).setWidth 64)] (evLanes h g e))
/-- No lane counts an event. -/
def noEv (_l : Nat) : Ev := 0

/-- v, or the nearer end of lo to hi. -/
def clampInt (lo hi v : Int) : Int := if v < lo then lo else if hi < v then hi else v
/-- SATURATE where v lies outside lo to hi. -/
def satEv (lo hi v : Int) : Ev := if v < lo ∨ hi < v then Ev.saturate else 0

/-- The relation of an integer compare code (R75, R102). -/
def cmpHolds {w : Nat} (c : ICmp) (x y : BitVec w) : Bool :=
  match c with
  | .eq => x == y
  | .ne => x != y
  | .ltS => x.slt y
  | .leS => x.sle y
  | .gtS => y.slt x
  | .geS => y.sle x
  | .ltU => x.ult y
  | .leU => x.ule y
  | .gtU => y.ult x
  | .geU => y.ule x

/-- R101's clipped field length. -/
def clipLen (w pos len : Nat) : Nat := if w ≤ pos then 0 else Nat.min len (w - pos)

-- floating values -------------------------------------------------------------

/-- The rational that a finite value denotes. -/
def FVal.toRat : FVal → Rat
  | .fin neg n d => (if neg then -1 else 1) * mkRat n d
  | _ => 0
/-- k is x rounded to an integer by a mode (R57, R59). -/
def roundsToInt (r : Round) (x : Rat) (k : Int) : Prop :=
  match r with
  | .rne => 2 * (x - k) ≤ 1 ∧ -1 ≤ 2 * (x - k) ∧ (2 * (x - k) = 1 ∨ 2 * (x - k) = -1 → k % 2 = 0)
  | .rtz => if 0 ≤ x then (k : Rat) ≤ x ∧ x < k + 1 else x ≤ k ∧ (k : Rat) - 1 < x
  | .rup => x ≤ k ∧ (k : Rat) - 1 < x
  | .rdn => (k : Rat) ≤ x ∧ x < k + 1
/-- The formats of F (R71). -/
def formatsF : List Fmt := [.f16, .bf16, .f32, .f64]
/-- A value operand of the instruction's format in a lane (R48). -/
def fopnd (s : State) (gid : GId) (g : Group) (h : Hd) (o : Opnd) (l : Nat) : FVal := fval (fmtOf h.ty) (opndBits s gid g h.ty o l)
/-- An exact value with its events, rounded once into a format (R57, R106). -/
def roundedTo (f : Fmt) (r : Round) (v : FVal × Ev) : Nat × Ev := deliver2 f (.plain r) v
/-- Instruction i completes with, in each lane, the bits and events of f. -/
def Delivers (s : State) (gid : GId) (g : Group) (h : Hd) (i : Instr) (ty : Ty) (f : Nat → Nat × Ev) : Prop :=
  exec i s = .next (s.finish gid g h (resMask h g) [(ty, byLane h g fun l => BitVec.ofNat 64 (f l).1)] (evLanes h g fun l => (f l).2))
/-- The same over the active lanes of the group, which read each other's values (R121): results by lane, and the events. -/
def Exchanges (s : State) (gid : GId) (g : Group) (h : Hd) (i : Instr) (outs : List (Ty × List Lane)) (e : Ev) : Prop :=
  exec i s = .next (s.finish gid g h g.active outs e)

-- memory -----------------------------------------------------------------------

/-- The group has no reduction still to perform (R159). -/
def NoReds (s : State) (gid : GId) (g : Group) : Prop := ((s.team gid.tid).reds.filter fun r => r.g == gid.g) = [] ∧ s.group gid = some g
/-- The group has no reduction still to perform, and its context's logs are empty or it is in a handler: nothing an ordering point waits for or stops at (R162). -/
def Calm (s : State) (gid : GId) (g : Group) : Prop :=
  ((s.team gid.tid).reds.filter fun r => r.g == gid.g) = [] ∧ s.asyncCode gid g = none

/-- Where a byte lies: in physical memory, in a team's scratch, or in a team's private memory. -/
inductive Spot where
  | phys (fa : Nat)
  | scratch (tid off : Nat)
  | priv (tid i : Nat)
  deriving DecidableEq, Repr
/-- The byte a state holds there. -/
def State.at (s : State) : Spot → Byte
  | .phys fa => SMap.get 0 s.mem fa
  | .scratch tid off => SMap.get 0 (s.team tid).scratch off
  | .priv tid i => SMap.get 0 (s.team tid).priv i
/-- Where a write of the byte at an address goes (R34, R211, R316-R318); none where nothing is mapped or the window is constant. -/
def State.spot (s : State) (w : Who) (a : W64) : Option Spot :=
  match winOf a with
  | .global => match s.walkAs w .write a.toNat with
    | .ok fa => some (.phys fa)
    | _ => none
  | .scratch => some (.scratch w.tid (offOf a))
  | .priv =>
    if (s.launch (s.team w.tid).lid).exportOk then some (.phys (s.expAddr w (offOf a)))
    else some (.priv w.tid ((w.g * 32 + w.lane) * (s.launch (s.team w.tid).lid).priv + offOf a))
  | _ => none
/-- Where a list of bytes written from an address goes, each byte translated as it is written. -/
def State.spots (s : State) (w : Who) (a : W64) : List Byte → List Spot
  | [] => []
  | b :: bs => (s.spot w a).toList ++ State.spots (s.putByte w a b) w (a + 1) bs
/-- Where the stores of a group's lanes go, in lane order (R151). -/
def State.laneSpots (s : State) (gid : GId) (g : Group) (ty : Ty) (v : Nat → Lane) : List (Nat × W64) → List Spot
  | [] => []
  | (l, a) :: rest =>
    s.spots (s.who gid g l) a (toMem ty (v l)) ++ State.laneSpots (s.putBytes (s.who gid g l) a (toMem ty (v l))) gid g ty v rest

/-- The value that the little-endian bytes from an address give a type (R8, R145). -/
def State.valueAt (s : State) (w : Who) (ty : Ty) (a : W64) : Lane :=
  BitVec.ofNat 64 (((List.range (Ty.memSize ty)).map fun i => (s.byteAt w (a + BitVec.ofNat 64 i)).toNat * 256 ^ i).sum % 2 ^ ty.bits)

/-- Everything of t but the group gid, the issuing group, the agenda and the free-value counter is as in s. -/
structure OnlyGroup (s t : State) (gid : GId) : Prop where
  rest : { t with teams := s.teams, agenda := s.agenda, cur := s.cur, fresh := s.fresh } = s
  teams : ∀ tid, tid ≠ gid.tid → t.team tid = s.team tid
  team : { t.team gid.tid with groups := [] } = { s.team gid.tid with groups := [] }
  groups : ∀ i, i ≠ gid.g → (t.team gid.tid).groups[i]? = (s.team gid.tid).groups[i]?

/-- The bytes at fa to fa + n - 1 take no part in the translation of the n bytes from a: whatever they hold, the address translates to fa + i. -/
def TablesApart (s : State) (job : Nat) (a : W64) (n fa : Nat) : Prop :=
  ∀ m : SMap Byte, (∀ x, (x < fa ∨ fa + n ≤ x) → SMap.get 0 m x = SMap.get 0 s.mem x) → ∀ p : Pln, ∀ i, i < n → ∀ acc,
    ({ s with mem := m, pln := p } : State).walk job acc (a + BitVec.ofNat 64 i).toNat = .ok (fa + i)

-- control ------------------------------------------------------------------------

/-- The blocks of the function where a group stands. -/
def State.blocksAt (s : State) (gid : GId) (g : Group) : List BlockInfo := blocksOf (items (s.wordsOf gid g g.frame.func))
/-- g' is g gone to block b with the lanes m: the same function and callers, no lane ended. -/
structure WentTo (g g' : Group) (bs : List BlockInfo) (b : Nat) (m : Mask) : Prop where
  block : g'.frame.block = b
  word : ∀ i, bs[b]? = some i → g'.frame.word = i.word
  func : g'.frame.func = g.frame.func
  callers : g'.frames.drop 1 = g.frames.drop 1
  active : g'.active = m
  ended : g'.ended = g.ended
/-- The arguments of block b hold, in the lanes of m, what the operands read (R132). -/
def ArgsPassed (s : State) (gid : GId) (g g' : Group) (b : BlockInfo) (m : Mask) (ops : List Opnd) : Prop :=
  ∀ k o t, ops[k]? = some o → b.tys[k]? = some t →
    let v := SMap.get Val.undef g'.frame.vals (b.val + k)
    v.ty = t ∧ ∀ l, l < 32 → m.getLsbD l → laneAt v.lanes l = opndBits s gid g t o l

-- instructions that act once for the group ------------------------------------------

/-- The value of an operand that is read once for the group: the lowest active lane's copy (R330). -/
def elected (s : State) (gid : GId) (g : Group) (ty : Ty) (o : Opnd) : BitVec ty.bits := opnd s gid g ty o (lowest g.active)
/-- The group delivers one value to its active lanes, from state u where it is g'. -/
def gaveAll (u : State) (gid : GId) (g' : Group) (h : Hd) (x : Lane) : State := u.finish gid g' h g'.active [(h.ty, List.replicate 32 x)] 0

-- the matrix engine -------------------------------------------------------------------

/-- A matrix command passes every check of R170 and R171 and the engine takes it: p is the parameter block's address, b0 and b1 the records, rowptr and cols the sparse arrays. -/
structure MxReady (s : State) (gid : GId) (g : Group) (op : MxOp) (slot : Nat) (p : W64) (b0 b1 : List Byte) (rowptr cols : List Nat) : Prop where
  reds : ((s.team gid.tid).reds.filter fun r => r.g == gid.g) = []
  mode : op = .compress → s.boot.mode ≠ 0
  block : s.checkSeg (s.who gid g 0) .read false 0 64 (p, 128) = .ok
  window : winOf p ≠ .priv
  rec0 : s.checkSeg (s.who gid g 0) .read false 0 64 (pbRec0 (s.getBytes (s.who gid g 0) p 128), 64) = .ok
  bytes0 : b0 = s.getBytes (s.who gid g 0) (pbRec0 (s.getBytes (s.who gid g 0) p 128)) 64
  rec1 : op = .compress → s.checkSeg (s.who gid g 0) .read false 0 64 (pbRec1 (s.getBytes (s.who gid g 0) p 128), 64) = .ok
  bytes1 : b1 = if op = .compress then s.getBytes (s.who gid g 0) (pbRec1 (s.getBytes (s.who gid g 0) p 128)) 64 else []
  param : paramOk op (s.getBytes (s.who gid g 0) p 128) ((s.launch (s.team gid.tid).lid).slot slot) = true
  origins0 : paramRec0Ok op (s.getBytes (s.who gid g 0) p 128) slot (Rec.ofBytes b0) = true
  origins1 : op = .compress → paramRec1Ok (s.getBytes (s.who gid g 0) p 128) (Rec.ofBytes b1) = true
  object : pbXb (s.getBytes (s.who gid g 0) p 128) = 0 ∨ s.xbOk gid.tid (pbXb (s.getBytes (s.who gid g 0) p 128)) = true
  filled : rawForm op (s.getBytes (s.who gid g 0) p 128) = true ∨ ((s.launch (s.team gid.tid).lid).slot slot).isEmpty = false
  elems : rawForm op (s.getBytes (s.who gid g 0) p 128) = true ∨ (elemOk op ((s.launch (s.team gid.tid).lid).slot slot) = true ∧
    (Rec.ofBytes b0).slot = slot ∧ (op = .compress → (Rec.ofBytes b1).slot = slot))
  kinds : s.planeMixed op ((s.launch (s.team gid.tid).lid).slot slot) (s.team gid.tid) gid.tid = false
  form0 : (Rec.ofBytes b0).check (if rawForm op (s.getBytes (s.who gid g 0) p 128) then Elem.raw else ((s.launch (s.team gid.tid).lid).slot slot).elemOf)
    (orgOf (pbOrg (s.getBytes (s.who gid g 0) p 128)) 0) op.isDrain = none
  form1 : op = .compress → (Rec.ofBytes b1).check ((s.launch (s.team gid.tid).lid).slot slot).elemOf
    (orgOf (pbOrg1 (s.getBytes (s.who gid g 0) p 128)) 0) true = none
  some0 : (Rec.ofBytes b0).empty = false
  some1 : op = .compress → (Rec.ofBytes b1).empty = false
  shape : s.shapeCheck op (s.getBytes (s.who gid g 0) p 128) ((s.launch (s.team gid.tid).lid).slot slot) (Rec.ofBytes b0) (Rec.ofBytes b1) (s.team gid.tid) gid.tid = none
  rows : rowptr = if op = .spgather then s.i32s { s.who gid g 0 with privSize := 0 } (pbAux0 (s.getBytes (s.who gid g 0) p 128)) (pbSpn (s.getBytes (s.who gid g 0) p 128) + 1) else []
  columns : cols = if op = .spgather then s.i32s { s.who gid g 0 with privSize := 0 } (pbAux1 (s.getBytes (s.who gid g 0) p 128)) ((Rec.ofBytes b0).t 0) else []
  sparse : op = .spgather →
    s.checkTouches { s.who gid g 0 with privSize := 0 } none ((touches op (s.getBytes (s.who gid g 0) p 128) ((s.launch (s.team gid.tid).lid).slot slot)
      (Rec.ofBytes b0) (Rec.ofBytes b1)).filter fun x => x.opnd == 4 || x.opnd == 5) = .ok ∧
    sparseOk (pbSpn (s.getBytes (s.who gid g 0) p 128)) (pbSpk (s.getBytes (s.who gid g 0) p 128)) ((Rec.ofBytes b0).t 0) rowptr cols = true
  credit : g.credits ≠ 0
  runs : s.checkTouches { s.who gid g 0 with privSize := 0 } g.phase
    (touches op (s.getBytes (s.who gid g 0) p 128) ((s.launch (s.team gid.tid).lid).slot slot) (Rec.ofBytes b0) (Rec.ofBytes b1)) = .ok
  taken : s.mxHeld (s.team gid.tid) op (s.getBytes (s.who gid g 0) p 128) = false

end Sys2Proof.Machine
end

