-- ==== Sys2Proof/Certificates/Slice0/Obligations.lean ====
section
/-! DEFINITION. The statements for the provers, from the spec's numbered rules: what every instruction does where it completes, what it leaves as it was, and what the machine keeps. -/

open Sys2Proof Sys2Proof.Machine

/-- R92, R95, R97: sums, differences, negation and magnitude on w-bit words; the saturating forms clamp and count SATURATE; addc and subb deliver carry and borrow. With TY = ptr the second operand of add and sub is an i64. -/
def Obligations.IntegerSums : Prop :=
  ∀ (s : State) (gid : GId) (g : Group) (h : Hd) (a b c : Opnd), Issues s gid g →
    (∀ tb, (h.ty.isI ∧ tb = h.ty) ∨ (h.ty = .ptr ∧ tb = .i64) → Sound s gid g [(h.ty, a), (tb, b)] →
      Gives s gid g h (.add h .wrap a b) h.ty (fun l => opnd s gid g h.ty a l + (opnd s gid g tb b l).setWidth h.ty.bits) noEv ∧
      Gives s gid g h (.sub h .wrap a b) h.ty (fun l => opnd s gid g h.ty a l - (opnd s gid g tb b l).setWidth h.ty.bits) noEv) ∧
    (h.ty.isI → Sound s gid g [(h.ty, a), (h.ty, b), (.i1, c)] →
      let x := opnd s gid g h.ty a
      let y := opnd s gid g h.ty b
      let z := opnd s gid g .i1 c
      let lo : Int := -(2 ^ (h.ty.bits - 1))
      let hi : Int := 2 ^ (h.ty.bits - 1) - 1
      let top : Int := 2 ^ h.ty.bits - 1
      Gives s gid g h (.add h .satS a b) h.ty (fun l => BitVec.ofInt _ (clampInt lo hi ((x l).toInt + (y l).toInt)))
        (fun l => satEv lo hi ((x l).toInt + (y l).toInt)) ∧
      Gives s gid g h (.add h .satU a b) h.ty (fun l => BitVec.ofInt _ (clampInt 0 top ((x l).toNat + (y l).toNat)))
        (fun l => satEv 0 top ((x l).toNat + (y l).toNat)) ∧
      Gives s gid g h (.sub h .satS a b) h.ty (fun l => BitVec.ofInt _ (clampInt lo hi ((x l).toInt - (y l).toInt)))
        (fun l => satEv lo hi ((x l).toInt - (y l).toInt)) ∧
      Gives s gid g h (.sub h .satU a b) h.ty (fun l => BitVec.ofInt _ (clampInt 0 top ((x l).toNat - (y l).toNat)))
        (fun l => satEv 0 top ((x l).toNat - (y l).toNat)) ∧
      Gives s gid g h (.neg h false a) h.ty (fun l => - x l) noEv ∧
      Gives s gid g h (.neg h true a) h.ty (fun l => if x l = BitVec.intMin _ then BitVec.intMax _ else - x l)
        (fun l => if x l = BitVec.intMin _ then Ev.saturate else 0) ∧
      Gives s gid g h (.abs h false a) h.ty (fun l => if (x l).msb then - x l else x l) noEv ∧
      Gives s gid g h (.abs h true a) h.ty (fun l => if x l = BitVec.intMin _ then BitVec.intMax _ else if (x l).msb then - x l else x l)
        (fun l => if x l = BitVec.intMin _ then Ev.saturate else 0) ∧
      Gives2 s gid g h (.addc h a b c) h.ty (fun l => x l + y l + (z l).setWidth _)
        .i1 (fun l => if 2 ^ h.ty.bits ≤ (x l).toNat + (y l).toNat + (z l).toNat then 1 else 0) noEv ∧
      Gives2 s gid g h (.subb h a b c) h.ty (fun l => x l - y l - (z l).setWidth _)
        .i1 (fun l => if (x l).toNat < (y l).toNat + (z l).toNat then 1 else 0) noEv)

/-- R93: the five forms of mul by the exact product, and mad. -/
def Obligations.IntegerProducts : Prop :=
  ∀ (s : State) (gid : GId) (g : Group) (h : Hd) (a b c : Opnd), Issues s gid g → h.ty.isI → Sound s gid g [(h.ty, a), (h.ty, b), (h.ty, c)] →
    let x := opnd s gid g h.ty a
    let y := opnd s gid g h.ty b
    let z := opnd s gid g h.ty c
    let sp (l : Nat) : Int := (x l).toInt * (y l).toInt
    let up (l : Nat) : Nat := (x l).toNat * (y l).toNat
    let lo : Int := -(2 ^ (h.ty.bits - 1))
    let hi : Int := 2 ^ (h.ty.bits - 1) - 1
    let top : Int := 2 ^ h.ty.bits - 1
    Gives s gid g h (.mul h .low a b) h.ty (fun l => x l * y l) noEv ∧
    Gives s gid g h (.mul h .hiS a b) h.ty (fun l => (BitVec.ofInt (2 * h.ty.bits) (sp l)).extractLsb' h.ty.bits h.ty.bits) noEv ∧
    Gives s gid g h (.mul h .hiU a b) h.ty (fun l => (BitVec.ofNat (2 * h.ty.bits) (up l)).extractLsb' h.ty.bits h.ty.bits) noEv ∧
    Gives s gid g h (.mul h .satS a b) h.ty (fun l => BitVec.ofInt _ (clampInt lo hi (sp l))) (fun l => satEv lo hi (sp l)) ∧
    Gives s gid g h (.mul h .satU a b) h.ty (fun l => BitVec.ofInt _ (clampInt 0 top (up l))) (fun l => satEv 0 top (up l)) ∧
    Gives s gid g h (.mad h a b c) h.ty (fun l => x l * y l + z l) noEv

/-- R94: quotient toward zero and remainder of the dividend's sign; a zero divisor gives all ones and the dividend, the most negative number by -1 gives itself and 0, each counting INTDIV; no division faults. -/
def Obligations.IntegerDivision : Prop :=
  ∀ (s : State) (gid : GId) (g : Group) (h : Hd) (un : Bool) (a b : Opnd), Issues s gid g → h.ty.isI → Sound s gid g [(h.ty, a), (h.ty, b)] →
    let x := opnd s gid g h.ty a
    let y := opnd s gid g h.ty b
    let q (l : Nat) : BitVec h.ty.bits := if y l = 0 then BitVec.allOnes _ else if un then x l / y l else (x l).sdiv (y l)
    let m (l : Nat) : BitVec h.ty.bits := if y l = 0 then x l else if un then x l % y l else (x l).srem (y l)
    let e (l : Nat) : Ev := if y l = 0 ∨ (un = false ∧ x l = BitVec.intMin _ ∧ y l = BitVec.allOnes _) then Ev.intdiv else 0
    Gives s gid g h (.div h un a b) h.ty q e ∧
    Gives s gid g h (.rem h un a b) h.ty m e ∧
    Gives2 s gid g h (.divrem h un a b) h.ty q h.ty m e

/-- R96, R102, R103: min and max under each reading, every compare relation on integers and pointers, and selection by an i1. -/
def Obligations.IntegerOrder : Prop :=
  ∀ (s : State) (gid : GId) (g : Group) (h : Hd) (un : Bool) (cc : ICmp) (a b c : Opnd), Issues s gid g → Sound s gid g [(h.ty, a), (h.ty, b), (.i1, c)] →
    let x := opnd s gid g h.ty a
    let y := opnd s gid g h.ty b
    (h.ty.isI →
      Gives s gid g h (.min h un a b) h.ty (fun l => if (if un then (y l).ult (x l) else (y l).slt (x l)) then y l else x l) noEv ∧
      Gives s gid g h (.max h un a b) h.ty (fun l => if (if un then (x l).ult (y l) else (x l).slt (y l)) then y l else x l) noEv) ∧
    (h.ty.isI ∨ h.ty = .ptr → Gives s gid g h (.cmp h cc a b) .i1 (fun l => if cmpHolds cc (x l) (y l) then 1 else 0) noEv) ∧
    (h.ty.isA → exec (.sel h c a b) s = .next (s.finish gid g h (resMask h g)
      [(h.ty, byLane h g fun l => if (opndBits s gid g .i1 c l).getLsbD 0 then opndBits s gid g h.ty a l else opndBits s gid g h.ty b l)] 0))

/-- R98, R99: the bitwise instructions, and shifts and rotations by an unsigned amount of any size. -/
def Obligations.IntegerBits : Prop :=
  ∀ (s : State) (gid : GId) (g : Group) (h : Hd) (a b : Opnd), Issues s gid g → Sound s gid g [(h.ty, a), (h.ty, b)] →
    let x := opnd s gid g h.ty a
    let y := opnd s gid g h.ty b
    (h.ty.isB →
      Gives s gid g h (.and h a b) h.ty (fun l => x l &&& y l) noEv ∧
      Gives s gid g h (.or h a b) h.ty (fun l => x l ||| y l) noEv ∧
      Gives s gid g h (.xor h a b) h.ty (fun l => x l ^^^ y l) noEv ∧
      Gives s gid g h (.andn h a b) h.ty (fun l => x l &&& ~~~ (y l)) noEv ∧
      Gives s gid g h (.not h a) h.ty (fun l => ~~~ (x l)) noEv) ∧
    (h.ty.isI →
      Gives s gid g h (.shl h a b) h.ty (fun l => x l <<< (y l).toNat) noEv ∧
      Gives s gid g h (.shr h false a b) h.ty (fun l => x l >>> (y l).toNat) noEv ∧
      Gives s gid g h (.shr h true a b) h.ty (fun l => (x l).sshiftRight (y l).toNat) noEv ∧
      Gives s gid g h (.rot h false a b) h.ty (fun l => (x l).rotateLeft (y l).toNat) noEv ∧
      Gives s gid g h (.rot h true a b) h.ty (fun l => (x l).rotateRight (y l).toNat) noEv)

/-- R100, R101: the counts by their bits, reversal bit by bit, and the fields that bfx takes out and bfi puts in, clipped to the value. -/
def Obligations.IntegerFields : Prop :=
  ∀ (s : State) (gid : GId) (g : Group) (h : Hd) (a b p n : Opnd), Issues s gid g → h.ty.isI →
    Sound s gid g [(h.ty, a), (h.ty, b), (.i32, p), (.i32, n)] →
    let w := h.ty.bits
    let x := opnd s gid g h.ty a
    let y := opnd s gid g h.ty b
    let pos (l : Nat) : Nat := (opnd s gid g .i32 p l).toNat
    let len (l : Nat) : Nat := clipLen w (pos l) (opnd s gid g .i32 n l).toNat
    Gives s gid g h (.popc h a) h.ty (fun l => BitVec.ofNat _ ((List.range w).filter fun i => (x l).getLsbD i).length) noEv ∧
    (∃ k : Nat → Nat, Gives s gid g h (.clz h a) h.ty (fun l => BitVec.ofNat _ (k l)) noEv ∧
      ∀ l, k l ≤ w ∧ (∀ i, w - k l ≤ i → i < w → (x l).getLsbD i = false) ∧ (k l < w → (x l).getLsbD (w - 1 - k l) = true)) ∧
    (∃ k : Nat → Nat, Gives s gid g h (.ctz h a) h.ty (fun l => BitVec.ofNat _ (k l)) noEv ∧
      ∀ l, k l ≤ w ∧ (∀ i, i < k l → (x l).getLsbD i = false) ∧ (k l < w → (x l).getLsbD (k l) = true)) ∧
    Gives s gid g h (.brev h a) h.ty (fun l => (x l).reverse) noEv ∧
    (∃ f : Nat → BitVec h.ty.bits, Gives s gid g h (.bfx h false a p n) h.ty f noEv ∧
      ∀ l i, i < w → (f l).getLsbD i = (decide (i < len l) && (x l).getLsbD (pos l + i))) ∧
    (∃ f : Nat → BitVec h.ty.bits, Gives s gid g h (.bfx h true a p n) h.ty f noEv ∧
      ∀ l i, i < w → (f l).getLsbD i = (decide (0 < len l) && (x l).getLsbD (pos l + Nat.min i (len l - 1)))) ∧
    (∃ f : Nat → BitVec h.ty.bits, Gives s gid g h (.bfi h a b p n) h.ty f noEv ∧
      ∀ l i, i < w → (f l).getLsbD i = if pos l ≤ i ∧ i < pos l + len l then (y l).getLsbD (i - pos l) else (x l).getLsbD i)

/-- R104, R105, R120, R157: constants, extensions from the operand's own type, truncation, the same bits under another type, and pointers moved by a scaled index modulo 2^64. -/
def Obligations.WidthsAndPointers : Prop :=
  ∀ (s : State) (gid : GId) (g : Group) (h : Hd) (k : W64) (sg : Bool) (sc : BitVec 2) (ac : BitVec 3) (w : Win) (a p : Opnd), Issues s gid g →
    (h.ty.isA → Gives s gid g h (.const h k) h.ty (fun _ => k.setWidth _) noEv) ∧
    (∀ t, t = opndTy g h.ty a → Sound s gid g [(t, a)] →
      (h.ty.isI → t.isI → t.bits < h.ty.bits →
        Gives s gid g h (.ext h sg a) h.ty (fun l => if sg then (opnd s gid g t a l).signExtend _ else (opnd s gid g t a l).setWidth _) noEv) ∧
      (h.ty.isI → t.isI → h.ty.bits < t.bits → Gives s gid g h (.trunc h a) h.ty (fun l => (opnd s gid g t a l).setWidth _) noEv) ∧
      (t.bits = h.ty.bits → Gives s gid g h (.bitcast h a) h.ty (fun l => (opnd s gid g t a l).setWidth _) noEv)) ∧
    (h.ty = .i64 → Sound s gid g [(.ptr, p)] → Gives s gid g h (.ptoi h p) .i64 (opnd s gid g .ptr p) noEv) ∧
    (h.ty = .ptr → Sound s gid g [(.i64, a)] → Gives s gid g h (.itop h a) .ptr (opnd s gid g .i64 a) noEv) ∧
    (h.ty = .ptr → Sound s gid g [(.ptr, p)] →
      Gives s gid g h (.ptrCast h ac w p) .ptr (fun l => BitVec.ofNat 8 (Win.tag w) ++ (opnd s gid g .ptr p l).setWidth 56) noEv) ∧
    (∀ t, t = opndTy g .i64 a → h.ty = .ptr → t.isI → Sound s gid g [(.ptr, p), (t, a)] →
      Gives s gid g h (.ptrIdx h sg sc p a) .ptr
        (fun l => opnd s gid g .ptr p l + ((if sg then (opnd s gid g t a l).signExtend _ else (opnd s gid g t a l).setWidth _) <<< sc.toNat)) noEv)

/-- R106-R108, R115: the rounded arithmetic and the special functions deliver the value of their operation, rounded once into TY; arithmetic by the instruction's rounding code, the special functions to nearest. The exact value a special function rounds is the model's computation of it (log 11). -/
def Obligations.FloatArithmetic : Prop :=
  ∀ (s : State) (gid : GId) (g : Group) (h : Hd) (r : Round) (a b c : Opnd), Issues s gid g → Sound s gid g [(h.ty, a), (h.ty, b), (h.ty, c)] →
    let f := fmtOf h.ty
    let x := fopnd s gid g h a
    let y := fopnd s gid g h b
    let z := fopnd s gid g h c
    (h.ty.isF →
      Delivers s gid g h (.addFloat h r a b) h.ty (fun l => roundedTo f r (addVal r (x l) (y l))) ∧
      Delivers s gid g h (.subFloat h r a b) h.ty (fun l => roundedTo f r (addVal r (x l) (y l).negate)) ∧
      Delivers s gid g h (.mulFloat h r a b) h.ty (fun l => roundedTo f r (mulVal (x l) (y l))) ∧
      Delivers s gid g h (.divFloat h r a b) h.ty (fun l => roundedTo f r (divVal (x l) (y l))) ∧
      Delivers s gid g h (.fma h r a b c) h.ty (fun l => roundedTo f r (fmaVal r (x l) (y l) (z l))) ∧
      Delivers s gid g h (.sqrt h r a) h.ty (fun l => roundedTo f r (sqrtVal (x l)))) ∧
    (h.ty.isH →
      Delivers s gid g h (.rcp h a) h.ty (fun l => roundedTo f .rne (divVal (.fin false 1 1) (x l))) ∧
      Delivers s gid g h (.rsqrt h a) h.ty (fun l => roundedTo f .rne (rsqrtVal (x l))) ∧
      Delivers s gid g h (.exp2 h a) h.ty (fun l => roundedTo f .rne (exp2Val (x l))) ∧
      Delivers s gid g h (.log2 h a) h.ty (fun l => roundedTo f .rne (log2Val (x l))) ∧
      Delivers s gid g h (.sin h a) h.ty (fun l => roundedTo f .rne (sinVal (x l))) ∧
      Delivers s gid g h (.cos h a) h.ty (fun l => roundedTo f .rne (cosVal (x l))) ∧
      Delivers s gid g h (.tanh h a) h.ty (fun l => roundedTo f .rne (tanhVal (x l))) ∧
      Delivers s gid g h (.sigm h a) h.ty (fun l => roundedTo f .rne (sigmVal (x l))))

/-- R106, R107: before the rounding, sum, product, quotient and fused multiply-add of finite values are the exact rationals, and an exact zero sum takes the sign of R57.

R57: a value that a format represents is delivered as itself, whatever the rounding mode, and counts nothing: no NaN, no infinity, of the formats of F. -/
def Obligations.FloatExactValues : Prop :=
  (
  ∀ (r : Round) (na nb nc : Bool) (a da b db c dc : Nat), 0 < da → 0 < db → 0 < dc →
    let x : FVal := .fin na a da
    let y : FVal := .fin nb b db
    let z : FVal := .fin nc c dc
    ((addVal r x y).1.toRat = x.toRat + y.toRat ∧ (addVal r x y).2 = 0) ∧
    ((addVal r x y.negate).1.toRat = x.toRat - y.toRat ∧ (addVal r x y.negate).2 = 0) ∧
    ((mulVal x y).1.toRat = x.toRat * y.toRat ∧ (mulVal x y).1.neg = (na != nb) ∧ (mulVal x y).2 = 0) ∧
    (0 < b → (divVal x y).1.toRat = x.toRat / y.toRat ∧ (divVal x y).1.neg = (na != nb) ∧ (divVal x y).2 = 0) ∧
    ((fmaVal r x y z).1.toRat = x.toRat * y.toRat + z.toRat ∧ (fmaVal r x y z).2 = 0) ∧
    (x.toRat + y.toRat = 0 → (addVal r x y).1.neg = ((na && nb) || decide (r = .rdn)))) ∧
  (
  ∀ (f : Fmt) (r : Round) (x n d : Nat) (neg : Bool), f ∈ formatsF → x < 2 ^ f.bits → f.decode x = .fin neg n d →
    deliver f (.plain r) (f.decode x) = (x, 0))

/-- The special cases of R106, R108 and R115: NaN operands, infinities, zeros, and negative operands of sqrt, rsqrt and log2. -/
def Obligations.FloatSpecialCases : Prop :=
  ∀ (f : Fmt) (r : Round), f ∈ formatsF →
    (∀ x y : FVal, (x.isNan ∨ y.isNan) → ∀ v ∈ [addVal r x y, mulVal x y, divVal x y],
      roundedTo f r v = (f.canonNan, Ev.when (x.isSNan || y.isSNan) Ev.invalid)) ∧
    (∀ n : Bool, roundedTo f r (addVal r (.inf n) (.inf (!n))) = (f.canonNan, Ev.invalid)) ∧
    (∀ (n m : Bool) (d : Nat), roundedTo f r (mulVal (.inf n) (.fin m 0 d)) = (f.canonNan, Ev.invalid) ∧
      roundedTo f r (mulVal (.fin m 0 d) (.inf n)) = (f.canonNan, Ev.invalid) ∧
      roundedTo f r (divVal (.inf n) (.inf m)) = (f.canonNan, Ev.invalid)) ∧
    (∀ (n m : Bool) (d e : Nat), roundedTo f r (divVal (.fin n 0 d) (.fin m 0 e)) = (f.canonNan, Ev.invalid)) ∧
    (∀ (n m : Bool) (k d e : Nat), 0 < k → roundedTo f r (divVal (.fin n k d) (.fin m 0 e)) = (f.infBits (n != m), Ev.divzero)) ∧
    (∀ (n : Bool) (d : Nat), roundedTo f r (sqrtVal (.fin n 0 d)) = (f.signed n 0, 0)) ∧
    (roundedTo f r (sqrtVal (.inf false)) = (f.infBits false, 0)) ∧
    (∀ k d : Nat, 0 < k → ∀ v ∈ [sqrtVal (.fin true k d), sqrtVal (.inf true), rsqrtVal (.fin true k d), rsqrtVal (.inf true), log2Val (.fin true k d), log2Val (.inf true)],
      roundedTo f r v = (f.canonNan, Ev.invalid)) ∧
    (∀ (n : Bool) (d : Nat), roundedTo f .rne (rcpVal (.fin n 0 d)) = (f.infBits n, Ev.divzero) ∧
      roundedTo f .rne (rsqrtVal (.fin n 0 d)) = (f.infBits n, Ev.divzero) ∧
      roundedTo f .rne (log2Val (.fin n 0 d)) = (f.infBits true, Ev.divzero) ∧
      roundedTo f .rne (sinVal (.fin n 0 d)) = (f.signed n 0, 0) ∧ roundedTo f .rne (tanhVal (.fin n 0 d)) = (f.signed n 0, 0)) ∧
    (∀ n : Bool, roundedTo f .rne (rcpVal (.inf n)) = (f.signed n 0, 0) ∧
      roundedTo f .rne (sinVal (.inf n)) = (f.canonNan, Ev.invalid) ∧ roundedTo f .rne (cosVal (.inf n)) = (f.canonNan, Ev.invalid)) ∧
    (roundedTo f .rne (exp2Val (.inf false)) = (f.infBits false, 0) ∧ roundedTo f .rne (exp2Val (.inf true)) = (0, 0) ∧
      roundedTo f .rne (sigmVal (.inf true)) = (0, 0)) ∧
    (∀ (sn : Bool), ∀ v ∈ [sqrtVal (.nan sn), rcpVal (.nan sn), rsqrtVal (.nan sn), exp2Val (.nan sn), log2Val (.nan sn), sinVal (.nan sn), cosVal (.nan sn),
        tanhVal (.nan sn), sigmVal (.nan sn)], roundedTo f r v = (f.canonNan, Ev.when sn Ev.invalid))

/-- R109-R114: the floating instructions that choose, move or test bits. neg, abs and copysign touch the sign bit alone and count nothing; min, max, amax and amin follow the total order of R65 and count INVALID only for a signalling NaN; cmp follows IEEE 754; class counts nothing. -/
def Obligations.FloatChoice : Prop :=
  ∀ (s : State) (gid : GId) (g : Group) (h : Hd) (r : Round) (cc : FCmp) (mask : BitVec 10) (a b ia ib : Opnd), Issues s gid g → h.ty.isF →
    Sound s gid g [(h.ty, a), (.i32, ia), (h.ty, b), (.i32, ib)] →
    let f := fmtOf h.ty
    let x := opnd s gid g h.ty a
    let y := opnd s gid g h.ty b
    let i (l : Nat) : Nat := (opnd s gid g .i32 ia l).toNat
    let j (l : Nat) : Nat := (opnd s gid g .i32 ib l).toNat
    let sign : BitVec h.ty.bits := BitVec.ofNat _ (2 ^ (h.ty.bits - 1))
    let sn (l : Nat) : Ev := Ev.when ((f.decode (x l).toNat).isSNan || (f.decode (y l).toNat).isSNan) Ev.invalid
    let lower (u v : Nat) : Bool := totalLt (f.decode u) (f.decode v)
    let canon (u : Nat) : Nat := if (f.decode u).isNan then f.canonNan else u
    Gives s gid g h (.negFloat h a) h.ty (fun l => x l ^^^ sign) noEv ∧
    Gives s gid g h (.absFloat h a) h.ty (fun l => x l &&& ~~~ sign) noEv ∧
    Gives s gid g h (.copysign h a b) h.ty (fun l => (x l &&& ~~~ sign) ||| (y l &&& sign)) noEv ∧
    Delivers s gid g h (.minFloat h a b) h.ty (fun l => (canon (if lower (y l).toNat (x l).toNat then (y l).toNat else (x l).toNat), sn l)) ∧
    Delivers s gid g h (.maxFloat h a b) h.ty (fun l => (canon (if lower (x l).toNat (y l).toNat then (y l).toNat else (x l).toNat), sn l)) ∧
    Gives s gid g h (.cmpFloat h cc a b) .i1 (fun l => if fcmp cc (f.decode (x l).toNat) (f.decode (y l).toNat) then 1 else 0) sn ∧
    Gives s gid g h (.class h mask a) .i1 (fun l => if mask.getLsbD (classBit f (x l).toNat) then 1 else 0) noEv ∧
    Delivers s gid g h (.rint h r a) h.ty (fun l => rintBits f r (x l).toNat) ∧
    (let bMax (l : Nat) : Bool := lower (x l).toNat (y l).toNat || (!lower (y l).toNat (x l).toNat && decide (j l < i l))
     exec (.amax h a ia b ib) s = .next (s.finish gid g h (resMask h g)
       [(h.ty, byLane h g fun l => BitVec.ofNat 64 (canon (if bMax l then (y l).toNat else (x l).toNat))),
        (.i32, byLane h g fun l => BitVec.ofNat 64 (if bMax l then j l else i l))] (evLanes h g sn))) ∧
    (let bMin (l : Nat) : Bool := lower (y l).toNat (x l).toNat || (!lower (x l).toNat (y l).toNat && decide (j l < i l))
     exec (.amin h a ia b ib) s = .next (s.finish gid g h (resMask h g)
       [(h.ty, byLane h g fun l => BitVec.ofNat 64 (canon (if bMin l then (y l).toNat else (x l).toNat))),
        (.i32, byLane h g fun l => BitVec.ofNat 64 (if bMin l then j l else i l))] (evLanes h g sn)))

/-- R116-R120: conversions by the instruction's mode, or by the slot's where its ELEM is exactly one side; FP4 blocks packed by octets, and their words, scales and elements taken out. An empty or unfitting slot faults before any lane takes effect. That every saturating conversion counts SATURATE is the model's reading (log 14); that FTZ does not flush a band, log 33. -/
def Obligations.Conversions : Prop :=
  ∀ (s : State) (gid : GId) (g : Group) (h : Hd) (r : Round) (sat sg : Bool) (n : BitVec 3) (a b k : Opnd) (band : Option Opnd), Issues s gid g →
    let sl := s.slotOf gid n
    let ta := opndTy g h.ty a
    let tx := opndTy g .f32 a
    let bands : List (Ty × Opnd) := band.toList.map fun o => (.bf16, o)
    let oneSide : Bool := (h.ty.code.toNat == sl.elem) != (ta.code.toNat == sl.elem)
    (Sound s gid g [(ta, a)] →
      Delivers s gid g h (.cvt h r sat sg a) h.ty (fun l =>
        let o := cvtLane ta h.ty ⟨r, sat, false⟩ false sg (opndBits s gid g ta a l)
        (o.a.toNat, o.ev)) ∧
      (sl.isEmpty = false → sl.elem ≠ 13 → oneSide = true →
        Delivers s gid g h (.cvtSlot h n sg a) h.ty (fun l =>
          let o := cvtLane ta h.ty ⟨sl.round, sl.sat, sl.ftz⟩ (sl.sat && h.ty.code.toNat == sl.elem) sg (opndBits s gid g ta a l)
          (o.a.toNat, o.ev)))) ∧
    (sl.isEmpty → ∀ i ∈ [Instr.cvtSlot h n sg a, .q4Pack h n a band, .q4Unpack h n a k band], exec i s = .next (s.fail gid g Code.fmtEmpty)) ∧
    (sl.isEmpty = false → sl.elem = 13 ∨ oneSide = false → exec (.cvtSlot h n sg a) s = .next (s.fail gid g Code.fmtMismatch)) ∧
    (sl.isEmpty = false → sl.elem ≠ 13 → ∀ i ∈ [Instr.q4Pack h n a band, .q4Unpack h n a k band], exec i s = .next (s.fail gid g Code.fmtMismatch)) ∧
    (sl.elem = 13 →
      (Sound s gid g ((tx, a) :: bands) →
        let blk (j : Nat) : Encoded × Ev :=
          if lanes32.any (fun l => g.active.getLsbD l && l / 8 == j) then
            packOctet (fmtOf tx) sl g.active (s.read gid g tx a) (band.map fun o => s.read gid g .bf16 o) j
          else (⟨[], 0, 0⟩, 0)
        Exchanges s gid g h (.q4Pack h n a band) [(.q4, lanes32.map fun l => q4Of (blk (l / 8)).1)] ((blk 0).2 ||| (blk 1).2 ||| (blk 2).2 ||| (blk 3).2)) ∧
      (Sound s gid g ([(.q4, a), (.i32, k)] ++ bands) →
        Delivers s gid g h (.q4Unpack h n a k band) h.ty fun l =>
          let q := opnd s gid g .q4 a l
          let m : FVal := match band with
            | some o => bandVal (opnd s gid g .bf16 o l).toNat
            | none => .fin false 1 1
          let v := q4Elem (q.toNat % 2 ^ 32) (q.toNat / 2 ^ 32) ((opnd s gid g .i32 k l).toNat % 8) m
          let d := cvtDeliver (fmtOf h.ty) ⟨sl.round, sl.sat, sl.ftz⟩ false v.1
          (d.1, d.2 ||| v.2))) ∧
    (Sound s gid g [(.i32, a), (.i16, b)] →
      Gives s gid g h (.q4Make h a b) .q4 (fun l => (opnd s gid g .i16 b l).setWidth 12 ++ opnd s gid g .i32 a l) noEv) ∧
    (Sound s gid g [(.q4, a)] →
      Gives s gid g h (.q4Elem h a) .i32 (fun l => (opnd s gid g .q4 a l).setWidth 32) noEv ∧
      Gives s gid g h (.q4Scale h a) .i16 (fun l => ((opnd s gid g .q4 a l).extractLsb' 32 12).setWidth 16) noEv)

/-- R59, R117: a float converted to an integer type is rounded by the mode and clamped to the target's range; a NaN gives 0 and counts INVALID, a clamp counts SATURATE. That every clamp counts SATURATE is the model's reading (log 14). -/
def Obligations.FloatToInteger : Prop :=
  ∀ (fa : Fmt) (ta t : Ty) (r : Round) (sg : Bool) (x : Lane), Fmt.ofTy ta = some fa → t.isI →
    let lo : Int := if sg then -(2 ^ (t.bits - 1)) else 0
    let hi : Int := if sg then 2 ^ (t.bits - 1) - 1 else 2 ^ t.bits - 1
    let v := fval fa x
    let o := cvtLane ta t ⟨r, false, false⟩ false sg x
    (v.isNan → o.a = 0 ∧ o.ev = Ev.invalid) ∧
    (v = .inf false → o.a = (BitVec.ofInt t.bits hi).setWidth 64 ∧ o.ev = Ev.saturate) ∧
    (v = .inf true → o.a = (BitVec.ofInt t.bits lo).setWidth 64 ∧ o.ev = Ev.saturate) ∧
    (∀ neg n d, v = .fin neg n d → ∃ k : Int, roundsToInt r v.toRat k ∧ o.a = (BitVec.ofInt t.bits (clampInt lo hi k)).setWidth 64 ∧ o.ev = satEv lo hi k)

/-- R121-R127: the exchange instructions read the copies of the group's active lanes as they stood and deliver to every active lane.

R64, R124, R125: over the four integer types the wrapping sum of xred in every lane is the sum of the active lanes' values, and the inclusive scan's last active lane holds it too. -/
def Obligations.LaneExchange : Prop :=
  (
  ∀ (s : State) (gid : GId) (g : Group) (h : Hd) (m : ShflMode) (excl mn : Bool) (c : Combine) (a b : Opnd), Issues s gid g → g.active ≠ 0 →
    let act (l : Nat) : Bool := g.active.getLsbD l
    let src (l : Nat) : Option Nat :=
      let n := (opnd s gid g .i32 b l).toNat
      match m with
      | .idx => some (n % 32)
      | .up => if l < n then none else some (l - n)
      | .down => if 31 < l + n then none else some (l + n)
      | .xor => some (l ^^^ (n % 32))
    let set (l : Nat) : Bool := (opndBits s gid g .i1 a l).getLsbD 0
    let yes (p : Bool) : List Lane := List.replicate 32 (if p then 1 else 0)
    let canon (x : Lane) : Lane := match Fmt.ofTy h.ty with
      | some f => BitVec.ofNat 64 (if (fval f x).isNan then f.canonNan else fbits f x)
      | none => x
    (Sound s gid g [(h.ty, a), (.i32, b)] →
      Exchanges s gid g h (.shfl h m a b) [(h.ty, lanes32.map fun l => match src l with
        | some k => if act k then opndBits s gid g h.ty a k else opndBits s gid g h.ty a l
        | none => opndBits s gid g h.ty a l)] 0) ∧
    (Sound s gid g [(.i1, a)] →
      Exchanges s gid g h (.vote h .any a) [(h.ty, yes (lanes32.any fun l => act l && set l))] 0 ∧
      Exchanges s gid g h (.vote h .all a) [(h.ty, yes (lanes32.all fun l => !act l || set l))] 0 ∧
      Exchanges s gid g h (.vote h .eq a) [(h.ty, yes ((lanes32.all fun l => !act l || set l) || (lanes32.all fun l => !act l || !set l)))] 0 ∧
      (∃ w : BitVec 32, Exchanges s gid g h (.vote h .ballot a) [(h.ty, List.replicate 32 (w.setWidth 64))] 0 ∧
        ∀ l, l < 32 → w.getLsbD l = (act l && set l))) ∧
    (Sound s gid g [(h.ty, a)] →
      (∃ out e, Exchanges s gid g h (.scan h excl c a) [(h.ty, out)] e ∧
        (out.getD (lowest g.active) 0 = if excl then combineId h.ty c else canon (opndBits s gid g h.ty a (lowest g.active)))) ∧
      (∃ out e, Exchanges s gid g h (.xred h c a) [(h.ty, out)] e ∧ out.length = 32 ∧
        ∀ l, l < 32 → g.active = (1 : Mask) <<< l → out.getD l 0 = canon (opndBits s gid g h.ty a l)) ∧
      Exchanges s gid g h (.first h a) [(h.ty, List.replicate 32 (opndBits s gid g h.ty a (lowest g.active)))] 0) ∧
    (Sound s gid g [(h.ty, a), (.i32, b)] → ∃ vs is e, Exchanges s gid g h (.xamax h mn a b) [(h.ty, vs), (.i32, is)] e ∧ vs.length = 32 ∧ is.length = 32) ∧
    Exchanges s gid g h (.active h) [(.i32, List.replicate 32 (g.active.setWidth 64))] 0) ∧
  (
  ∀ (s : State) (gid : GId) (g : Group) (h : Hd) (a : Opnd), Issues s gid g → h.ty.isI → Sound s gid g [(h.ty, a)] → g.active ≠ 0 →
    let total : BitVec h.ty.bits := (lanesOf g.active).foldl (fun t l => t + opnd s gid g h.ty a l) 0
    (∃ out, Exchanges s gid g h (.xred h .add a) [(h.ty, out)] 0 ∧ ∀ l, l < 32 → g.active.getLsbD l → (laneAt out l).setWidth h.ty.bits = total) ∧
    (∃ out, Exchanges s gid g h (.scan h false .add a) [(h.ty, out)] 0 ∧
      ∀ l, g.active.getLsbD l → (∀ k, l < k → g.active.getLsbD k = false) → (laneAt out l).setWidth h.ty.bits = total))

/-- R145, R146, R150, R153, R154: a load completes when every active lane passes its checks: each active lane takes the little-endian value at its address, the pointer plus the signed byte offset, or the base plus the extended index times the scale. That the bytes are those at home at once is the model's order (log 8). -/
def Obligations.Loads : Prop :=
  ∀ (s : State) (gid : GId) (g : Group) (h : Hd) (ac : BitVec 3) (acq : Bool) (sc : Scope) (p i : Opnd) (off : W32) (width : BitVec 2) (sg : Bool) (x : GScale),
    Issues s gid g → h.ty.isA → Calm s gid g → Sound s gid g [(.ptr, p), (gIdxTy width, i)] →
    let ptr (l : Nat) : W64 := opnd s gid g .ptr p l
    let idx (l : Nat) : W64 := if sg then (opnd s gid g (gIdxTy width) i l).signExtend 64 else (opnd s gid g (gIdxTy width) i l).setWidth 64
    let done (addr : Nat → W64) (e : Instr) : Prop :=
      let as := (lanesOf g.active).map fun l => (l, addr l)
      s.checkLanes gid g .read (Ty.memSize h.ty) false as = .ok → s.poisonLanes gid g as = none →
      exec e s = .next ((s.devTouch (s.who gid g 0).job (globals as)).finish gid g h g.active
        [(h.ty, lanes32.map fun l => if g.active.getLsbD l then s.valueAt (s.who gid g l) h.ty (addr l) else 0)] 0)
    done ptr (.ld h ac acq sc p) ∧
    done (fun l => ptr l + off.signExtend 64) (.ldk h ac acq sc p off) ∧
    done (fun l => ptr l + idx l * BitVec.ofNat 64 (match x with
      | .x1 => 1
      | .x2 => 2
      | .x4 => 4
      | .x8 => 8
      | .elem => Ty.memSize h.ty)) (.gather h ac width sg x p i)

/-- R146, R151, R153, R154: a store completes when every active lane passes its checks: the lanes' values are written in ascending lane order at their addresses, the group goes on, and every byte outside those written reads as before; no register, counter or other group changes.

R8, R145: what bytes written one after another hold: the byte at a spot is the last byte of the list that goes there, or what it was. A value written to scratch, or to global memory whose tables it does not touch, reads back as its low bits. That the bytes land at home at once, lanes in ascending order, is the model's order (log 8). -/
def Obligations.Stores : Prop :=
  (
  ∀ (s : State) (gid : GId) (g : Group) (h : Hd) (ac : BitVec 3) (rel : Bool) (sc : Scope) (p i v : Opnd) (off : W32) (width : BitVec 2) (sg : Bool) (x : GScale),
    Issues s gid g → h.ty.isA → Calm s gid g → Sound s gid g [(.ptr, p), (gIdxTy width, i), (h.ty, v)] → g.nat.on = false →
    let ptr (l : Nat) : W64 := opnd s gid g .ptr p l
    let idx (l : Nat) : W64 := if sg then (opnd s gid g (gIdxTy width) i l).signExtend 64 else (opnd s gid g (gIdxTy width) i l).setWidth 64
    let val := opndBits s gid g h.ty v
    let done (addr : Nat → W64) (e : Instr) : Prop :=
      let as := (lanesOf g.active).map fun l => (l, addr l)
      s.checkLanes gid g .write (Ty.memSize h.ty) false as = .ok →
      ∃ t, exec e s = .next t ∧
        (∀ q : Spot, t.at q = (s.storeLanes gid g h.ty val as).at q) ∧
        (∀ q : Spot, q ∉ s.laneSpots gid g h.ty val as → t.at q = s.at q) ∧
        t.group gid = some (g.setFrame { g.frame with word := s.npc }) ∧ (h.ce = false → t.cur = s.cur ∧ t.agenda = s.agenda) ∧
        (h.ce = true → t.cur = none ∧ t.agenda = .courseEnd gid :: s.agenda) ∧
        (∀ gid', gid' ≠ gid → t.group gid' = s.group gid') ∧ t.boot = s.boot ∧ t.dsp = s.dsp ∧ t.cores = s.cores ∧ t.dies = s.dies ∧ t.fresh = s.fresh
    done ptr (.st h ac rel sc p v) ∧
    done (fun l => ptr l + off.signExtend 64) (.stk h ac rel sc p v off) ∧
    done (fun l => ptr l + idx l * BitVec.ofNat 64 (match x with
      | .x1 => 1
      | .x2 => 2
      | .x4 => 4
      | .x8 => 8
      | .elem => Ty.memSize h.ty)) (.scatter h ac width sg x p i v)) ∧
  (
  ∀ (s : State) (w : Who) (a : W64) (ty : Ty) (v : Lane),
    (∀ b q, (s.putByte w a b).at q = if s.spot w a = some q then b else s.at q) ∧
    (winOf a = .scratch → a.toNat % 2 ^ 56 + 8 ≤ 2 ^ 56 → (s.putBytes w a (toMem ty v)).valueAt w ty a = BitVec.ofNat 64 (v.toNat % 2 ^ ty.bits)) ∧
    (∀ fa, winOf a = .global → w.map = [] → a.toNat + 8 ≤ 2 ^ 52 → TablesApart s w.job a (Ty.memSize ty) fa →
      (s.putBytes w a (toMem ty v)).valueAt w ty a = BitVec.ofNat 64 (v.toNat % 2 ^ ty.bits)))


/-- R147: a memory instruction checks its lanes in ascending order before any takes effect, and the lowest failing lane gives the fault: the group stops with that code, that lane, and for class 1 the address; nothing is loaded or stored. The order of the checks of one lane is the order of the codes below.

R407: an instruction whose operand is lost stops its group with DATA_LOSS at the instruction, naming the physical line and the value, and delivers nothing. -/
def Obligations.AccessFaults : Prop :=
  (
  ∀ (s : State) (gid : GId) (g : Group) (h : Hd) (ac : BitVec 3) (acq : Bool) (sc : Scope) (p v : Opnd),
    Issues s gid g → Calm s gid g → Sound s gid g [(.ptr, p), (h.ty, v)] →
    let n := Ty.memSize h.ty
    let as : List (Nat × W64) := (lanesOf g.active).map fun l => (l, opnd s gid g .ptr p l)
    let stop (code lane : Nat) (a : W64) : State := s.raise gid g code (BitVec.ofNat 32 lane) (if Code.cls code = 1 then a else 0) 0
    (∀ code lane a, s.checkLanes gid g .read n false as = .fault code lane a → exec (.ld h ac acq sc p) s = .next (stop code lane a)) ∧
    (∀ code lane a, s.checkLanes gid g .write n false as = .fault code lane a → exec (.st h ac acq sc p v) s = .next (stop code lane a)) ∧
    (∀ acc code lane a, s.checkLanes gid g acc n false as = .fault code lane a →
      ∃ pre post, as = pre ++ (lane, a) :: post ∧ s.checkLane gid g acc n false lane a = .fault code ∧ ∀ q ∈ pre, s.checkLane gid g acc n false q.1 q.2 = .ok) ∧
    (∀ (w : Who) acc a, 0 < n →
      (winOf a = .none → s.check14 w acc a n n = some Code.addrWindow) ∧
      (winOf a ≠ .none → s.winSize w (winOf a) < offOf a + n → s.check14 w acc a n n = some Code.addrRange) ∧
      (winOf a ≠ .none → offOf a + n ≤ s.winSize w (winOf a) → a.toNat % n ≠ 0 → s.check14 w acc a n n = some Code.addrAlign) ∧
      (winOf a = .const → offOf a + n ≤ s.winSize w .const → a.toNat % n = 0 → acc ≠ .read → s.check14 w acc a n n = some Code.addrWrite) ∧
      (winOf a ≠ .none → offOf a + n ≤ s.winSize w (winOf a) → a.toNat % n = 0 → (winOf a ≠ .const ∨ acc = .read) → s.check14 w acc a n n = none))) ∧
  (
  ∀ (s : State) (gid : GId) (g : Group) (h : Hd) (a b : Opnd) (line num : Nat) (r : Round) (ac : BitVec 3) (sc : Scope), Issues s gid g →
    let stop (d0 d1 : Nat) : State := s.raise gid g Code.dataLoss 0xFFFFFFFF (BitVec.ofNat 64 d0) (BitVec.ofNat 32 d1)
    ((s.read gid g h.ty a).lost = some (line, num) →
      ∀ i ∈ [Instr.add h .wrap a b, .and h a b, .mul h .low a b, .popc h a, .addFloat h r a b, .sqrt h r a, .first h a], exec i s = .next (stop line num)) ∧
    ((s.read gid g .ptr a).lost = some (line, num) → Calm s gid g →
      ∀ i ∈ [Instr.ld h ac false sc a, .st h ac false sc a b, .prefetch h ac .l2 a], exec i s = .next (stop line num)))

/-- R158: the new value of each atomic operation over the old value and the operand, read as words of TY's width.

R151, R158, R160: atom and cas of one active lane that passes its checks deliver the old value; atom writes the operation's new value, cas the new operand where the old bits equal the expected ones, else nothing. That the operation acts at home at once is the model's order (log 8). -/
def Obligations.AtomicOperations : Prop :=
  (
  ∀ (ty : Ty) (old x : Lane), ty.isI →
    let o : BitVec ty.bits := old.setWidth _
    let u : BitVec ty.bits := x.setWidth _
    let new (op : AtomOp) (r : BitVec ty.bits) : Prop := (rmw op ty old x).a = r.setWidth 64 ∧ (rmw op ty old x).ev = 0
    new .add (o + u) ∧
    new .minS (if u.slt o then u else o) ∧
    new .minU (if u.ult o then u else o) ∧
    new .maxS (if o.slt u then u else o) ∧
    new .maxU (if o.ult u then u else o) ∧
    new .and (o &&& u) ∧
    new .or (o ||| u) ∧
    new .xor (o ^^^ u) ∧
    new .xchg u ∧
    new .incw (if u.ule o then 0 else o + 1) ∧
    new .decw (if o = 0 ∨ u.ult o then u else o - 1)) ∧
  (
  ∀ (s : State) (gid : GId) (g : Group) (h : Hd) (ac : BitVec 3) (op : AtomOp) (ord : Order) (sc : Scope) (p x y : Opnd) (l : Nat),
    Issues s gid g → Calm s gid g → Sound s gid g [(.ptr, p), (h.ty, x), (h.ty, y)] → lanesOf g.active = [l] →
    let a := opnd s gid g .ptr p l
    let w := s.who gid g l
    let old := s.valueAt w h.ty a
    let done (u : State) (e : Ev) : State :=
      (u.devTouch (s.who gid g 0).job (globals [(l, a)])).finish gid g h g.active [(h.ty, lanes32.map fun k => if k = l then old else 0)] e
    let val (o : Opnd) : Lane := opndBits s gid g h.ty o l
    h.ty.isI ∨ h.ty.isH → s.checkLanes gid g .rw (Ty.memSize h.ty) false [(l, a)] = .ok → s.poisonLanes gid g [(l, a)] = none →
    exec (.atom h ac op ord sc p x) s = .next (done (s.putBytes w a (toMem h.ty (rmw op h.ty old (val x)).a)) (rmw op h.ty old (val x)).ev) ∧
    exec (.cas h ac ord sc p x y) s =
      .next (done (if old.setWidth h.ty.bits = (val x).setWidth h.ty.bits then s.putBytes w a (toMem h.ty (val y)) else s) 0))

/-- R159, R162: red leaves one reduction a lane to be performed later, oldest first, and the group goes on; a reduction performed writes its new value and counts the events that no earlier lane of its instruction has counted, and one that fails is logged and writes nothing. A relaxed red needs no earlier one performed. That they are performed oldest first is the model's order (log 8). -/
def Obligations.Reductions : Prop :=
  ∀ (s : State) (gid : GId) (g : Group) (h : Hd) (ac : BitVec 3) (op : AtomOp) (sc : Scope) (p x : Opnd), Issues s gid g → Sound s gid g [(.ptr, p), (h.ty, x)] →
    let as : List (Nat × W64) := (lanesOf g.active).map fun l => (l, opnd s gid g .ptr p l)
    let red (l : Nat) (a : W64) : Red :=
      ⟨a, l, gid.g, op, h.ty, opndBits s gid g h.ty x l, ac, (s.who gid g l).job, (s.team gid.tid).redSeq⟩
    let t := s.team gid.tid
    (∀ r ∈ t.reds, r.seq < t.redSeq) ∧
    (∀ o, (o = .relaxed ∨ Calm s gid g) → s.checkLanes gid g .rw (Ty.memSize h.ty) true as = .ok →
      exec (.red h ac op o sc p x) s = .next ((s.setTeam gid.tid { t with reds := t.reds ++ as.map fun q => red q.1 q.2 }).advance gid g h.ce)) ∧
    (∀ tid r rs, (s.team tid).reds = r :: rs →
      let w : Who := ⟨r.job, tid, r.g, r.lane, (s.launch (s.team tid).lid).priv, []⟩
      let counted (m : SMap Ev) : SMap Ev := if rs.any (fun q => q.seq == r.seq) then m else SMap.put 0 m r.seq 0
      let drop (u : State) : State := u.setTeam tid { u.team tid with reds := (u.team tid).reds.erase r, redEvs := counted (u.team tid).redEvs }
      let chk := s.checkPages r.job .rw false (pagesOf r.addr.toNat (Ty.memSize r.ty))
      (∀ c, winOf r.addr = .global → chk = .fault c →
        exec (.redPerform tid) s = .next (drop (s.logAsync tid 0 ⟨r.addr, r.x, c, r.op.code, r.lane, r.g, (s.team tid).idx⟩))) ∧
      (winOf r.addr ≠ .global ∨ chk = .ok → s.poisonAt w r.addr = none →
        let new := rmw r.op r.ty (s.valueAt w r.ty r.addr) r.x
        let u := (s.putBytes w r.addr (toMem r.ty new.a)).devTouch r.job (globals [(r.lane, r.addr)])
        let seen := SMap.get 0 (s.team tid).redEvs r.seq
        exec (.redPerform tid) s =
          .next (drop ((u.setTeam tid { u.team tid with redEvs := SMap.put 0 (u.team tid).redEvs r.seq (seen ||| new.ev) }).countEv ⟨tid, r.g⟩ (new.ev &&& ~~~seen)))))

/-- R155, R156, R162, R163: a fence, a prefetch and an export touch no byte. A fence completes once nothing of the group waits or is logged, and a logged failure stops it; a prefetch never faults; an export of a private pointer gives its address in the job's export area, and leaves any other pointer as it is. What a prefetch leaves in the replica directory and the TLBs is seen by no byte (log 8). -/
def Obligations.FencesPrefetchesAndExports : Prop :=
  ∀ (s : State) (gid : GId) (g : Group) (h : Hd) (ac : BitVec 3) (ord : Order) (sc : Scope) (f : PfForm) (p : Opnd), Issues s gid g →
    (Calm s gid g → exec (.fence h ord sc) s = .next (s.advance gid g h.ce)) ∧
    (∀ c, ((s.team gid.tid).reds.filter fun r => r.g == gid.g) = [] → s.asyncCode gid g = some c → exec (.fence h ord sc) s = .next (s.fail gid g c)) ∧
    (Sound s gid g [(.ptr, p)] → ∃ tlb reps, exec (.prefetch h ac f p) s =
      .next (({ s with pln := { s.pln with tlb := s.pln.tlb ++ tlb, replicas := s.pln.replicas ++ reps } } : State).advance gid g h.ce) ∧
      (f = .xlat → reps = []) ∧ (f ≠ .xlat → tlb = [])) ∧
    (let la := s.launch (s.team gid.tid).lid
     let a (l : Nat) : W64 := opnd s gid g .ptr p l
     Sound s gid g [(.ptr, p)] → (∀ l ∈ lanesOf g.active, winOf (a l) = .priv → la.exportOk = true ∧ offOf (a l) < (s.who gid g l).privSize) →
      exec (.ptrExport h ac p) s = .next (s.finish gid g h g.active [(.ptr, lanes32.map fun l =>
        if winOf (a l) = .priv then BitVec.ofNat 64 (la.expBase + (((s.team gid.tid).idx * la.groups + gid.g) * 32 + l) * la.priv + offOf (a l)) else a l)] 0))

/-- R26, R33, R89, R407: what every instruction that only computes leaves as it was. When one of them answers a next state and none of its operands is lost, nothing changes but its own group, the issuing group, the agenda and the free-value counter: all memory, every other group, every register and counter stay. The agenda and the free-value counter are the model's own fields (logs 1 and 4). -/
def Obligations.ComputingLeavesTheRest : Prop :=
  ∀ (s t : State) (gid : GId) (g : Group) (h : Hd) (i : Instr) (a b c d : Opnd) (m : SatMode) (mm : MulMode) (un : Bool) (cc : ICmp) (fc : FCmp) (k : W64)
    (r : Round) (sm : ShflMode) (vm : VoteMode) (cb : Combine) (pos : BitVec 2),
    Issues s gid g → (∀ ty, ∀ o ∈ [a, b, c, d], (s.read gid g ty o).lost = none) → exec i s = .next t →
    i ∈ [Instr.add h m a b, .sub h m a b, .mul h mm a b, .mad h a b c, .div h un a b, .divrem h un a b, .rem h un a b, .neg h un a, .abs h un a,
      .min h un a b, .max h un a b, .addc h a b c, .subb h a b c, .and h a b, .or h a b, .xor h a b, .andn h a b, .not h a, .shl h a b, .shr h un a b,
      .rot h un a b, .popc h a, .clz h a, .ctz h a, .brev h a, .bfx h un a b c, .bfi h a b c d, .cmp h cc a b, .sel h a b c, .const h k, .ext h un a,
      .trunc h a, .ptoi h a, .itop h a, .ptrIdx h un pos a b, .addFloat h r a b, .subFloat h r a b, .mulFloat h r a b, .fma h r a b c, .divFloat h r a b,
      .sqrt h r a, .rcp h a, .rsqrt h a, .minFloat h a b, .maxFloat h a b, .negFloat h a, .absFloat h a, .copysign h a b, .cmpFloat h fc a b, .rint h r a,
      .exp2 h a, .log2 h a, .sin h a, .cos h a, .tanh h a, .sigm h a, .amax h a b c d, .amin h a b c d, .cvt h r un un a, .q4Make h a b, .q4Elem h a,
      .q4Scale h a, .bitcast h a, .shfl h sm a b, .vote h vm a, .scan h un cb a, .xred h cb a, .xamax h un a b, .first h a, .active h] →
    OnlyGroup s t gid ∧ (∀ q : Spot, t.at q = s.at q) ∧ t.ok = s.ok

/-- R26, R33, R37, R67: what delivering a result does, outside native code: the value takes the new copies in the lanes named and keeps the others, no other value of the frame changes, the point moves to the next word, the course counts the events, and with CE the course ends. -/
def Obligations.ResultsLandInTheirValues : Prop :=
  ∀ (s : State) (gid : GId) (g : Group) (h : Hd) (m : Mask) (ty : Ty) (xs : List Lane) (e : Ev),
    s.group gid = some g → g.nat.on = false → h.dst = .flinal →
    let t := s.finish gid g h m [(ty, xs)] e
    let n := s.defNum gid g
    ∃ g', t.group gid = some g' ∧
      (let v := SMap.get Val.undef g'.frame.vals n
       v.ty = ty ∧ v.lost = none ∧
         ∀ l, l < 32 → laneAt v.lanes l = if m.getLsbD l then laneAt xs l else laneAt (SMap.get Val.undef g.frame.vals n).lanes l) ∧
      (∀ k, k ≠ n → SMap.get Val.undef g'.frame.vals k = SMap.get Val.undef g.frame.vals k) ∧
      g'.frame.word = s.npc ∧ g'.frame.func = g.frame.func ∧ g'.frame.block = g.frame.block ∧ g'.frames.drop 1 = g.frames.drop 1 ∧
      g'.active = g.active ∧ g'.ended = g.ended ∧ g'.div = g.div ∧ g'.nat = g.nat ∧ g'.status = g.status ∧ g'.saved = g.saved ∧ g'.waits = g.waits ∧
      (∀ c, c < 8 → g'.evs.getD c 0 = g.evs.getD c 0 + (if e.getLsbD c then 1 else 0)) ∧
      (h.ce = true → t.cur = none ∧ t.agenda = .courseEnd gid :: s.agenda) ∧ (h.ce = false → t.cur = s.cur ∧ t.agenda = s.agenda)

/-- R132-R134: br, a cbr whose active lanes agree or whose targets are one block, and a switch whose active lanes agree, jump with the same active lanes and pass the target's arguments, those of the `args` words first; the branch ends the course. The target is not the reconvergence point of the top entry.

R131: `blk` and `args` have no effect when they execute: only the point moves, past a `blk` into its block (a block without a terminator falls through, log 17). -/
def Obligations.UniformBranchesJump : Prop :=
  (
  ∀ (s : State) (gid : GId) (g : Group) (target bt bf dflt base : BitVec 16) (n nt nf : BitVec 5) (cases : BitVec 10) (c : Opnd) (own : List Opnd),
    Issues s gid g → g.active ≠ 0 → Sound s gid g [(.i1, c), (.i32, c)] →
    let bs := s.blocksAt gid g
    let ops := s.branchOps gid g own
    let cond (l : Nat) : Bool := (opndBits s gid g .i1 c l).getLsbD 0
    let sel (l : Nat) : Nat := (opnd s gid g .i32 c l).toNat
    let goes (i : Instr) (b : Nat) (args : List Opnd) : Prop :=
      g.top.map DivEntry.p ≠ some b → ∀ blk, bs[b]? = some blk →
        ∃ g', exec i s = .next ((s.setGroup gid g').endCourse gid) ∧ WentTo g g' bs b g.active ∧ ArgsPassed s gid g g' blk g.active args ∧ g'.div = g.div
    goes (.br target n own) target.toNat ops ∧
    ((∀ l, l < 32 → g.active.getLsbD l → cond l = true) → goes (.cbr c bt bf nt nf own) bt.toNat (ops.take nt.toNat)) ∧
    (bt ≠ bf → (∀ l, l < 32 → g.active.getLsbD l → cond l = false) → goes (.cbr c bt bf nt nf own) bf.toNat (ops.drop nt.toNat)) ∧
    (∀ k, k < cases.toNat → (∀ l, l < 32 → g.active.getLsbD l → sel l = k) → goes (.switch c dflt base cases) (base.toNat + k) []) ∧
    ((∀ l, l < 32 → g.active.getLsbD l → cases.toNat ≤ sel l) → goes (.switch c dflt base cases) dflt.toNat [])) ∧
  (
  ∀ (s : State) (gid : GId) (g : Group) (tys : List Ty) (vals : List Opnd), Issues s gid g → g.nat.on = false →
    let here : Nat := ((s.blocksAt gid g).findIdx? fun b => b.word == g.frame.word).getD g.frame.block
    let moves (i : Instr) (b : Nat) : Prop :=
      ∃ t, exec i s = .next t ∧ t.group gid = some (g.setFrame { g.frame with word := s.npc, block := b }) ∧
        OnlyGroup s t gid ∧ t.cur = s.cur ∧ t.agenda = s.agenda ∧ ∀ q : Spot, t.at q = s.at q
    moves (.blk tys) here ∧ moves (.args vals) g.frame.block)

/-- R133, R135, R136: a cbr whose lanes part, with neither target the reconvergence point P of its block, pushes an entry for P, runs the lower target block first with its lanes, and leaves the other pending; with 32 entries held it raises DIV_DEPTH and no lane moves. -/
def Obligations.DivergentBranchesRunTheLowerBlockFirst : Prop :=
  ∀ (s : State) (gid : GId) (g : Group) (bt bf : BitVec 16) (nt nf : BitVec 5) (c : Opnd) (own : List Opnd),
    Issues s gid g → Sound s gid g [(.i1, c)] →
    let bs := s.blocksAt gid g
    let p := ipdom (cfg (items (s.wordsOf gid g g.frame.func))) g.frame.block
    let cond (l : Nat) : Bool := (opndBits s gid g .i1 c l).getLsbD 0
    let mt := maskOf ((lanesOf g.active).filter cond)
    let mf := g.active &&& ~~~ mt
    bt ≠ bf → mt ≠ 0 → mf ≠ 0 → g.top.map DivEntry.p ≠ some p →
    (g.div.length = 32 → exec (.cbr c bt bf nt nf own) s = .next (s.fail gid g Code.divDepth)) ∧
    (g.div.length < 32 → bt.toNat ≠ p → bf.toNat ≠ p →
      ∃ g', exec (.cbr c bt bf nt nf own) s = .next ((s.setGroup gid g').endCourse gid) ∧
        WentTo g g' bs (Nat.min bt.toNat bf.toNat) (if bt.toNat < bf.toNat then mt else mf) ∧
        g'.div = ⟨p, g.depth, 0, [if bt.toNat < bf.toNat then (bf.toNat, mf) else (bt.toNat, mt)]⟩ :: g.div) ∧
    (g.div.length < 32 → bt.toNat ≠ p → bf.toNat = p →
      ∃ g', exec (.cbr c bt bf nt nf own) s = .next ((s.setGroup gid g').endCourse gid) ∧ WentTo g g' bs bt.toNat mt ∧
        g'.div = ⟨p, g.depth, mf, []⟩ :: g.div)

/-- R139, R140, R236: a call whose entry is found starts the callee at its block 0 with the caller's active lanes, its arguments those of the `args` words and the call, or raises SPILL_OVERFLOW when its frame does not fit; a ret with no entry of its frame open returns to the caller, whose results take the returned values, and goes on after the call with the lanes that returned. The frame sizes are those of the model's translation (log 9). -/
def Obligations.CallsAndReturns : Prop :=
  ∀ (s s1 : State) (gid : GId) (g : Group) (h : Hd) (two : Bool) (callee : BitVec 16) (n : BitVec 5) (own : List Opnd) (id : Nat) (v : Opnd) (w : Option Opnd),
    Issues s gid g →
    let f := callee.toNat
    let g1 : Group := { g with got := none }
    (s.lookup gid g (s.keyOf gid g f noResume) = (.hit id, s1) → g.frames ≠ [] →
      if 262144 < (g.nat.scalar 0).toNat + s1.stackBytes gid g1 g1.frames + 16 + s1.frameBytes gid g1 f then exec (.call h two callee n own) s = .next (s1.fail gid g1 0x000C) else
      ∃ g2 fr, exec (.call h two callee n own) s = .next ((s1.setGroup gid g2).endCourse gid) ∧
        g2.frames = fr :: { g.frame with word := s1.npc } :: g.frames.drop 1 ∧ fr.func = f ∧ fr.word = 0 ∧ fr.block = 0 ∧ fr.dest = s1.defNum gid g1 ∧
        g2.active = g.active ∧ g2.div = g.div ∧ g2.ended = g.ended ∧
        (∀ b rest, blocksOf (items (s1.wordsOf gid g1 f)) = b :: rest → ∀ k o t, (s1.branchOps gid g1 own)[k]? = some o → b.tys[k]? = some t →
          ∀ l, l < 32 → g.active.getLsbD l → laneAt (SMap.get Val.undef fr.vals k).lanes l = opndBits s1 gid g1 t o l)) ∧
    (∀ fr c rest, g.frames = fr :: c :: rest → g.top = none → g.active ≠ 0 →
      (fr.rets = [] → ∃ g', exec .ret s = .next ((s.setGroup gid g').endCourse gid) ∧
        g'.frames = c :: rest ∧ g'.active = g.active ∧ g'.div = g.div ∧ g'.ended = g.ended) ∧
      (∃ g' vals, exec (.retValues v w) s = .next ((s.setGroup gid g').endCourse gid) ∧
        g'.frames = { c with vals := vals } :: rest ∧ g'.active = g.active ∧ g'.div = g.div ∧ g'.ended = g.ended ∧
        (∀ l, l < 32 → g.active.getLsbD l → laneAt (SMap.get Val.undef vals fr.dest).lanes l = opndBits s gid g (opndTy g .i32 v) v l) ∧
        (∀ x, w = some x → ∀ l, l < 32 → g.active.getLsbD l →
          laneAt (SMap.get Val.undef vals (fr.dest + 1)).lanes l = opndBits s gid g (opndTy g .i32 x) x l) ∧
        (∀ k, k ≠ fr.dest → k ≠ fr.dest + 1 → SMap.get Val.undef vals k = SMap.get Val.undef c.vals k)))

/-- R141, R466: exit ends its active lanes. In a kernel's own frame, with no path open, the group has nothing left to run: it retires, and leaves its cluster with no lane active. -/
def Obligations.ExitEndsLanes : Prop :=
  ∀ (s : State) (gid : GId) (g : Group), Issues s gid g → Calm s gid g → g.div = [] → g.depth = 0 → g.saved = none →
    ∃ t g', exec .exit s = .next t ∧ t.group gid = some g' ∧ g'.status = .out ∧ g'.active = 0 ∧ g'.ended = g.ended ||| g.active ∧
      t.cur = none ∧ t.agenda.head? = some (.courseEnd gid) ∧ t.mem = s.mem

/-- R142, R143: unreachable and trap stop the group at the instruction, with the code of each; trap carries its own code, and the detail of the lowest active lane, or 0 when it names none. The lane a record names follows log 19. -/
def Obligations.SoftwareStops : Prop :=
  ∀ (s : State) (gid : GId) (g : Group) (code : BitVec 10) (d : Opnd), Issues s gid g →
    exec .unreachable s = .next (s.raise gid g 0x0204 0xFFFFFFFF 0 0) ∧
    exec (.trap code) s = .next (s.raise gid g 0x0501 0xFFFFFFFF 0 (code.setWidth 32)) ∧
    (Sound s gid g [(.i32, d)] →
      exec (.trapDetail code d) s = .next (s.raise gid g 0x0501 (BitVec.ofNat 32 (lowest g.active)) ((opnd s gid g .i32 d (lowest g.active)).setWidth 64) (code.setWidth 32)))

/-- R405, R406, R408: raising a fault stops the group at its point: every value, mask and frame of the group stays, nothing else of the machine changes, and the drain of the stop comes next. That the drain is the next event of the agenda is the model's order (log 1). -/
def Obligations.RaisingStopsTheGroup : Prop :=
  ∀ (s : State) (gid : GId) (g : Group) (code : Nat) (lane : W32) (d0 : W64) (d1 : W32), Issues s gid g →
    let t := s.raise gid g code lane d0 d1
    OnlyGroup s t gid ∧ t.cur = none ∧ t.agenda = .faultDrainDone gid :: s.agenda ∧ (∀ q : Spot, t.at q = s.at q) ∧
      ∃ tr, t.group gid = some { g with status := .stopping, trap := some tr } ∧ tr.code = code ∧ tr.lane = lane ∧ tr.d0 = d0 ∧ tr.d1 = d1 ∧
        tr.word = g.frame.word ∧ tr.func = g.frame.func ∧ tr.double = g.saved.isSome ∧
        tr.reason = (if code / 256 = 5 then 2 else if code / 256 = 6 then 3 else 1)


/-- R406, R408, R409: once a stop is drained, its record is written for the group's position in its bank, and the stop goes to the host, where the group is held, or to the handler. A record that cannot be written holds the group, with CTX_TRAPERR. A record whose page is being moved waits. The group has no Reel request waiting and no lock-step meeting open.

R408: the 64 bytes of a trap record and the fields it gives. -/
def Obligations.DrainedStopsAreReported : Prop :=
  (
  ∀ (s : State) (gid : GId) (g : Group) (t : Trap), s.group gid = some g → g.status = .stopping → g.trap = some t → s.halting (s.team gid.tid).job = false →
    (s.withdraw gid).leaveMeetings gid = s →
    let tm := s.team gid.tid
    let who : Who := ⟨0, gid.tid, gid.g, 0, 0, []⟩
    let idx := tm.bank * 32 + g.pos
    let addr := (s.core tm.sock tm.core).trapbase + BitVec.ofNat 64 (64 * idx)
    let g1 : Group := { g with nat := g.nat.drain, trap := some t }
    let written := s.putBytes who addr (trapRecord s gid t (s.toHost gid t))
    let done (u : State) : State := (u.wakeHandlers gid.tid).preSettle tm.sock tm.core
    (s.check who .write addr 64 64 = .ok → s.toHost gid t = true →
      exec (.faultDrainDone gid) s = .next (done ((written.setGroup gid { g1 with status := .held }).irq (.trapRecord tm.sock tm.core idx)))) ∧
    (s.check who .write addr 64 64 = .ok → s.toHost gid t = false →
      ∃ u, exec (.faultDrainDone gid) s = .next (done { u with agenda := .handlerEntry gid :: u.agenda }) ∧ u = written.setGroup gid g1) ∧
    (s.check who .write addr 64 64 = .wait → exec (.faultDrainDone gid) s = .next (done (s.setGroup gid g1))) ∧
    (∀ code, s.check who .write addr 64 64 = .fault code →
      let c := s.core tm.sock tm.core
      exec (.faultDrainDone gid) s = .next (done (((s.setCore tm.sock tm.core { c with traperr := trapErr c.traperr idx t.code }).setGroup gid
        { g1 with status := .held }).irq (.trapRecord tm.sock tm.core idx)))) ∧
    (s.toHost gid t = ((s.job tm.job.toNat).route.getLsbD (t.code / 256) || t.code / 256 == 3 || t.double || (s.handler tm.job.toNat).isNone))) ∧
  (
  ∀ (s : State) (gid : GId) (t : Trap) (held : Bool),
    let r := trapRecord s gid t held
    let tm := s.team gid.tid
    r.length = 64 ∧ fld r 0 2 = t.code % 65536 ∧ fld r 2 2 = t.reason % 65536 ∧ fld r 4 4 = t.word % 2 ^ 32 ∧ fld r 8 8 = tm.module.toNat ∧
      fld r 16 2 = t.func % 65536 ∧ fld r 18 2 = tm.job.toNat ∧ fld r 20 4 = t.lane.toNat ∧ fld r 24 8 = t.d0.toNat ∧ fld r 32 4 = t.d1.toNat ∧
      fld r 36 4 = tm.idx % 2 ^ 32 ∧ fld r 40 1 = gid.g % 256 ∧ fld r 41 1 = tm.bank % 256 ∧ fld r 42 1 = tm.row % 256 ∧
      fld r 43 1 = (if t.double then 1 else 0) + (if t.opn then 2 else 0) + (if held then 4 else 0) ∧ fld r 44 4 = 0 ∧
      fld r 48 4 = (s.launch tm.lid).seq.toNat ∧ fld r 52 1 = (s.launch tm.lid).queue.toNat ∧ fld r 53 11 = 0)

/-- R410: taking an exception. The group's frames, divergence stack, active mask and native registers are kept; it runs the job's handler from its first word with every lane that has not ended, its one argument the trap record's address, its barrier and Reel waits set aside. A handler whose frame does not fit holds the group for the host, DOUBLE set. The size of the handler's frame is that of the model's translation (log 9). -/
def Obligations.HandlersAreEntered : Prop :=
  ∀ (s : State) (gid : GId) (g : Group) (t : Trap) (m : W64) (f : Nat), s.group gid = some g → g.status = .stopping → g.trap = some t →
    s.halting (s.team gid.tid).job = false → s.handler (s.team gid.tid).job.toNat = some (m, f) →
    let tm := s.team gid.tid
    ∃ g', g'.status = .ready ∧ g'.active = ~~~ g.ended ∧ g'.ended = g.ended ∧ g'.div = [] ∧ g'.waits = .clear ∧ g'.nat.on = false ∧
      (∃ fr, g'.frames = [fr] ∧ fr.func = f ∧ fr.word = 0 ∧ fr.block = 0 ∧
        ∀ l, l < 32 → laneAt (SMap.get Val.undef fr.vals 0).lanes l = (s.core tm.sock tm.core).trapbase + BitVec.ofNat 64 (64 * (tm.bank * 32 + g.pos))) ∧
      (∃ c, g'.saved = some c ∧ c.frames = g.frames ∧ c.div = g.div ∧ c.active = g.active ∧ c.trap = t ∧ c.nat = g.nat ∧ c.waits = g.waits) ∧
      exec (.handlerEntry gid) s = .next (((if 262144 < s.stackBytes gid g g.frames + s.trapFrameBytes gid g + 16 + s.frameBytes gid g' f
        then (s.setGroup gid { g with status := .held, trap := some { t with double := true } }).irq (.trapRecord tm.sock tm.core (tm.bank * 32 + g.pos))
        else ((s.setGroup gid g').setGroup gid { g' with look := 1 }).lookGroup gid).wakeHandlers gid.tid).preSettle tm.sock tm.core)

/-- R411: returning from an exception. With ACTION 0 in the record the interrupted context is the group's state again: its frames, divergence stack, active mask and native registers, at the point it stopped at; the function of that point is looked up, and where its entry is found and has the point, the group may issue. tret outside a handler is CTX_STATE. The stop was no software trap, the context was not filled by ctx.fill, and the team is not fenced. -/
def Obligations.TretResumes : Prop :=
  ∀ (s : State) (gid : GId) (g : Group), Issues s gid g →
    (g.saved = none → exec .tret s = .next (s.raise gid g 0x0228 0xFFFFFFFF 0 0)) ∧
    (∀ c, g.saved = some c → c.hasPoint = true → c.filled = false → c.trap.code ≠ Code.trap → g.bankDone = false → g.preStop = false →
      (s.team gid.tid).fenced = false →
      let addr := s.recAddr gid g + 44
      s.checkSeg (supervisor gid) .read false 0 4 (addr, 4) = .ok → leNat (s.getBytes (supervisor gid) addr 4) = 0 →
      ∃ (u : State) (g' : Group), u.group gid = some g' ∧ g'.frames = c.frames ∧ g'.div = c.div ∧ g'.active = c.active ∧ g'.nat = c.nat ∧
        g'.waits = c.waits ∧ g'.saved = none ∧ g'.status = .ready ∧ g'.trap = none ∧ g'.ended = g.ended ∧ g'.look = 1 ∧ u.mem = s.mem ∧
        exec .tret s = .next { u.lookGroup gid with cur := none } ∧
        (∀ f rest id v, c.frames = f :: rest → c.nat.resume = noResume → u.lookup gid g' (u.keyOf gid g' f.func noResume) = (.hit id, v) →
          (c.nat.on ∨ ((v.body (u.keyOf gid g' f.func noResume)).resumeAt (v.pointWord gid g')).isSome) →
          exec .tret s = .next { v.setGroup gid { g' with look := 0, got := none } with cur := none }))

/-- R411-R413: a CTX_ANSWER with GO answers the held group of its slot: ACTION 0 lets a group go on at its point, whose function is looked up, ACTION 2 terminates the launch. A write without GO, or with ACTION 3, which the register does not have, changes nothing. -/
def Obligations.HostAnswersHeldGroups : Prop :=
  ∀ (s : State) (sock core : Nat) (v : W32),
    (v.getLsbD 31 = false ∨ fieldNat v.toNat 7 6 = 3 → exec (.ctxAnswer sock core v) s = .next s) ∧
    (∀ gid g t, v.getLsbD 31 = true → fieldNat v.toNat 7 6 = 0 →
      ((s.bankGroups sock core (v.toNat % 64 / 32)).find? fun i => match s.group i with
        | some x => x.status == .held && x.pos == v.toNat % 64 % 32
        | none => false) = some gid →
      s.group gid = some g → g.saved = none → g.trap = some t → g.noPoint = false → t.code ≠ Code.trap → (s.team gid.tid).fenced = false →
      exec (.ctxAnswer sock core v) s =
        .next (((s.setGroup gid { g with status := .ready, trap := none, look := max g.look 1 }).lookGroup gid).preSettle sock core)) ∧
    (∀ gid g t, v.getLsbD 31 = true → fieldNat v.toNat 7 6 = 2 →
      ((s.bankGroups sock core (v.toNat % 64 / 32)).find? fun i => match s.group i with
        | some x => x.status == .held && x.pos == v.toNat % 64 % 32
        | none => false) = some gid →
      s.group gid = some g → g.saved = none → g.trap = some t →
      exec (.ctxAnswer sock core v) s = .next ((s.terminate (s.team gid.tid).lid).preSettle sock core))

/-- R361-R367: an arrival is checked, joins the open phase or opens one, and completes it when every member has arrived or retired. bar.arrive delivers the phase it arrived in; bar waits at its point and delivers the keystone flag. The team has its 16 barriers, and no die phase of its grid is open on the die. -/
def Obligations.BarriersMeet : Prop :=
  ∀ (s : State) (gid : GId) (g : Group) (h : Hd) (b : BitVec 4) (lm gm : Opnd), Issues s gid g → Calm s gid g → Sound s gid g [(.i32, lm), (.i32, gm)] →
    let tm := s.team gid.tid
    tm.bars.length = 16 → (∀ a ∈ (s.die tm.sock).arrivals, a.lid ≠ tm.lid) →
    let l : W32 := elected s gid g .i32 lm
    let m : W32 := elected s gid g .i32 gm
    let old := s.barOf gid.tid b.toNat
    let set := m.extractLsb' 0 16
    let bad := m.extractLsb' 16 15 ≠ 0 ∨ 2 ^ tm.groups.length ≤ set.toNat ∨ set.getLsbD gid.g = false ∨ l &&& ~~~ g.ended ≠ g.active
    let again := old.opn = true ∧ (old.arrived.getLsbD gid.g = true ∨ old.sent = true)
    let differs := old.opn = true ∧ (old.m ≠ set ∨ old.d ≠ m.msb)
    let came : BitVec 16 := (if old.opn then old.arrived else 0) ||| ((1 : BitVec 16) <<< gid.g)
    let all := set &&& ~~~ (came ||| tm.retired) = 0
    let stops (code : Nat) : Prop := exec (.barArrive h b lm gm) s = .next (s.fail gid g code) ∧ (g.waits.bar = none → exec (.bar h b lm gm) s = .next (s.fail gid g code))
    (bad → stops 0x0220) ∧ (¬ bad → again → stops 0x0221) ∧ (¬ bad → ¬ again → differs → stops 0x0220) ∧
    (¬ bad → ¬ again → ¬ differs →
      (∃ u g', exec (.barArrive h b lm gm) s = .next (gaveAll u gid g' h (old.c.setWidth 64)) ∧ g'.frames = g.frames ∧ g'.active = g.active ∧
        (all → m.msb = false ∨ (∀ x ∈ s.dieMembers tm.lid tm.sock, x = gid.tid) →
          (u.barOf gid.tid b.toNat).c = old.c + 1 ∧ (u.barOf gid.tid b.toNat).opn = false) ∧
        (¬ all → (u.barOf gid.tid b.toNat).c = old.c ∧ (u.barOf gid.tid b.toNat).opn = true ∧ (u.barOf gid.tid b.toNat).arrived = came) ∧
        (∀ i, i ≠ b.toNat → u.barOf gid.tid i = s.barOf gid.tid i) ∧ ∀ q : Spot, u.at q = s.at q) ∧
      (g.waits.bar = none → all → m.msb = false →
        ∃ u g', exec (.bar h b lm gm) s = .next (gaveAll u gid g' h
          (if (if (s.launch tm.lid).det then ((List.range 16).filter fun i => set.getLsbD i && !tm.retired.getLsbD i).headD 16 else gid.g) = gid.g then 1 else 0)) ∧
          g'.frames = g.frames ∧ g'.active = g.active ∧ g'.waits.bar = none ∧ (u.barOf gid.tid b.toNat).c = old.c + 1 ∧ ∀ q : Spot, u.at q = s.at q) ∧
      (g.waits.bar = none → ¬ all →
        ∃ t g', exec (.bar h b lm gm) s = .next t ∧ t.group gid = some g' ∧ g'.status = .wait ∧ g'.frames = g.frames ∧
          g'.waits.bar = some ⟨b.toNat, old.c, false, false⟩ ∧ t.cur = none ∧ (t.barOf gid.tid b.toNat).arrived = came)) ∧
    (∀ w, g.waits.bar = some w → let n := ((s.barOf gid.tid w.bar).c - w.phase).toNat
      (1 ≤ n ∧ n < 2 ^ 31 → exec (.bar h b lm gm) s = .next (gaveAll s gid { g with waits := { g.waits with bar := none } } h (if w.key then 1 else 0))) ∧
      (¬ (1 ≤ n ∧ n < 2 ^ 31) → exec (.bar h b lm gm) s = .next (s.park gid g)))

/-- R338, R339, R346, R368, R371: a wait whose condition holds goes on and ends the course; one whose condition does not hold parks the group at its point. A timed wait delivers 1 when its condition holds, and 0 once its limit of bay cycles has passed; the expiry makes the group test it again. -/
def Obligations.WaitsReturn : Prop :=
  ∀ (s : State) (gid : GId) (g : Group) (h : Hd) (b : BitVec 4) (ph lim p sp : Opnd), Issues s gid g → g.nat.on = false →
    Sound s gid g [(.i32, ph), (.i64, lim), (.ptr, p), (.hnd, sp)] →
    let tm := s.team gid.tid
    let moved : Group := g.setFrame { g.frame with word := s.npc }
    let goesOn (u : State) : State := (u.setGroup gid moved).endCourse gid
    let parked : State := s.park gid g
    let ph' : W32 := elected s gid g .i32 ph
    let n := ((s.barOf gid.tid b.toNat).c - ph').toNat
    let now := (s.bay tm.sock (bayOf tm.core)).cycles.toNat
    let start := g.waits.tstart.getD (now, (elected s gid g .i64 lim).toNat)
    let a : W64 := elected s gid g .ptr p
    let off := a.toNat % 2 ^ 56
    let isXb := a.toNat / 2 ^ 56 = 0xFE ∧ a.toNat % 16 = 0 ∧ off + 16 ≤ (s.launch tm.lid).scratch
    let timed (i : Instr) (holds : Prop) (u : State) : Prop :=
      (holds → exec i s = .next (gaveAll u gid { g with waits := { g.waits with tstart := none } } h 1)) ∧
      (¬ holds → start.1 + start.2 ≤ now → exec i s = .next (gaveAll s gid { g with waits := { g.waits with tstart := none } } h 0)) ∧
      (¬ holds → now < start.1 + start.2 → exec i s = .next (s.park gid { g with waits := { g.waits with tstart := some start } }))
    ((1 ≤ n ∧ n < 2 ^ 31 → exec (.barWait b ph) s = .next (goesOn s)) ∧ (¬ (1 ≤ n ∧ n < 2 ^ 31) → exec (.barWait b ph) s = .next parked)) ∧
    timed (.barWaitTimed h b ph lim) (1 ≤ n ∧ n < 2 ^ 31) s ∧
    (¬ isXb → exec (.xbWait p) s = .next (s.fail gid g 0x021C) ∧ exec (.xbWaitTimed h p lim) s = .next (s.fail gid g 0x021C)) ∧
    (isXb → tm.word (off + 8) = 0 →
      (tm.word off = 0 → exec (.xbWait p) s = .next (goesOn (s.xbJoin gid.tid a))) ∧
      (tm.word off ≠ 0 → exec (.xbWait p) s = .next parked) ∧
      timed (.xbWaitTimed h p lim) (tm.word off = 0) (s.xbJoin gid.tid a)) ∧
    (∀ x, (elected s gid g .hnd sp).toNat / 2 ^ 56 = 3 → tm.spools[(elected s gid g .hnd sp).toNat % 2 ^ 32]? = some x →
      ((x.claim - x.head).toNat < x.n → exec (.spoolWaitfree sp) s = .next (goesOn s)) ∧
      (x.n ≤ (x.claim - x.head).toNat → exec (.spoolWaitfree sp) s = .next parked)) ∧
    (∀ (u : State) (x : Group) (st : Nat × Nat), u.group gid = some x → x.status = .wait → x.waits.tstart = some st → st.1 + st.2 < 2 ^ 64 →
      ∃ t, exec (.timedWaitExpiry gid) u = .next t ∧ t.group gid = some { x with status := .ready } ∧ t.bayNow gid = Nat.max (u.bayNow gid) (st.1 + st.2) ∧
        ∀ q : Spot, t.at q = u.at q)

/-- R337, R338, R345, R346, R372, R373: xb.init and xb.expect set the counts of a byte-count barrier and no other byte; spools hand out, commit, take and release slots in count order; phase.decl sets the group's phase unless another holder's phase conflicts. -/
def Obligations.ByteCountsSpoolsAndPhases : Prop :=
  ∀ (s : State) (gid : GId) (g : Group) (h : Hd) (p n sp sl : Opnd) (k : BitVec 4), Issues s gid g → Calm s gid g → g.nat.on = false →
    Sound s gid g [(.ptr, p), (.i32, n), (.hnd, sp), (.ptr, sl)] →
    let tm := s.team gid.tid
    let moved : Group := g.setFrame { g.frame with word := s.npc }
    let a : W64 := elected s gid g .ptr p
    let off := a.toNat % 2 ^ 56
    let x : W32 := elected s gid g .i32 n
    let hnd := (elected s gid g .hnd sp).toNat
    let ptr : W64 := elected s gid g .ptr sl
    let sets (i : Instr) (e d r : W32) : Prop :=
      ∃ t, exec i s = .next t ∧ t.group gid = some moved ∧ (t.team gid.tid).word off = e ∧ (t.team gid.tid).word (off + 4) = d ∧ (t.team gid.tid).word (off + 8) = r ∧
        ∀ q : Spot, (∀ j, j < 12 → q ≠ .scratch gid.tid (off + j)) → t.at q = s.at q
    (a.toNat / 2 ^ 56 = 0xFE → a.toNat % 16 = 0 → off + 16 ≤ (s.launch tm.lid).scratch →
      sets (.xbInit h p n) x 0 0 ∧
      sets (.xbExpect h p n) (tm.word off + x) (if tm.word off + x = 0 then tm.word (off + 4) + 1 else tm.word (off + 4)) (tm.word (off + 8))) ∧
    (∀ q, hnd / 2 ^ 56 = 3 → tm.spools[hnd % 2 ^ 32]? = some q →
      let i := hnd % 2 ^ 32
      let slot (c : W32) : W64 := BitVec.ofNat 64 (0xFE * 2 ^ 56 + q.base + c.toNat % q.n * q.b)
      ((q.claim - q.head).toNat < q.n → exec (.spoolClaim h sp) s = .next (gaveAll (s.setSpool gid.tid i { q with claim := q.claim + 1 }) gid g h (slot q.claim))) ∧
      (q.n ≤ (q.claim - q.head).toNat → exec (.spoolClaim h sp) s = .next (gaveAll s gid g h 0)) ∧
      (q.take ≠ q.tail → exec (.spoolWaitfilled h sp) s = .next (gaveAll (s.setSpool gid.tid i { q with take := q.take + 1 }) gid g h (slot q.take))) ∧
      (q.take = q.tail → exec (.spoolWaitfilled h sp) s = .next (s.park gid g)) ∧
      (q.tail ≠ q.claim → ptr = slot q.tail → q.filled.contains q.tail = false →
        ∃ y : Spool, exec (.spoolCommit h sp sl) s = .next ((s.setSpool gid.tid i { q with tail := y.tail, filled := y.filled }).advance gid g h.ce) ∧
          (q.filled = [] → y.tail = q.tail + 1 ∧ y.filled = [])) ∧
      (q.head ≠ q.take → ptr = slot q.head → q.freed.contains q.head = false →
        ∃ y : Spool, exec (.spoolRelease h sp sl) s = .next ((s.setSpool gid.tid i { q with head := y.head, freed := y.freed }).advance gid g h.ce) ∧
          (q.freed = [] → y.head = q.head + 1 ∧ y.freed = [])) ∧
      ((∀ c, (c - q.tail).toNat < (q.claim - q.tail).toNat → slot c ≠ ptr) → exec (.spoolCommit h sp sl) s = .next (s.fail gid g 0x021D)) ∧
      ((∀ c, (c - q.head).toNat < (q.take - q.head).toNat → slot c ≠ ptr) → exec (.spoolRelease h sp sl) s = .next (s.fail gid g 0x021D))) ∧
    ((s.launch tm.lid).phased = false → exec (.phaseDecl k) s = .next ((s.setGroup gid moved).endCourse gid)) ∧
    ((s.launch tm.lid).phased = true → (∀ q ∈ tm.phasesHeld gid.g, s.conflict gid.tid k.toNat q = false) →
      exec (.phaseDecl k) s = .next ((s.setGroup gid { moved with phase := some k.toNat }).endCourse gid)) ∧
    ((s.launch tm.lid).phased = true → (∃ q ∈ tm.phasesHeld gid.g, s.conflict gid.tid k.toNat q = true) → exec (.phaseDecl k) s = .next (s.fail gid g 0x0222))

/-- R331-R335, R342-R344: hod.kick hands n entries of the ring to the engine; a fetch takes the oldest, marks its first byte and issues it; hod.put and hod.get issue the request the pointer names; hod.bind delivers its stream, and sread takes the next bytes of a stream into the lanes; a chunk done writes 16 bytes of the copy.

R128, R129: an emit gives its record, the lanes' values in lane order with zeros for the inactive, to every consumer its mask names, or to none: a consumer that cannot take it yet parks the group, and one that never can stops it. A spool's record fills the next claimed slot, which is committed. The readings of log 20 hold for what R331-R344 leave open. -/
def Obligations.HodCopies : Prop :=
  (
  ∀ (s : State) (gid : GId) (g : Group) (h : Hd) (e : BitVec 1) (n req st : Opnd), Issues s gid g → NoReds s gid g → g.nat.on = false → Sound s gid g [(.i32, n), (.ptr, req), (.hnd, st)] →
    let tm := s.team gid.tid
    let moved : Group := g.setFrame { g.frame with word := s.npc }
    let k := (elected s gid g .i32 n).toNat
    let r := tm.ring e.toNat
    let a : W64 := elected s gid g .ptr req
    let w : Who := { s.who gid g 0 with privSize := 0 }
    let me : Who := s.who gid g (lowest g.active)
    let bytes := s.getBytes me a 64
    let ready (m : HodMode) (p : Plan) : Prop := s.checkSeg me .read false 0 64 (a, 64) = .ok ∧ s.hodIssue w tm.sock g.phase bytes m = .ok p ∧
      s.inflight tm.sock tm.core < 256
    let copied (i : Instr) (kind : CopyKind) (p : Plan) : Prop :=
      ∃ t c, exec i s = .next t ∧ t.group gid = some moved ∧ (t.team gid.tid).copies = tm.copies ++ [c] ∧ c.req = bytes ∧ c.kind = kind ∧ c.left = p.chunks ∧
        c.held = false ∧ ∀ q : Spot, t.at q = s.at q
    (4096 * (e.toNat + 1) ≤ (s.launch tm.lid).scratch → k ≤ 64 → r.kicks.length + k + tm.heldCount e.toNat ≤ 64 →
      ∃ t, exec (.hodKick h e n) s = .next t ∧ t.group gid = some moved ∧ ((t.team gid.tid).ring e.toNat).k = r.k + BitVec.ofNat 32 k ∧
        ((t.team gid.tid).ring e.toNat).f = r.f ∧ ((t.team gid.tid).ring e.toNat).kicks.length = r.kicks.length + k ∧
        (t.team gid.tid).ring (1 - e.toNat) = tm.ring (1 - e.toNat) ∧ ∀ q : Spot, t.at q = s.at q) ∧
    (4096 * (e.toNat + 1) ≤ (s.launch tm.lid).scratch → 64 < k ∨ 64 < r.kicks.length + k + tm.heldCount e.toNat →
      exec (.hodKick h e n) s = .next (s.fail gid g 0x0218)) ∧
    (∀ p, ready .put p → copied (.hodPut h e req) .put p) ∧
    (∀ p, ready .get p → copied (.hodGet h e req) .get p) ∧
    (∀ p b, ready .bind p → s.freeFifo tm.sock tm.core = some b →
      ∃ u, exec (.hodBind h e req) s = .next (gaveAll u gid g h (BitVec.ofNat 64 (2 * 2 ^ 56 + tm.streams.length % 2 ^ 32))) ∧
        (u.team gid.tid).streams = tm.streams ++ [⟨p.len, [], 0, 0, false, 0, b⟩] ∧ (u.team gid.tid).copies.length = tm.copies.length + 1 ∧
        ∀ q : Spot, u.at q = s.at q) ∧
    (∀ x, (elected s gid g .hnd st).toNat / 2 ^ 56 = 2 → tm.streams[(elected s gid g .hnd st).toNat % 2 ^ 32]? = some x →
      let size := Ty.memSize h.ty
      let m := Nat.min (32 * size) (x.len - x.taken)
      (x.busy = true → exec (.sread h st) s = .next (s.fail gid g 0x021F)) ∧
      (x.busy = false → x.len ≤ x.taken → x.fail = 0 → exec (.sread h st) s = .next (s.fail gid g 0x021E)) ∧
      (x.busy = false → x.len ≤ x.taken → x.fail ≠ 0 → exec (.sread h st) s = .next (s.elFault gid g x.fail 0 0)) ∧
      (x.busy = false → x.taken < x.len → m ≤ x.buf.length →
        exec (.sread h st) s = .next ((s.setStream gid.tid ((elected s gid g .hnd st).toNat % 2 ^ 32) { x with buf := x.buf.drop m, taken := x.taken + m }).finish gid g h g.active
          [(h.ty, lanes32.map fun l => ofMem h.ty (((x.buf.take m).drop (l * size)).take size))] 0)) ∧
      (x.busy = false → x.taken < x.len → x.buf.length < m → exec (.sread h st) s = .next (s.park gid g))) ∧
    (∀ (u : State) (tid : Nat) (kk : Kick) (ks : List Kick) (p : Plan),
      let t := u.team tid
      let off := 4096 * e.toNat + 64 * ((t.ring e.toNat).f.toNat % 64)
      let u1 := u.setTeam tid ({ t with scratch := SMap.put 0 t.scratch off 0xFF }.setRing e.toNat { t.ring e.toNat with f := (t.ring e.toNat).f + 1, kicks := ks })
      t.fenced = false → t.state = .resident → u.heldReady tid t.sock e.toNat t.copies 0 = none → (t.ring e.toNat).kicks = kk :: ks →
      u.inflight t.sock t.core < 256 → u1.hodIssue ⟨kk.job, tid, kk.g, 0, 0, []⟩ t.sock kk.phase (SMap.bytes t.scratch off 64) .kick = .ok p →
      ∃ v c, exec (.hodFetch tid e) u = .next v ∧ (v.team tid).copies = t.copies ++ [c] ∧ c.req = SMap.bytes t.scratch off 64 ∧ c.kind = .kicked ∧ c.left = p.chunks ∧
        ((v.team tid).ring e.toNat).f = (t.ring e.toNat).f + 1 ∧ ((v.team tid).ring e.toNat).kicks = ks ∧
        ∀ q : Spot, v.at q = if q = .scratch tid off then 0xFF else u.at q) ∧
    (∀ (u : State) (tid idx chunk : Nat) (c : Copy), (u.team tid).copies[idx]? = some c → c.kind = .kicked → c.live = true → c.held = false → c.left.contains chunk = true →
      u.away (u.team tid).job = false → (u.team tid).fenced = false → opc c.req = 2 → reqDstg c.req = false → reqXb c.req = 0 → winOf (reqDst c.req + BitVec.ofNat 64 (16 * chunk)) = .scratch →
      u.checkSeg (c.who tid) .write true 0 1 (reqDst c.req + BitVec.ofNat 64 (16 * chunk), 16) = .ok →
      ∃ v, exec (.hodChunkDone tid idx chunk) u = .next v ∧
        (v.team tid).copies[idx]? = some { c with left := c.left.erase chunk, live := !(c.left.erase chunk).isEmpty } ∧
        ∀ q : Spot, v.at q = (u.putBytes (c.who tid) (reqDst c.req + BitVec.ofNat 64 (16 * chunk))
          (((List.range 4).flatMap fun _ => natLe (fld c.req 32 4) 4).take 16)).at q)) ∧
  (
  ∀ (s : State) (gid : GId) (g : Group) (h : Hd) (mask : BitVec 5) (v sp : Opnd), Issues s gid g → NoReds s gid g → Sound s gid g [(h.ty, v), (.hnd, sp)] →
    (elected s gid g .hnd sp).toNat / 2 ^ 56 = 3 →
    let i := (elected s gid g .hnd sp).toNat % 2 ^ 32
    let record : List Byte := lanes32.flatMap fun l => if g.active.getLsbD l then toMem h.ty (opndBits s gid g h.ty v l) else List.replicate (Ty.memSize h.ty) 0
    let can (n : Nat) : Accept := s.emitCan gid g n record (some i)
    ((∀ n, n < 5 → mask.getLsbD n → can n = .yes) →
      exec (.emit h mask v (some sp)) s =
        .next (((s.emitAll gid record (some i) (consumers mask)).holdPhase gid.tid (if mask = 0 then none else g.phase) none 0).advance gid g h.ce)) ∧
    ((∀ n c, n < 5 → mask.getLsbD n → can n ≠ .fault c) → (∃ n, n < 5 ∧ mask.getLsbD n ∧ can n = .wait) → exec (.emit h mask v (some sp)) s = .next (s.park gid g)) ∧
    ((∃ n c, n < 5 ∧ mask.getLsbD n ∧ can n = .fault c) → ∃ n c, n < 5 ∧ mask.getLsbD n ∧ can n = .fault c ∧ exec (.emit h mask v (some sp)) s = .next (s.fail gid g c)) ∧
    (∀ q, mask = 4 → (s.team gid.tid).spools[i]? = some q → can 2 = .yes → q.claim = q.tail → q.filled = [] → q.base + q.n * q.b ≤ 2 ^ 32 →
      ∃ u : State, exec (.emit h mask v (some sp)) s = .next (u.advance gid g h.ce) ∧ (u.team gid.tid).spools[i]? = some { q with claim := q.claim + 1, tail := q.tail + 1 } ∧
        ∀ j, SMap.get 0 (u.team gid.tid).scratch j =
          let base := q.base + q.claim.toNat % q.n * q.b
          if base ≤ j ∧ j < base + record.length then record.getD (j - base) 0 else SMap.get 0 (s.team gid.tid).scratch j))

/-- R384-R390: the four Reel instructions. A board or capture is checked, takes an entry of the stop's port and parks its group, which goes on with its result; an alight takes an entry and goes on; a fence returns when the group's requests are settled. -/
def Obligations.ReelInstructions : Prop :=
  ∀ (s : State) (gid : GId) (g : Group) (h : Hd) (op : ReelOp) (k : BitVec 3) (ord : Order) (key hint x y pay dst done : Opnd), Issues s gid g → Calm s gid g →
    Sound s gid g [(.i64, key), (.i32, hint), (.i64, x), (.i64, y), (.ptr, pay), (.ptr, dst), (.ptr, done)] →
    let tm := s.team gid.tid
    let l := s.launch tm.lid
    let port := (s.core tm.sock tm.core).port
    let kv : W64 := elected s gid g .i64 key
    let p : W64 := elected s gid g .ptr pay
    let d : W64 := elected s gid g .ptr dst
    let n : W64 := elected s gid g .ptr done
    let hv := (elected s gid g .i32 hint).toNat
    let hinted : Option (BitVec 9) := if hv < 512 then some (BitVec.ofNat 9 hv) else none
    let w := s.who gid g (lowest g.active)
    let waits (i : Instr) (kind : ReelKind) : Prop :=
      ∃ t r, exec i s = .next t ∧ ((t.core tm.sock tm.core).port = port ++ [r]) ∧ r.kind = kind ∧ r.key = kv.setWidth 52 ∧ r.tid = gid.tid ∧ r.g = gid.g ∧ r.job = tm.job ∧
        (∃ g', t.group gid = some g' ∧ g'.status = .wait ∧ g'.frames = g.frames ∧ g'.waits.reelReq = some r.id) ∧ t.cur = none ∧ (∀ q : Spot, t.at q = s.at q) ∧
        (match kind with
          | .board _ => r.hint = none ∧ (t.launch tm.lid).reelHeld = l.reelHeld + 1
          | _ => r.hint = hinted ∧ (t.launch tm.lid).reelHeld = l.reelHeld)
    let fresh := g.waits.reelRes = none ∧ g.waits.reelReq = none
    let accepts := s.reel.blocked.contains tm.job = false ∧ s.reel.byp.getLsbD tm.sock = false
    (fresh → 2 ^ 52 ≤ kv.toNat → exec (.reelBoard h key pay) s = .next (s.fail gid g 0x0224) ∧ exec (.reelCapture h op k ord key hint x y) s = .next (s.fail gid g 0x0224)) ∧
    (2 ^ 52 ≤ kv.toNat → exec (.reelAlight h key hint dst done) s = .next (s.fail gid g 0x0224)) ∧
    (fresh → kv.toNat < 2 ^ 52 → l.reelq ≤ l.reelHeld → exec (.reelBoard h key pay) s = .next (s.fail gid g 0x0225)) ∧
    (fresh → kv.toNat < 2 ^ 52 → l.reelHeld < l.reelq → p ≠ 0 → s.checkSeg w .read false 0 64 (p, 64) = .ok → winOf p ≠ .priv → accepts → port.length ≤ 11 →
      waits (.reelBoard h key pay) (.board ((List.range 8).map fun i => BitVec.ofNat 64 (fld (s.getBytes w p 64) (8 * i) 8)))) ∧
    (fresh → kv.toNat < 2 ^ 52 → accepts → port.length ≤ 11 →
      waits (.reelCapture h op k ord key hint x y) (.capture op k (elected s gid g .i64 x) (elected s gid g .i64 y))) ∧
    (fresh → kv.toNat < 2 ^ 52 → 12 ≤ port.length → exec (.reelCapture h op k ord key hint x y) s = .next (s.park gid g)) ∧
    (∀ v, g.waits.reelRes = some v →
      let g' : Group := { g with waits := { g.waits with reelReq := none, reelRes := none } }
      exec (.reelBoard h key pay) s = .next (gaveAll s gid g' h v) ∧ exec (.reelCapture h op k ord key hint x y) s = .next (gaveAll s gid g' h v)) ∧
    (kv.toNat < 2 ^ 52 → s.checkSeg w .write false 0 64 (d, 64) = .ok → winOf d = .global ∨ winOf d = .scratch →
      (n = 0 ∨ (n.toNat / 2 ^ 56 = 0xFE ∧ n.toNat % 16 = 0 ∧ n.toNat % 2 ^ 56 + 16 ≤ l.scratch)) → accepts →
      (port.length < 16 → ∃ (u : State) (r : ReelReq), exec (.reelAlight h key hint dst done) s = .next (u.advance gid g h.ce) ∧ (u.core tm.sock tm.core).port = port ++ [r] ∧
        r.kind = .alight d n ∧ r.key = kv.setWidth 52 ∧ r.hint = hinted ∧ r.tid = gid.tid ∧ u.group gid = some g ∧ ∀ q : Spot, u.at q = s.at q) ∧
      (16 ≤ port.length → exec (.reelAlight h key hint dst done) s = .next { s.setGroup gid { g with status := .stall } with cur := none })) ∧
    (g.waits.reelReq = none → (∀ r ∈ port, r.kind = .fence ∨ r.tid ≠ gid.tid ∨ r.g ≠ gid.g) → (∀ q ∈ g.reelSince, q.2 ≤ (s.slot q.1).seams) →
      ∃ g', exec .reelFence s = .next (s.advance gid g' true) ∧ g' = { g with reelSince := [] })

/-- R377-R379, R381, R385, R386, R388, R389: at a slot's next passage of a stop, whose position fixes the time, the oldest request that can act does: a board fills an empty slot, a capture delivers its field and writes the new value, an alight marks the slot; at the seam a boarding slot becomes live, and an alighting one is written out and emptied. A search that 512 passages did not end fails. The launch is not deterministic and the slot does not cross the seam on its way. The grid of the slot written out holds another slot, so that its launch does not end there. A passage is an event that the agenda names (log 1), and what R388-R389 leave open follows log 23. -/
def Obligations.ReelPassages : Prop :=
  ∀ (s : State) (slot : BitVec 9) (sock core : Nat) (r : ReelReq),
    let i := slot.toNat
    let pos := if sock < 2 then 128 * sock + 2 * core else 256 + 128 * (sock - 2) + 3 * core
    let x := s.slot i
    let can := (s.core sock core).port.find? fun q => s.reelCan i x q
    (sock < 4 → core < (if sock < 2 then 48 else 32) → s.reel.byp.getLsbD sock = false → can = some r → (s.launch (s.team r.tid).lid).det = false → (s.time + 512 - i) % 512 ≠ 0 →
      (s.time + 512 - i) % 512 ≤ pos →
      ∃ t T, exec (.reelPassage slot sock core) s = .next t ∧ s.time ≤ T ∧ T < s.time + 512 ∧ T % 512 = (i + pos) % 512 ∧ t.time = T + 1 ∧ (∀ q : Spot, t.at q = s.at q) ∧
        (∀ p, r.kind = .board p → x.st = .empty ∧ t.slot i = { x with st := .boarding, job := r.job, key := r.key, grid := (s.team r.tid).lid, version := x.version + 1, fields := p, lost := r.lost } ∧
          (∀ g, s.group ⟨r.tid, r.g⟩ = some g → ∃ g', t.group ⟨r.tid, r.g⟩ = some g' ∧ g'.waits.reelRes = some (BitVec.ofNat 64 i) ∧ (g.status = .wait → g'.status = .ready))) ∧
        (∀ op k a b, r.kind = .capture op k a b → x.lost = none →
          let f := x.fields.getD k.toNat 0
          (x.job = r.job ∧ x.key = r.key) ∧ t.slot i = { x with fields := x.fields.set k.toNat (match op with
            | .read => f
            | .add => f + a
            | .min => if a.toInt < f.toInt then a else f
            | .max => if f.toInt < a.toInt then a else f
            | .argmax => captureNew .argmax f a b
            | .and => f &&& a
            | .or => f ||| a
            | .swap => a
            | .cas => if f = a then b else f
            | .incw => if a.toNat ≤ f.toNat then 0 else f + 1) } ∧
          (∀ g, s.group ⟨r.tid, r.g⟩ = some g → ∃ g', t.group ⟨r.tid, r.g⟩ = some g' ∧ g'.waits.reelRes = some f ∧ (g.status = .wait → g'.status = .ready))) ∧
        (∀ d n, r.kind = .alight d n → x.st = .live ∧ (t.slot i).st = .alighting ∧ (t.slot i).dst = d ∧ (t.slot i).done = n ∧ (t.slot i).fields = x.fields)) ∧
    (s.reel.sweep ≠ some x.job → s.gridOver x.grid = false → x.st = .boarding →
      ∃ t, exec (.seamPassage slot) s = .next t ∧ t.slot i = { x with st := .live, seams := x.seams + 1 } ∧ t.time % 512 = i ∧ s.time ≤ t.time ∧ t.time < s.time + 512 ∧ t.teams = s.teams ∧ t.mem = s.mem) ∧
    (x.st = .alighting → winOf x.dst = .scratch → x.dst.toNat % 2 ^ 56 + 64 ≤ (s.launch (s.team x.dtid).lid).scratch → x.dst.toNat % 64 = 0 → x.done = 0 → x.fields.length = 8 → 1 < (s.launch x.grid).reelHeld →
      ∃ t, exec (.seamPassage slot) s = .next t ∧ (t.slot i).st = .empty ∧ (t.slot i).version = x.version ∧
        ∀ k j, k < 8 → j < 8 → SMap.get 0 (t.team x.dtid).scratch (x.dst.toNat % 2 ^ 56 + 8 * k + j) = (x.fields.getD k 0).extractLsb' (8 * j) 8) ∧
    (∀ idx op k a b g, (s.core sock core).port[idx]? = some r → 512 ≤ r.passes → r.kind = .capture op k a b → s.group ⟨r.tid, r.g⟩ = some g →
      exec (.reelNokey sock core idx) s = .next ((s.dropReq sock core r.id).fail ⟨r.tid, r.g⟩ { g with waits := { g.waits with reelReq := none } } 0x0227))

/-- R170-R173, R175: a matrix command that passes its checks takes one credit, delivers its token and stands last in its bank's queue; mx.swap exchanges the planes at its place in that order, at once where no earlier command uses a plane, else when the earlier ones have completed; mx.wait returns when its command is complete, and retires the token. What R170-R175 leave open follows log 22. -/
def Obligations.MatrixCommands : Prop :=
  ∀ (s : State) (gid : GId) (g : Group) (h : Hd) (slot : BitVec 3) (pb st tok : Opnd) (ce : Bool), Issues s gid g → Sound s gid g [(.ptr, pb), (.hnd, st), (.hnd, tok)] →
    let tm := s.team gid.tid
    let bank (u : State) : Bank := (u.core tm.sock tm.core).bank tm.bank
    let p : W64 := elected s gid g .ptr pb
    let accepted (i : Instr) (op : MxOp) : Prop := ∀ b0 b1 rp cols, MxReady s gid g op slot.toNat p b0 b1 rp cols →
      ∃ u cs c, exec i s = .next (gaveAll u gid { g with credits := g.credits - 1 } h (BitVec.ofNat 64 (2 ^ 56 + tm.toks.length % 2 ^ 32))) ∧
        (bank u).queue = cs ++ [c] ∧ cs.length = (bank s).queue.length ∧ c.op = op ∧ c.pb = s.getBytes (s.who gid g 0) p 128 ∧ c.rec0 = b0 ∧ c.rec1 = b1 ∧
        c.slot = slot.toNat ∧ c.tid = gid.tid ∧ c.g = gid.g ∧ c.tok = tm.toks.length ∧ c.rowptr = rp ∧ c.colidx = cols ∧
        (∃ k, (u.team gid.tid).toks = tm.toks ++ [k] ∧ k.done = false ∧ k.retired = false) ∧ u.group gid = some g ∧ ∀ q : Spot, u.at q = s.at q
    accepted (.mxLdst h slot pb) .ldst ∧ accepted (.mxStream h slot pb) .stream ∧ accepted (.mxSpgather h slot pb) .spgather ∧
    accepted (.mxCompress h slot pb) .compress ∧ accepted (.mxDrain h slot pb) .drain ∧ accepted (.mxDrainAdd h slot pb) .drainAdd ∧
    (∀ x, (elected s gid g .hnd st).toNat / 2 ^ 56 = 2 → tm.streams[(elected s gid g .hnd st).toNat % 2 ^ 32]? = some x →
      (x.busy = false → accepted (.mxStreamBound h slot pb st) (.bound ((elected s gid g .hnd st).toNat % 2 ^ 32))) ∧
      (x.busy = true → NoReds s gid g → exec (.mxStreamBound h slot pb st) s = .next (s.fail gid g 0x021F))) ∧
    (∃ u, exec (.mxSwap ce) s = .next (u.advance gid g ce) ∧ u.group gid = some g ∧ (∀ q : Spot, u.at q = s.at q) ∧
      ((∀ e ∈ (bank s).queue, e.op.usesPlane = false) → (bank u).act = (bank s).shd ∧ (bank u).shd = (bank s).act ∧ (bank u).queue = (bank s).queue) ∧
      ((∃ e ∈ (bank s).queue, e.op.usesPlane = true) → firstFree s (bank s).queue (fun e => e.op == .swap) = none →
        (bank u).act = (bank s).act ∧ (bank u).shd = (bank s).shd ∧ ∃ c, (bank u).queue = (bank s).queue ++ [c] ∧ c.op = .swap)) ∧
    (∀ i, (elected s gid g .hnd tok).toNat / 2 ^ 56 = 1 → i = (elected s gid g .hnd tok).toNat % 2 ^ 32 →
      (∀ k, tm.toks[i]? = some k → k.retired = false → k.done = true → k.lost = none →
        exec (.mxWait tok) s = .next ((s.setTeam gid.tid { tm with toks := tm.toks.set i { k with retired := true, joined := true } }).advance gid g true)) ∧
      (∀ k, tm.toks[i]? = some k → k.retired = false → k.done = false → exec (.mxWait tok) s = .next (s.park gid g)) ∧
      ((∀ k, tm.toks[i]? = some k → k.retired = true) → exec (.mxWait tok) s = .next (s.fail gid g 0x0207))) ∧
    ((elected s gid g .hnd tok).toNat / 2 ^ 56 ≠ 1 → exec (.mxWait tok) s = .next (s.fail gid g 0x0206))

/-- R61, R172, R174, R176, R177, R182, R183: the oldest command of a bank is performed whole: its token is done, its group has the credit back, a load fills the shadow plane, a stream updates its tile, a drain writes the rows and closes the tile. An f32 chunk of finite products is added to the accumulator with one rounding; integers add modulo 2^32. The command's bytes are at hand, no line is in error, it counts on no object, and it is the last of its queue. What R174-R183 leave open follows log 22. -/
def Obligations.MatrixCompletion : Prop :=
  (∀ (s : State) (sock core bank : Nat) (c : MxCmd) (k : Tok) (g : Group),
    let b (u : State) : Bank := (u.core sock core).bank bank
    let n := (s.team c.tid).accBase + pbAcc c.pb
    (b s).queue = [c] → (s.team c.tid).sock = sock → (s.team c.tid).core = core → (s.team c.tid).bank = bank → bank < 2 →
    c.op ∈ [MxOp.ldst, .stream, .drain, .drainAdd, .spgather] → c.arrived s = true → s.cmdPoison c = none → pbXb c.pb = 0 → (s.team c.tid).toks[c.tok]? = some k → s.group ⟨c.tid, c.g⟩ = some g →
    ∃ t, exec (.mxCommandDone sock core bank) s = .next t ∧ (b t).queue = [] ∧ (t.team c.tid).toks[c.tok]? = some { k with done := true, lost := none } ∧
      (∃ g', t.group ⟨c.tid, c.g⟩ = some g' ∧ g'.credits = g.credits + 1 ∧ g'.frames = g.frames) ∧
      (c.op = .ldst → (b t).shd = (s.ldstPlane c).1 ∧ (b t).act = (b s).act ∧ (b t).tiles = (b s).tiles ∧ ∀ q : Spot, t.at q = s.at q) ∧
      (c.op = .spgather → (b t).shd = (s.spPlane c).1 ∧ (b t).act = (b s).act ∧ (b t).tiles = (b s).tiles ∧ ∀ q : Spot, t.at q = s.at q) ∧
      (c.op = .stream → (b t).tile n = (s.streamTile c (b s).act ((b s).tile n)).1 ∧ (∀ m, m ≠ n → (b t).tile m = (b s).tile m) ∧
        (b t).act = (b s).act ∧ (b t).shd = (b s).shd ∧ ∀ q : Spot, t.at q = s.at q) ∧
      (c.op = .drain ∨ c.op = .drainAdd → ((b t).tile n).opn = false ∧ (pbFlag c.pb 3 = false → ((b t).tile n).cells = ((b s).tile n).cells) ∧
        (∀ m, m ≠ n → (b t).tile m = (b s).tile m) ∧ ∀ q : Spot, t.at q = (s.drainMem c ((b s).tile n)).1.at q)) ∧
  (∀ (acc : Nat) (ps : List (FVal × FVal)), ps ≠ [] → (∃ neg m d, Fmt.f32.decode acc = .fin neg m d) →
    (∀ q ∈ ps, ∃ n1 m1 d1 n2 m2 d2, q = (.fin n1 m1 d1, .fin n2 m2 d2) ∧ 0 < d1 ∧ 0 < d2) →
    ∃ v : FVal, v.toRat = (Fmt.f32.decode acc).toRat + (ps.map fun q => q.1.toRat * q.2.toRat).foldl (· + ·) 0 ∧ (chunkSum acc ps).1 = (deliver .f32 (.plain .rne) v).1) ∧
  (∀ (t : Nat) (ps : List (Nat × FVal × FVal)), streamElem 0 true t ps = (BitVec.toNat (BitVec.ofInt 32 (t + (ps.map fun p => intOf p.2.1 * intOf p.2.2).sum)), 0))

/-- R417-R423, R426, R427, R429, R432: outside a handler every ctx instruction raises CTX_STATE. In one, the saves write their records at the pointer, the restores and the fill take theirs, ctx.bank ends the group and saves the team with its last, ctx.drain fences the team. doff.issue delivers its status and starts the Doff when it is 0; rdctr and rdcap deliver the counter and the capability word named. The readings of log 24 hold for what R418-R423 leave open. -/
def Obligations.ContextInstructions : Prop :=
  ∀ (s : State) (gid : GId) (g : Group) (h : Hd) (ce : Bool) (p b job area off : Opnd) (n : BitVec 10), Issues s gid g →
    ((s.team gid.tid).reds.filter fun r => r.g == gid.g) = [] → Sound s gid g [(.ptr, p), (.i32, b), (.i32, job), (.ptr, area), (.i32, off)] →
    let tm := s.team gid.tid
    let a : W64 := elected s gid g .ptr p
    let w := s.who gid g (lowest g.active)
    (g.saved = none → ∀ i ∈ [Instr.ctxSpill p, .ctxFill p, .ctxBank b, .ctxDivSave ce p, .ctxDivRestore ce p, .ctxBarSave ce p, .ctxBarRestore ce p, .ctxDrain],
      exec i s = .next (s.fail gid g 0x0228)) ∧
    (∀ c, g.saved = some c →
      let writes (i : Instr) (bs : List Byte) (ce : Bool) : Prop := s.checkSeg w .write false 0 64 (a, bs.length) = .ok →
        exec i s = .next (((s.putBytes w a bs).devTouch w.job (segVas [(a, bs.length)])).advance gid g ce)
      (winOf a = .global →
        writes (.ctxDivSave ce p) (divBytes (s.flinalCtx gid g c)) ce ∧ writes (.ctxBarSave ce p) tm.barBytes ce ∧
        ((tm.lowestGroup = gid.g → tm.inDrain = false) → writes (.ctxSpill p) (s.groupSection gid g (s.flinalCtx gid g c) (if tm.lowestGroup = gid.g ∧ g.drained = true then s.teamSection gid.tid else [])) true) ∧
        (tm.lowestGroup = gid.g → tm.inDrain = true → exec (.ctxSpill p) s = .next (s.park gid g)) ∧
        (∀ t1 : Team, s.checkSeg w .read false 0 64 (a, 272 + 272 * tm.spools.length) = .ok → tm.readBars (s.getBytes w a (272 + 272 * tm.spools.length)) = some t1 →
          (∀ x ∈ t1.bars, x.opn = false) → (∀ x ∈ (s.die tm.sock).arrivals, x.lid ≠ tm.lid) →
          ∃ t, exec (.ctxBarRestore ce p) s = .next t ∧ (t.team gid.tid).bars = t1.bars ∧ (t.team gid.tid).spools = t1.spools ∧ (t.team gid.tid).hod0 = t1.hod0 ∧
            (t.team gid.tid).hod1 = t1.hod1 ∧ ∀ q : Spot, t.at q = s.at q) ∧
        (∀ len, let k := fld (s.getBytes w a 8) 0 4
          let es := readDiv k ((s.getBytes w a len).drop 8) []
          s.checkSeg w .read false 0 64 (a, 8) = .ok → k ≤ 32 → s.divLen w a k 8 = (.ok, some len) → c.nat.on = false →
          divOk (fun d => (blocksOf (items (s.teamWords gid.tid (c.frames.reverse.getD d ⟨0, 0, 0, [], 0, []⟩).func))).length) c.frames.length c.active g.ended es = true →
          exec (.ctxDivRestore ce p) s = .next (s.advance gid { g with saved := some { c with div := es } } ce)) ∧
        (∀ m bs, m = Nat.max 64 (fld (s.getBytes w a 64) 4 4) → bs = s.getBytes w a m →
          s.checkSeg w .read false 0 64 (a, 64) = .ok → s.checkSeg w .read false 0 64 (a, m) = .ok →
          (s.fillCtx gid c bs = none → exec (.ctxFill p) s = .next (s.fail gid g 0x0229)) ∧
          (∀ c1, s.fillCtx gid c bs = some c1 → fld bs 28 4 = 0 → fld bs 32 4 = 0 →
            ∃ (u : State) (g1 : Group), exec (.ctxFill p) s = .next (u.advance gid g1 true) ∧ g1 = { g with saved := some c1, ended := BitVec.ofNat 32 (fld bs 20 4) } ∧ ∀ q : Spot, u.at q = s.at q))) ∧
      ((elected s gid g .i32 b).toNat ≠ tm.bank → exec (.ctxBank b) s = .next (s.fail gid g 0x0228)) ∧
      ((elected s gid g .i32 b).toNat = tm.bank → tm.state = .resident → g.nat.on = false →
        ∃ t g', exec (.ctxBank b) s = .next t ∧ t.group gid = some g' ∧ g'.bankDone = true ∧ t.cur = none ∧ (∀ q : Spot, t.at q = s.at q) ∧
          ((∀ i x, i ≠ gid.g → tm.groups[i]? = some x → x.bankDone = true ∨ x.status = .out) → (t.team gid.tid).state = .saved) ∧
          ((∃ i x, i ≠ gid.g ∧ tm.groups[i]? = some x ∧ x.bankDone = false ∧ x.status ≠ .out) → (t.team gid.tid).state = .resident)) ∧
      (g.drained = true → exec .ctxDrain s = .next (s.advance gid g true)) ∧
      (g.drained = false → tm.groups = [g] → g.stops = [] → tm.fenced = false → tm.reds = [] → s.teamStill (c.trap.code == 0x0601) gid.tid = true →
          (s.dsp.mode ≠ 0 ∨ ∀ x ∈ tm.copies, x.held = false) →
        ∃ (u : State) (g' : Group), exec .ctxDrain s = .next (u.advance gid g' true) ∧ g' = { g with drained := true } ∧ (u.team gid.tid).fenced = true ∧
          (u.core tm.sock tm.core).gen = (s.core tm.sock tm.core).gen + 1 ∧ ∀ q : Spot, u.at q = s.at q)) ∧
    (∀ st, st = s.doffCheck (some tm.job.toNat) (elected s gid g .i32 job).toNat (elected s gid g .ptr area) →
      (st ≠ 0 → exec (.doffIssue h job area) s = .next (gaveAll s gid g h (BitVec.ofNat 64 st))) ∧
      (st = 0 → ∃ (u : State) (g' : Group), exec (.doffIssue h job area) s = .next (gaveAll u gid g' h 0) ∧ u.doff.busy = true ∧ u.doff.phase = 1 ∧
        u.doff.runArea = elected s gid g .ptr area ∧ u.doff.ctl.toNat % 4096 = (elected s gid g .i32 job).toNat)) ∧
    exec (.rdctr h n) s = .next (gaveAll s gid g h (
      let k := (s.core tm.sock tm.core).bank tm.bank
      let y := s.bay tm.sock (bayOf tm.core)
      BitVec.ofNat 64 (match n.toNat with
        | 0 => y.cycles.toNat
        | 1 => (s.die tm.sock).cycles.toNat
        | 2 => g.courses
        | 3 => k.retired.toNat
        | 4 => y.fll.toNat % 128
        | 5 => s.boot.mode.toNat
        | m => if 8 ≤ m ∧ m ≤ 15 then (SMap.get 0 k.counts (m - 8)).toNat else if 16 ≤ m ∧ m ≤ 23 then (SMap.get 0 y.evts (m - 16)).toNat else 0))) ∧
    Gives s gid g h (.rdcap h off) .i32 (fun l =>
      let o := (opnd s gid g .i32 off l).toNat
      if o % 4 ≠ 0 ∨ 65536 ≤ o then 0xFFFFFFFF else s.boot.caps.getD (o / 4) 0) noEv

/-- R245, R251, R259, R261, R268, R282: the native-only ops and the write-back of a result: n.li, n.mov, n.bcast and n.bfpk write the active lanes of a vector register or a scalar or predicate whole; n.spill and n.fill move a register of every lane to and from the spill stack; a result outstanding lands in the lanes of its mask. The bits of an element above a value are free (log 4); what the scalar form of n.bfpk writes above bit 15 follows log 34. -/
def Obligations.NativeOps : Prop :=
  ∀ (s : State) (gid : GId) (g : Group) (d a b m : BitVec 8) (imm : BitVec 16), Issues s gid g → (∀ n, (g.nat.vec n).length = 32) →
    let v (w : NatWin) (n l : Nat) : BitVec 32 := (w.vec n).getD l 0
    let q (w : NatWin) (n : Nat) : Mask := SMap.get 0 w.q n
    let k := m.toNat % 4
    let writes (i : Instr) (P : NatWin → Prop) : Prop := ∃ w, exec i s = .next (s.setGroup gid { g with nat := w }) ∧ P w
    let vecOnly (w : NatWin) (n : Nat) (f : Nat → BitVec 32) : Prop :=
      w.s = g.nat.s ∧ w.q = g.nat.q ∧ (∀ l, l < 32 → v w n l = if g.active.getLsbD l then f l else v g.nat n l) ∧ ∀ j, j ≠ n → w.vec j = g.nat.vec j
    let scalarOnly (w : NatWin) (x : W64) : Prop := w.v = g.nat.v ∧ w.q = g.nat.q ∧ w.scalar d.toNat = x ∧ ∀ j, j ≠ d.toNat → w.scalar j = g.nat.scalar j
    let predOnly (w : NatWin) (x : Nat → Bool) : Prop :=
      w.v = g.nat.v ∧ w.s = g.nat.s ∧ (∀ l, l < 32 → (q w d.toNat).getLsbD l = if g.active.getLsbD l then x l else (q g.nat d.toNat).getLsbD l) ∧ ∀ j, j ≠ d.toNat → q w j = q g.nat j
    let src (n fixed : Nat) (l : Nat) : BitVec 32 := if n = 255 then (g.nat.scalar fixed).setWidth 32 else v g.nat n l
    let off := (g.nat.scalar 0).toNat + 4 * imm.toNat
    (m.getLsbD 3 = true → ∀ sc, writes (.nLi sc d imm m) fun w => predOnly w fun _ => imm.getLsbD 0) ∧
    (m.getLsbD 3 = false → writes (.nLi true d imm m) fun w => ∃ x, scalarOnly w x ∧
      ∀ j, j < 64 → x.getLsbD j = if j / 16 = k then imm.getLsbD (j % 16) else (m.getLsbD 2 && (g.nat.scalar d.toNat).getLsbD j)) ∧
    (m.getLsbD 3 = false → k ≤ 1 → writes (.nLi false d imm m) fun w => ∃ f : Nat → BitVec 32, vecOnly w d.toNat f ∧
      ∀ l j, l < 32 → j < 32 → (f l).getLsbD j = if j / 16 = k then imm.getLsbD (j % 16) else (m.getLsbD 2 && (v g.nat d.toNat l).getLsbD j)) ∧
    (m.getLsbD 1 = true → ∀ sc, writes (.nMov sc d a m) fun w => predOnly w fun l => (if a.toNat = 0 then g.active else q g.nat a.toNat).getLsbD l) ∧
    (m.getLsbD 1 = false → writes (.nMov true d a m) fun w => scalarOnly w (g.nat.scalar a.toNat)) ∧
    (m.getLsbD 1 = false → m.getLsbD 0 = false → writes (.nMov false d a m) fun w => vecOnly w d.toNat (src a.toNat 2)) ∧
    (m.getLsbD 1 = false → m.getLsbD 0 = true → writes (.nMov false d a m) fun w => w.s = g.nat.s ∧ w.q = g.nat.q ∧
      (∀ l, l < 32 → v w d.toNat l = (if g.active.getLsbD l then src a.toNat 2 l else v g.nat d.toNat l) ∧ v w (d.toNat + 1) l =
        (if g.active.getLsbD l then (if a.toNat = 255 then (g.nat.scalar 2).extractLsb' 32 32 else v g.nat (a.toNat + 1) l) else v g.nat (d.toNat + 1) l)) ∧
      ∀ j, j ≠ d.toNat → j ≠ d.toNat + 1 → w.vec j = g.nat.vec j) ∧
    (m.getLsbD 0 = false → writes (.nBcast d a m) fun w => vecOnly w d.toNat fun _ => (g.nat.scalar a.toNat).setWidth 32) ∧
    (m.getLsbD 0 = true → writes (.nBcast d a m) fun w => ∀ l, l < 32 → g.active.getLsbD l → v w (d.toNat + 1) l ++ v w d.toNat l = g.nat.scalar a.toNat) ∧
    writes (.nBfpk false d a b) (fun w => vecOnly w d.toNat fun l =>
      BitVec.ofNat 32 (Nat.min (src a.toNat 2 l).toNat 255 + 256 * Nat.min (src b.toNat 3 l).toNat 255)) ∧
    writes (.nBfpk true d a b) (fun w => scalarOnly w
      (BitVec.ofNat 64 (Nat.min ((g.nat.scalar a.toNat).toNat % 2 ^ 32) 255 + 256 * Nat.min ((g.nat.scalar b.toNat).toNat % 2 ^ 32) 255))) ∧
    (262144 < off + slotSize m → exec (.nSpill d imm m) s = .next (s.fail gid g 0x000C) ∧ exec (.nFill d imm m) s = .next (s.fail gid g 0x000C)) ∧
    (off + slotSize m ≤ 262144 → g.nat.pend = [] → writes (.nSpill d imm m) fun w => w.v = g.nat.v ∧ w.s = g.nat.s ∧ w.q = g.nat.q ∧
      ∀ j, SMap.get 0 w.spill j = if off ≤ j ∧ j < off + slotSize m then (g.nat.slotBytes g.active d.toNat m).getD (j - off) 0 else SMap.get 0 g.nat.spill j) ∧
    (off + slotSize m ≤ 262144 → (∀ x ∈ g.nat.poison, x.1 < off ∨ off + slotSize m ≤ x.1) → writes (.nFill d imm m) fun w => w = g.nat.fillSlot d.toNat m (SMap.bytes g.nat.spill off (slotSize m))) ∧
    (∀ w, w = g.nat.fillSlot d.toNat m (g.nat.slotBytes g.active d.toNat m) →
      (k = 0 → ∀ l, l < 32 → v w d.toNat l = v g.nat d.toNat l) ∧ (k = 1 → ∀ l, l < 32 → v w d.toNat l = v g.nat d.toNat l ∧ v w (d.toNat + 1) l = v g.nat (d.toNat + 1) l) ∧
      (k = 2 → w.scalar d.toNat = g.nat.scalar d.toNat) ∧ (k = 3 → d ≠ 0 → q w d.toNat = q g.nat d.toNat)) ∧
    (∀ p ps, g.nat.pend = p :: ps → p.file = .vec → p.lost = none →
      ∃ w, exec (.resultWriteback gid) s = .next (s.setGroup gid { g with nat := w, status := if g.status = .wmark ∧ ps = [] then .ready else g.status }) ∧ w.pend = ps ∧
        ∀ l, l < 32 → v w p.reg l = if p.mask.getLsbD l then p.lanes.getD l 0 else v g.nat p.reg l)

/-- R67-R69, R225, R252, R255, R284, R286-R289, R293-R295: the issue of courses. The arbiter picks a ready group of its cluster, no other while a meeting on the cluster has met; NUM_THRESHOLD is taken before a course begins; a course is decoded whole before its first bundle runs, and an undefined one has its entry discarded and translated again once, then raises NATIVE_UNDEF; the end of a course counts its events, saturating, and one bay cycle; a window that is full closes; a quad whose members are all settled meets, and its participants run together or, where their runs differ in length, stop with LOCKSTEP_MISMATCH. That a course's end takes one bay cycle is the model's choice (log 10). -/
def Obligations.CoursesIssue : Prop :=
  ∀ (s : State) (sock core cluster : Nat),
    (∀ x s2, s.choose sock core cluster = some (x, s2) → x ∈ s.rotation sock core cluster ∧ s.isReady x = true ∧ s2.mem = s.mem) ∧
    ((∃ x ∈ s.rotation sock core cluster, s.isReady x = true) → (s.choose sock core cluster).isSome = true) ∧
    (s.cur = none → (∀ x ∈ s.rotation sock core cluster, ∀ g, s.group x = some g → g.preStop = false ∧ g.status ≠ .stall ∧ (g.nat.on = true → s.badCourse x g = none)) →
      (s.meetingHolds sock core cluster = true ∨ s.choose sock core cluster = none → exec (.courseIssue sock core cluster) s = .next s) ∧
      (∀ x s2 g, s.meetingHolds sock core cluster = false → s.choose sock core cluster = some (x, s2) → s2.group x = some g →
        (g.numTrap = [] ∨ g.begun = true ∨ g.inHandler = true →
          exec (.courseIssue sock core cluster) s = .next { s2.setGroup x { g with begun := true } with cur := some x }) ∧
        (∀ n ns, g.numTrap = n :: ns → g.begun = false → g.inHandler = false →
          exec (.courseIssue sock core cluster) s = .next (s2.raisePoint x { g with numTrap := ns } 0x0502 0xFFFFFFFF (BitVec.ofNat 64 n) 0)))) ∧
    (∀ gid g, s.cur = some gid → s.group gid = some g → g.nat.on = true → (∃ e ∈ (s.cache (classOf (s.team gid.tid).sock)).entries, e.id = g.nat.entry) →
      let x := s.curBody gid g
      let n := g.nat.bundle
      let eff := s.effOf gid
      let sup := s.supFunc gid g
      let undef (g : Group) (i slot : Nat) : State := s.raise gid g 0x000B 0xFFFFFFFF (BitVec.ofNat 64 i) (BitVec.ofNat 32 slot)
      let bad := if x.courseAt n then (if x.isTable eff sup n then some (n, 3) else courseBad eff sup x (s.xbody gid g g.frame.func noResume) 96 23 n) else none
      (∀ i slot, bad = some (i, slot) → g.nat.retried = true → exec (.bundleIssue gid) s = .next (undef (s.natSync gid g) i slot)) ∧
      (bad ≠ none → g.nat.retried = false → ∃ u g', exec (.bundleIssue gid) s = .next u ∧ u.group gid = some g' ∧ g'.status = .xlat ∧ g'.nat.retried = true ∧ u.cur = none ∧ u.mem = s.mem ∧
        ∀ e ∈ (u.cache (classOf (s.team gid.tid).sock)).entries, e.id ≠ g.nat.entry) ∧
      (bad = none → x.pointAt n = none → exec (.bundleIssue gid) s = .next (match x.bundles[n]? with
        | none => undef g n 3
        | some w => match decodeBundle eff sup w with
          | .error slot => undef g n slot
          | .ok nb => if nb.sync = true ∧ g.nat.met = false then s.arriveMeeting gid g (match x.waitPoint n with
              | some p => p.word
              | none => 0)
            else s.runBundle gid g x nb))) ∧
    (∀ gid g x nb, s.cur = some gid → s.group gid = some g → g.nat.on = true → g.nat.resume = noResume → nb.ops = [] → nb.w = false →
      let n := g.nat.bundle + 1
      let u := s.runBundle gid g x nb
      ∃ g', u.group gid = some g' ∧ g'.nat = { g.nat with bundle := n, met := false } ∧ g'.active = g.active ∧ g'.div = g.div ∧ u.mem = s.mem ∧
        (nb.e = false → u.cur = some gid ∧ g'.courses = g.courses) ∧
        (nb.e = true → (x.pointAt n).isSome = true ∨ x.bundles.length ≤ n → u.cur = none ∧ .courseEnd gid ∈ u.agenda) ∧
        (nb.e = true → (x.pointAt n).isNone = true → n < x.bundles.length → u.cur = some gid ∧ g'.courses = g.courses + 1 ∧ g'.begun = true)) ∧
    (∀ gid g, s.group gid = some g → (s.team gid.tid).state ≠ .done → g.preStop = false →
      let tm := s.team gid.tid
      ∃ t g', exec (.courseEnd gid) s = .next t ∧ t.group gid = some g' ∧ g'.courses = g.courses + 1 ∧ g'.begun = false ∧ g'.evs = [] ∧ g'.frames = g.frames ∧ t.mem = s.mem ∧
        t.bayNow gid = (s.bayNow gid + 1) % 2 ^ 64 ∧ ((t.core tm.sock tm.core).bank tm.bank).retired = ((s.core tm.sock tm.core).bank tm.bank).retired + 1 ∧
        ∀ n, (SMap.get 0 ((t.core tm.sock tm.core).bank tm.bank).counts n).toNat =
          Nat.min (2 ^ 32 - 1) ((SMap.get 0 ((s.core tm.sock tm.core).bank tm.bank).counts n).toNat + g.evs.getD n 0)) ∧
    (∀ bank, let c := s.core sock core
      let k := c.bank bank
      (k.window ≠ 0 → k.window.toNat ≤ k.retired.toNat → exec (.numWindowClose sock core bank) s = .next (s.setCore sock core (c.setBank bank { k with counts := [], retired := 0 }))) ∧
      (k.window = 0 ∨ k.retired.toNat < k.window.toNat → exec (.numWindowClose sock core bank) s = .next s)) ∧
    (∀ tid quad, let tm := s.team tid
      let c := s.core tm.sock tm.core
      (c.openMeeting tid quad = none → exec (.lockstepMeeting tid quad) s = .next s) ∧
      (∀ mt, c.openMeeting tid quad = some mt →
        ((∃ i, i < 4 ∧ s.settledFor mt (4 * mt.quad + i) = false) ∨ s.clusterBusy mt = true → exec (.lockstepMeeting tid quad) s = .next s) ∧
        ((∀ i, i < 4 → s.settledFor mt (4 * mt.quad + i) = true) → s.clusterBusy mt = false → mt.arrived.Nodup →
          ((∀ i ∈ mt.arrived, ∀ j ∈ mt.arrived, s.lockLenOf ⟨tid, i⟩ = s.lockLenOf ⟨tid, j⟩) →
            ∃ free, (free.core tm.sock tm.core).meetings = c.meetings.erase mt ∧ free.mem = s.mem ∧
              (∀ i ∈ mt.arrived, ∀ g, s.group ⟨tid, i⟩ = some g → free.group ⟨tid, i⟩ = some { g with status := .ready, arb := g.arb - 1 }) ∧
              (∀ r, runMembers free tid mt.members free = .ok r → exec (.lockstepMeeting tid quad) s = .next { r with cur := s.cur }) ∧
              (∀ r, runMembers free tid mt.members free = .error r → ∃ u, exec (.lockstepMeeting tid quad) s = .next u ∧ u.mem = r.mem ∧ u.cur = s.cur)) ∧
          ((∃ i ∈ mt.arrived, ∃ j ∈ mt.arrived, s.lockLenOf ⟨tid, i⟩ ≠ s.lockLenOf ⟨tid, j⟩) →
            ∃ u, exec (.lockstepMeeting tid quad) s = .next u ∧ u.mem = s.mem ∧ ∀ i ∈ mt.arrived, ∀ g, s.group ⟨tid, i⟩ = some g →
              ∃ g' t, u.group ⟨tid, i⟩ = some g' ∧ g'.status = .stopping ∧ g'.trap = some t ∧ t.code = 0x0205 ∧ g'.active = g.active))))
/-- R220-R225, R227, R230: the Spindle's events. A claim's end writes one entry whose body is the refusal found or the translation, in a free run of granules, evicting no pinned entry; the groups that waited issue again, or take XC_FULL where no run can be made; an entry read in error is discarded and, pinned, translated again with no fault; SPN_XLMAP pins an entry, shows it, and releases it. The body of an entry is what the translator writes, whose choices follow log 9; which free run and which bay are taken follows log 10. -/
def Obligations.TranslationEvents : Prop :=
  ∀ (s : State) (sock bay : Nat),
    let cls := classOf sock
    let mine := (s.cache cls).claims.find? fun k => k.sock == sock && k.bay == bay
    (mine = none → exec (.translationDone sock bay) s = .next s) ∧
    (∀ cl, mine = some cl → cl.key.cls.toNat = cls → (∀ x ∈ cl.waiting, ∀ g, s.group x = some g → g.look = 0) →
      let es := (s.cache cls).entries
      let fns := match s.module cl.key.module with | some m => m.funcs | none => []
      let early := match fns[cl.key.func.toNat]? with | some f => f.refused | none => Code.ofXl .ref
      let ref : Nat × Nat := if early ≠ 0 then (early, 0) else match checkFunc fns cl.key.func.toNat with | some r => (Code.ofXl r.1, r.2) | none => (0, 0)
      let size := if early ≠ 0 ∨ (checkFunc fns cl.key.func.toNat).isSome then 64 else (s.body cl.key).size
      ∃ u : State, exec (.translationDone sock bay) s = .next u ∧ u.mem = s.mem ∧
        (u.cache cls).claims = (s.cache cls).claims.filter (fun k => k.key != cl.key) ∧
        (∀ x g, x ∉ cl.waiting → s.group x = some g → u.group x = some g) ∧
        ((∃ b, b + granOf size ≤ granules ∧ (∀ e ∈ es, e.start + e.grans ≤ b ∨ b + granOf size ≤ e.start) ∧
            (b = 0 ∨ ∃ e ∈ es, b = e.start + e.grans)) → size ≤ 256 * 2 ^ 20 →
          ∃ ent : XEntry, (u.cache cls).entries = es ++ [ent] ∧ ent.key = cl.key ∧ ent.refused = ref.1 ∧ ent.refoff = ref.2 ∧ ent.grans = granOf size ∧
            ent.start + ent.grans ≤ granules ∧ (∀ e ∈ es, e.start + e.grans ≤ ent.start ∨ ent.start + ent.grans ≤ e.start) ∧
            ∀ x ∈ cl.waiting, ∀ g, s.group x = some g → g.status = .xlat → u.group x = some { g with status := .ready }) ∧
        ((es.map XEntry.id).Nodup → ∀ e ∈ es, s.pinned e = true → e ∈ (u.cache cls).entries) ∧
        ((∀ e ∈ es, s.pinned e = true) → (∀ b, b + granOf size ≤ granules → ∃ e ∈ es, b < e.start + e.grans ∧ e.start < b + granOf size) → size ≤ 256 * 2 ^ 20 →
          (u.cache cls).entries = es ∧ ∀ x ∈ cl.waiting, ∀ g, s.group x = some g → g.status = .xlat →
            ∃ (g' : Group) (t : Trap), u.group x = some g' ∧ g'.status = .stopping ∧ g'.trap = some t ∧ t.code = Code.xcFull ∧ t.d1 = 0 ∧ g'.frames = g.frames) ∧
        (256 * 2 ^ 20 < size → (u.cache cls).entries = es ∧ ∀ x ∈ cl.waiting, ∀ g, s.group x = some g → g.status = .xlat →
          ∃ (g' : Group) (t : Trap), u.group x = some g' ∧ g'.status = .stopping ∧ g'.trap = some t ∧ t.code = Code.xcFull ∧ t.d1 = 1 ∧ g'.frames = g.frames)) ∧
    (∀ (c : BitVec 1) (idx : Nat),
      ((∀ e ∈ (s.cache c.toNat).entries, e.id ≠ idx) → exec (.entryReadError c idx) s = .next s) ∧
      (∀ e, ((s.cache c.toNat).entries.find? fun x => x.id == idx) = some e →
        ∃ u : State, exec (.entryReadError c idx) s = .next u ∧ u.teams = s.teams ∧ u.mem = s.mem ∧
          (u.cache c.toNat).entries = (s.cache c.toNat).entries.filter (fun x => x.id != idx) ∧
          ((∃ k ∈ (u.cache c.toNat).claims, k.key = e.key) ↔ (s.pinned e = true ∨ ∃ k ∈ (s.cache c.toNat).claims, k.key = e.key)))) ∧
    (s.inS sock = false → exec (.xlmapMap sock) s = .next s ∧ exec (.xlmapUnmap sock) s = .next s) ∧
    (s.inS sock = true →
     let key := (s.die sock).xlKey
     let k := key.cls.toNat
     let found := (s.cache k).entries.any fun e => e.key == key
     (∃ u : State, exec (.xlmapMap sock) s = .next u ∧ u.teams = s.teams ∧ u.cache0 = s.cache0 ∧ u.cache1 = s.cache1 ∧ (u.die sock).xlmap = some key ∧
       (∀ q, u.readAny q (.spnXlmap sock) = if found then 0xC0000000 else 0x80000000) ∧
       (∀ e ∈ (u.cache k).entries, e.key = key → u.pinned e = true) ∧
       (found = false → ∀ off n, u.xlWin sock off n = List.replicate n 0)) ∧
     (∃ u : State, exec (.xlmapUnmap sock) s = .next u ∧ u.teams = s.teams ∧ u.cache0 = s.cache0 ∧ u.cache1 = s.cache1 ∧ (u.die sock).xlmap = none ∧
       (∀ q, u.readAny q (.spnXlmap sock) = 0) ∧ ∀ off n, u.xlWin sock off n = List.replicate n 0))

/-- R413, R415, R416, R424: pre-emption of a bank and the registers beside it. CTX_PREEMPT takes a request while GO reads 0; at the yield point, or when a limit other than 0 expires, every group of the bank that can be switched out stops with reason 3 at its point, the others are marked to, as is from the request on a group that runs its handler; GO clears when every group has stopped; CLR empties a log; DSP_RESTORE marks the saved team its header names. What R416 and R424 leave open follows log 24. -/
def Obligations.PreemptionEvents : Prop :=
  ∀ (s : State) (sock core : Nat),
    let c := s.core sock core
    let stops (b : Nat) (u : State) : Prop :=
      (∀ x ∈ s.bankGroups sock core b, ∀ g, s.group x = some g → ∀ id, g.waits.reelReq = some id → ∀ q ∈ c.port, q.id = id → q.tid = x.tid ∧ q.g = x.g) →
      u.mem = s.mem ∧ ∀ x ∈ s.bankGroups sock core b, x ∉ c.preOut → ∀ g, s.group x = some g →
        (s.canStop x g = true → g.preStopped = false → ∃ (g' : Group) (t : Trap), u.group x = some g' ∧ g'.status = .stopping ∧ g'.trap = some t ∧
          g'.frames = g.frames ∧ g'.active = g.active ∧ t.code = Code.preempt ∧ t.reason = 3 ∧ t.word = s.pointWord x g ∧ t.opn = s.tileOpen x.tid) ∧
        (s.canStop x g = false → g.status ≠ .out → g.preStopped = false → u.group x = some { g with preStop := true }) ∧
        (g.status = .out → u.group x = some g)
    (∀ v : W32, c.preempt.getLsbD 31 = true → exec (.preemptRequest sock core v) s = .next s) ∧
    (s.inS sock = false → ∀ b k v, exec (.preemptRequest sock core v) s = .next s ∧ exec (.alogClear sock core b k v) s = .next s) ∧
    (∀ v : W32, s.inS sock = true → c.preempt.getLsbD 31 = false →
      let gs := s.bankGroups sock core (if v.getLsbD 24 then 1 else 0)
      let later (g : Group) : Bool := g.inHandler && g.status != .held
      let settled := gs.all fun x => ((s.group x).map fun g => if later g then g.status == .out else g.preStopped).getD true
      (v.getLsbD 31 = false → exec (.preemptRequest sock core v) s = .next (s.setCore sock core { c with preempt := v &&& 0x81FFFFFF, preOut := [] })) ∧
      (v.getLsbD 31 = true → ∃ u, exec (.preemptRequest sock core v) s = .next u ∧ u.mem = s.mem ∧
        (u.core sock core).preempt = (if settled then v &&& 0x01FFFFFF else v &&& 0x81FFFFFF) ∧
        ∀ x g, s.group x = some g → u.group x = some (if x ∈ gs ∧ later g = true then { g with preStop := true } else g))) ∧
    (c.preBank = none → exec (.preemptYield sock core) s = .next s ∧ exec (.preemptLimit sock core) s = .next s) ∧
    (∀ b, c.preBank = some b →
      ((c.bank b).atYield = false → exec (.preemptYield sock core) s = .next s) ∧
      ((c.bank b).atYield = true → ∃ u, exec (.preemptYield sock core) s = .next u ∧ stops b u) ∧
      (c.preempt.toNat % 2 ^ 24 = 0 → exec (.preemptLimit sock core) s = .next s) ∧
      (c.preempt.toNat % 2 ^ 24 ≠ 0 → ∃ u, exec (.preemptLimit sock core) s = .next u ∧ stops b u)) ∧
    (∀ (b : Nat) (k : BitVec 2) (v : W32),
      (v.getLsbD 31 = false ∨ k = 3 → exec (.alogClear sock core b k v) s = .next s) ∧
      (s.inS sock = true → v.getLsbD 31 = true → k ≠ 3 → ∃ n : Bank, exec (.alogClear sock core b k v) s = .next (s.setCore sock core (c.setBank b n)) ∧
        n.log0 = (if k = 0 then ALog.reset else (c.bank b).log0) ∧ n.log1 = (if k = 1 then ALog.reset else (c.bank b).log1) ∧
        n.log2 = (if k = 2 then ALog.reset else (c.bank b).log2) ∧ { n with log0 := .reset, log1 := .reset, log2 := .reset } =
          { c.bank b with log0 := .reset, log1 := .reset, log2 := .reset })) ∧
    (∀ v : W64,
      (s.dsp.restore.getLsbD 63 = true ∨ (v.getLsbD 63 = true ∧ s.restoreTarget v = none) → exec (.dspRestore v) s = .next s) ∧
      (s.dsp.restore.getLsbD 63 = false → v.getLsbD 63 = false → exec (.dspRestore v) s = .next { s with dsp := { s.dsp with restore := v &&& restoreMask } }) ∧
      (s.dsp.restore.getLsbD 63 = false → v.getLsbD 63 = true → ∀ tid live, s.restoreTarget v = some (tid, live) →
        ∃ u : State, exec (.dspRestore v) s = .next u ∧ u.dsp = { s.dsp with restore := v &&& restoreMask } ∧ u.mem = s.mem ∧
          u.team tid = { s.team tid with waitRestore := true, restoreLive := live } ∧ (∀ j, j ≠ tid → u.team j = s.team j) ∧ .placementPass ∈ u.agenda))

/-- R13-R16, R19, R20, R36: a start. Stages run in order from stage 1, each beginning when the one before has ended; a part that fails an optional stage, its own or by an image below the anti-rollback counter, is recorded and left out, a required stage that fails ends the start with the record of R14, and the third failure leaves recovery mode; the next start skips the recorded part, takes the other image slot, trains lower, or doubles the limit; stage 2 runs the image of its slot; stage 10 publishes the capability list, raises the doorbell and enters normal or test mode. What R13-R15 leave open follows logs 5 and 30: which slot an accepted recovery image takes, and what a start keeps after a retry that passed. -/
def Obligations.BootStages : Prop :=
  ∀ (s : State),
    let b := s.boot
    let n := b.stage
    let begun (u : State) (m : Nat) : Prop :=
      u.boot.last = BitVec.ofNat 8 m ∧
        if u.boot.recRequired = true ∧ u.boot.fail.toNat = m ∧ 3 ≤ u.boot.tries.toNat then u.boot.mode = 3 ∧ u.boot.stage = 0 else u.boot.stage = m
    let failedAt (u : State) (m : Nat) (cause : BitVec 4) : Prop :=
      u.boot.stage = 0 ∧ u.boot.valid = true ∧ u.boot.fail = BitVec.ofNat 8 m ∧ u.boot.sock = 0xF ∧ u.boot.cause = cause ∧ u.boot.ukind = 0 ∧ u.boot.unit = 0 ∧
      u.boot.tries = (if b.valid = true ∧ b.fail.toNat = m ∧ b.sock = 0xF then (if b.tries = 15 then 15 else b.tries + 1) else 1) ∧
      u.boot.mode = (if 3 ≤ u.boot.tries.toNat then 3 else b.mode) ∧ u.mem = s.mem
    (∃ u : State, exec .coldStart s = .next u ∧ begun u 1 ∧ (u.boot.stage = 1 → u.boot.mode = 1) ∧
      (u.boot.fail, u.boot.sock, u.boot.cause, u.boot.valid, u.boot.ukind, u.boot.unit) = (b.fail, b.sock, b.cause, b.valid, b.ukind, b.unit) ∧
      (b.recovery = none → u.boot.tries = b.tries ∧ u.boot.imgA = b.imgA ∧ u.boot.imgB = b.imgB) ∧
      (∀ i, b.recovery = some i → u.boot.tries = 0 ∧ (u.boot.imgA, u.boot.imgB) = if b.slotB then (b.imgA, some i) else (some i, b.imgB)) ∧
      u.boot.skips = (if b.valid = true ∧ b.recRequired = false then [⟨b.sock, b.cause, b.ukind, b.unit⟩] else []) ∧
      u.boot.slotB = (if b.valid = true ∧ b.recRequired = true ∧ b.fail = 2 ∧ u.boot.tries ≠ 0 then !b.slotB else b.slotB) ∧
      (u.boot.doubled = true ↔ b.valid = true ∧ b.recRequired = true ∧ b.fail ≠ 2 ∧ b.fail ≠ 3) ∧
      u.boot.pcieStep = (if b.valid = true ∧ b.recRequired = true ∧ b.fail = 3 then (if u.boot.tries = 0 then b.pcieStep else u.boot.tries.toNat) else 0) ∧
      u.boot.rollback = b.rollback ∧ u.boot.caps = [] ∧ u.teams = [] ∧ u.launches = [] ∧ u.cores = [] ∧ u.mem = s.mem.filter (fun p => isHost p.1)) ∧
    (∃ u : State, exec .standbyPowerLoss s = .next u ∧ u.boot.valid = false ∧ u.boot.fail = 0xFF ∧ u.boot.sock = 0xF ∧ u.boot.tries = 0 ∧ u.boot.stage = 0 ∧ u.teams = []) ∧
    (∀ v : W32, exec (.bootrecClear v) s = .next (if v.getLsbD 0 then { s with boot := b.clearRec } else s)) ∧
    (∀ f, exec (.bootStageLimit f) s = exec (.bootStageEnd [{ f with cause := 1 }]) s) ∧
    (∀ fails, n = 0 → exec (.bootStageEnd fails) s = .next s) ∧
    (∀ fails old : List BootFail, n ≠ 0 →
      old = (if n = 2 ∧ b.slotImg.2.toNat < b.rollback.toNat then [⟨0xF, 3, 0, 0⟩]
        else if n = 6 then (s.presentDies.filter fun k => decide ((SMap.get b.pkgver b.vers k).toNat < b.rollback.toNat)).map fun k => ⟨BitVec.ofNat 4 k, 3, 0, 0⟩ else []) →
      let all := fails ++ old
      let cause := (all.headD ⟨0xF, 1, 0, 0⟩).cause
      let lost (k : Nat) : Bool := b.skipped k || all.any fun f => f.sock.toNat == k
      ∃ u : State, exec (.bootStageEnd fails) s = .next u ∧ u.mem = s.mem ∧
        ((n = 1 ∨ n = 2 ∨ n = 3 ∨ n = 7 ∨ n = 8) → if all = [] then begun u (n + 1) ∧ u.boot.valid = b.valid ∧ u.boot.mode = (if u.boot.stage = 0 then 3 else b.mode) else failedAt u n cause) ∧
        (n = 2 → all = [] → u.boot.pkgver = b.slotImg.2 ∧ (u.boot.digests.find? fun d => d.1 == 4).map (·.2) = b.slotImg.1) ∧
        (n = 7 → fails = [] → u.reel.empty = 512 ∧ ∀ k, k < 4 → u.reel.byp.getLsbD k = !(s.die k).present) ∧
        (n = 8 → fails = [] → (u.cache0.inuse = true ↔ ∃ k ∈ s.presentDies, 2 ≤ k) ∧ (u.cache1.inuse = true ↔ ∃ k ∈ s.presentDies, k < 2)) ∧
        (n = 4 → if (List.range 8).any fun i => !lost (8 + i) then begun u 5 ∧ (∀ i, i < 8 → u.boot.hbmStacks.getLsbD i = !lost (8 + i)) else failedAt u 4 cause) ∧
        (n = 5 → if (List.range 4).any fun k => !lost k then begun u 6 ∧ u.boot.io1 = !lost 5 ∧ (∀ k, k < 4 → lost k = false → (u.die k).present = true)
          else failedAt u 5 cause) ∧
        (n = 6 → if ∃ k ∈ s.presentDies, lost k = false then begun u 7 ∧ (∀ k ∈ s.presentDies, (u.die k).present = !lost k) else failedAt u 6 cause) ∧
        ((n = 4 ∨ n = 5 ∨ n = 6) → ∀ f, all.getLast? = some f → (f.sock ≠ 0xF → u.boot.sock ≠ 0xF → u.boot.valid = true ∧ u.boot.fail = BitVec.ofNat 8 n ∧
          u.boot.sock = f.sock ∧ u.boot.cause = f.cause ∧ u.boot.ukind = 0 ∧ u.boot.unit = 0)) ∧
        (n = 9 → begun u 10 ∧ (b.io1 = false → u.boot.peersPresent = 0 ∧ u.boot.peersUp = 0 ∧ ∀ i, u.boot.tier.getD i 0 = 0) ∧
          (∀ f, fails = [f] → u.boot.valid = true ∧ u.boot.fail = 9 ∧ u.boot.sock = 5 ∧ u.boot.cause = f.cause ∧
            (f.kind = 1 → u.boot.ukind = 1 ∧ u.boot.unit = f.unit &&& 7 ∧ u.boot.tier.getD (f.unit.toNat % 8) 0 = 0) ∧
            (f.kind = 2 → u.boot.ukind = 2 ∧ u.boot.unit = f.unit &&& 15 ∧ u.boot.peersUp.getLsbD (f.unit.toNat % 16) = false) ∧
            (f.kind ≠ 1 → f.kind ≠ 2 → u.boot.ukind = 0 ∧ u.boot.unit = 0))) ∧
        (n = 10 → if fails = [] then u.boot.stage = 0 ∧ u.boot.mode = (if b.testReq then 2 else 0) ∧ u.boot.tries = 0 ∧ u.boot.valid = b.valid ∧ .doorbell ∈ u.irqs ∧
            u.boot.caps = ({ u with boot := { u.boot with caps := [] } } : State).capList ∧
            (∃ h rest, u.boot.caps = h :: rest ∧ h.toNat % 65536 = 1 ∧ h.toNat / 65536 % 16 = 1) ∧
            u.boot.rollback = (if b.rollback.toNat < b.pkgver.toNat ∧ 1 ≤ b.passes then b.pkgver else b.rollback) ∧
            u.boot.passes = (if b.rollback.toNat < b.pkgver.toNat ∧ b.passes = 0 then 1 else 0)
          else failedAt u 10 cause))

/-- R19-R23, R300: modes, trust and updates. A firmware command acts only where it carries the last nonce and its signature verifies: test mode at once or at the end of the start, normal mode again once no launch is live; recovery mode takes a signed image at or above the counter, and nothing else of the host's; the attestation report holds the nonce, the present sockets, the counter, PLN_BOOTREC and the flags; updates are queued, run one at a time, and change the firmware identity at commit only, each with its completion status. Signatures are ECDSA on P-256 with keys the spec does not give; where a command holds the nonce is the model's choice (log 6). -/
def Obligations.TrustAndUpdates : Prop :=
  ∀ (s : State),
    let b := s.boot
    (∀ c : SignedCmd,
      let ok := !b.report.isEmpty && holdsBytes c.body (digestBytes b.nonce) && ecdsaVerify vendorKey (sha256 c.body) c.sig
      exec (.testModeCommand c) s = .next (
        if ok = true ∧ b.mode = 0 then { s with boot := { b with mode := 2 } }
        else if ok = true ∧ b.mode = 1 ∧ b.stage ≠ 0 then { s with boot := { b with testReq := true } } else s) ∧
      ∃ u : State, exec (.exitCommand c) s = .next u ∧ u.boot = (if ok = true ∧ b.mode = 2 then { b with exitReq := true } else b) ∧ { u with boot := b, agenda := s.agenda } = s) ∧
    exec .testModeExit s = .next (if b.exitReq = true ∧ b.mode = 2 ∧ s.liveCount = 0 then { s with boot := { b with exitReq := false, mode := 0 } } else s) ∧
    (∀ d v sig, exec (.recoveryImage d v sig) s = .next (if b.mode = 3 ∧ ecdsaVerify vendorKey d sig = true ∧ b.rollback.toNat ≤ v.toNat
      then { s with boot := { b with recovery := some (d, v) } } else s)) ∧
    (b.mode = 3 → (∀ nonce, exec (.attestationRequest nonce) s = .next s) ∧ ∀ p w d sig, exec (.updateRequest p w d sig) s = .next s) ∧
    (b.mode ≠ 3 → ∀ nonce, ∃ r : List Byte, exec (.attestationRequest nonce) s = .next { s with boot := { b with nonce := nonce, report := r } } ∧ r.length = 1652 ∧
      fld r 0 4 = 1 ∧ (∀ k, k < 16 → (fld r 4 4).testBit k = s.sockPresent k) ∧ (r.drop 8).take 32 = digestBytes nonce ∧
      (∀ k, k < 16 → (6 ≤ k ∨ s.sockPresent k = false) → zeroAt (r.drop (40 + 32 * k)) 0 32 = true ∧ zeroAt (r.drop (564 + 64 * k)) 0 64 = true) ∧
      (∀ k, k < 6 → k ≠ 4 → s.sockPresent k = true → fld r (564 + 64 * k) 64 =
        (identitySign k (sha256 (digestBytes nonce ++ natLe k 1 ++ (r.drop (40 + 32 * k)).take 32))).toNat) ∧ zeroAt (r.drop 820) 0 64 = true ∧
      fld r 552 4 = b.rollback.toNat ∧ fld r 556 4 = b.bootrec ∧ fld r 560 4 = (if s.updating.isSome ∨ s.updates ≠ [] then 1 else 0) + (if b.mode = 2 then 2 else 0) ∧
      fld r 1588 64 = (identitySign 4 (sha256 (r.take 1588))).toNat) ∧
    (b.mode ≠ 3 → ∀ (p : Part) (w : UpdWork) d sig,
      let ok := (∀ v, w = .image v → ecdsaVerify vendorKey d sig = true ∧ b.rollback.toNat ≤ v.toNat) ∧ ¬ ∃ k, p = .die k ∧ s.presentDies = [k.toNat]
      ∃ u : State, exec (.updateRequest p w d sig) s = .next u ∧ u.boot = b ∧ u.mem = s.mem ∧ u.updating = s.updating ∧
        (ok → u.updates = s.updates ++ [⟨p, w, d⟩] ∧ u.updLog = s.updLog) ∧ (¬ ok → u.updates = s.updates ∧ u.updLog = (p, .refused) :: s.updLog)) ∧
    ((s.updating.isSome ∨ s.updates = []) → exec .updateStart s = .next s) ∧
    (∀ (x : Update) xs, s.updating = none → s.updates = x :: xs →
      (∀ k, x.part = .die k → s.presentDies = [k.toNat] → ∃ u : State, exec .updateStart s = .next u ∧ u.updating = none ∧ u.updates = xs ∧ u.updLog = (x.part, .refused) :: s.updLog ∧
        u.boot = b ∧ u.rst = s.rst) ∧
      (∀ k, x.part = .die k → s.presentDies ≠ [k.toNat] → s.dieFree k.toNat = false → exec .updateStart s = .next s) ∧
      ((∀ k, x.part = .die k → s.presentDies ≠ [k.toNat] ∧ s.dieFree k.toNat = true) →
        ∃ u : State, exec .updateStart s = .next u ∧ u.updating = some ⟨x, false⟩ ∧ u.updates = xs ∧ u.updLog = s.updLog ∧ u.boot.vers = b.vers ∧ u.boot.digests = b.digests ∧
          (∀ k, x.part = .die k → (k, 0, false) ∈ u.rst.waiting) ∧ (∀ k, x.part = .tierPort k → u.boot.tier.getD k.toNat 0 = 0) ∧
          (∀ k, x.part = .peerLink k → u.boot.peersUp.getLsbD k.toNat = false) ∧ (∀ k, x.part = .stack k → u.boot.hbmStacks.getLsbD k.toNat = false) ∧
          (x.part = .io1 → u.boot.io1 = false ∧ u.boot.peersUp = 0 ∧ u.boot.tier = []))) ∧
    (s.updating = none → ∀ ok, exec (.updateCommit ok) s = .next s) ∧
    (∀ (x : Update) again, s.updating = some ⟨x, again⟩ → (∀ k, x.part ≠ .die k) →
      (∃ u : State, exec (.updateCommit true) s = .next u ∧ u.updating = none ∧ u.updLog = (x.part, if again then .restored else .committed) :: s.updLog ∧
        (x.part = .io1 → u.boot.io1 = true) ∧ (∀ k, x.part = .stack k → u.boot.hbmStacks.getLsbD k.toNat = true) ∧
        (again = true ∨ (∀ v, x.work ≠ .image v) ∨ (x.part ≠ .io0 ∧ x.part ≠ .io1) →
          u.boot.vers = b.vers ∧ u.boot.digests = b.digests ∧ u.boot.pkgver = b.pkgver) ∧
        (again = false → ∀ v, x.work = .image v →
          (x.part = .io1 → SMap.get b.pkgver u.boot.vers 5 = v ∧ (u.boot.digests.find? fun q => q.1 == 5) = some (5, x.digest)) ∧
          (x.part = .io0 → u.boot.pkgver = v ∧ (u.boot.digests.find? fun q => q.1 == 4) = some (4, x.digest)))) ∧
      (∃ u : State, exec (.updateCommit false) s = .next u ∧ u.updating = (if again then none else some ⟨x, true⟩) ∧
        u.updLog = (if again then (x.part, .leftOut) :: s.updLog else s.updLog) ∧ u.boot.valid = true ∧ u.boot.vers = b.vers ∧
        u.boot.fail.toNat = (match x.part with | .io0 => 2 | .hostPort => 3 | .io1 => 5 | .stack _ => 4 | _ => 9) ∧
        u.boot.sock = (match x.part with | .io0 => 4 | .hostPort => 4 | .stack k => 8 + k.setWidth 4 | _ => 5))) ∧
    (∀ (x : Update) again (k : BitVec 4), s.updating = some ⟨x, again⟩ → x.part = .die k → k.toNat < 4 →
      exec (.updateCommit false) s = .next s ∧ (s.inService k.toNat = false → exec (.updateCommit true) s = .next s) ∧
      (s.inService k.toNat = true → ∃ u : State, exec (.updateCommit true) s = .next u ∧ u.updating = none ∧ u.updLog = (x.part, .committed) :: s.updLog ∧
        (∀ v, x.work = .image v → SMap.get b.pkgver u.boot.vers k.toNat = v ∧
          (u.boot.digests.find? fun q => q.1 == k.toNat) = some (k.toNat, x.digest) ∧ (u.die k.toNat).spnver = (s.die k.toNat).spnver + 1) ∧
        (∀ c, x.work = .calibrate c → ∀ y ∈ (s.die k.toNat).bays, ∃ f : W32, (y.1, { y.2 with fll := f }) ∈ (u.die k.toNat).bays ∧ f.toNat % 128 = c.toNat ∧ f.toNat / 256 % 128 = c.toNat)))
/-- R19, R41, R186-R192, R196, R226: modules, partitions, queues and rounds. A container that is not refused is registered under a handle of its own; unregistering is refused while a live launch names the module; MODE and the queue registers take what R186-R188 let them; a round takes a queue's head record, refuses it with its DONE word, or clears EN where it cannot be read, and takes nothing while 256 launches are live. In recovery mode the host's commands and writes do nothing, and rounds run in normal and test mode alone. Handles count up by the model's choice (log 10), and what R187-R192 leave open follows log 29. -/
def Obligations.QueuesTakeRecords : Prop :=
  ∀ (s : State),
    (s.boot.mode = 3 → (∀ job image, exec (.moduleRegister job image) s = .next s) ∧ (∀ h, exec (.moduleUnregister h) s = .next s) ∧ (∀ v, exec (.partcfgWrite v) s = .next s) ∧
      ∀ i v, exec (.queueEnable i v) s = .next s ∧ exec (.queueDisable i v) s = .next s ∧ exec (.queueTailWrite i v) s = .next s) ∧
    (s.boot.mode = 1 ∨ s.boot.mode = 3 → exec .dispatchRound s = .next s) ∧
    (s.boot.mode ≠ 3 → ∀ job image, match readModule job image (BitVec.ofNat 64 s.dsp.nextHandle) with
      | none => exec (.moduleRegister job image) s = .next s
      | some m => m.handle = BitVec.ofNat 64 s.dsp.nextHandle ∧ m.job = job ∧
        exec (.moduleRegister job image) s = .next { s with dsp := { s.dsp with modules := s.dsp.modules ++ [m], nextHandle := s.dsp.nextHandle + 1 } }) ∧
    (s.boot.mode ≠ 3 → ∀ h : W64,
      ((∃ p ∈ s.launches, p.2.live = true ∧ p.2.module = h) → exec (.moduleUnregister h) s = .next s) ∧
      ((∀ p ∈ s.launches, p.2.live = true → p.2.module ≠ h) → ∃ u : State, exec (.moduleUnregister h) s = .next u ∧ u.teams = s.teams ∧ u.mem = s.mem ∧
        u.module h = none ∧ (∀ k, k ≠ h → u.module k = s.module k) ∧
        u.cache0.entries = s.cache0.entries.filter (fun e => e.key.module != h) ∧ u.cache1.entries = s.cache1.entries.filter (fun e => e.key.module != h))) ∧
    (s.boot.mode ≠ 3 → ∀ v : W32, exec (.partcfgWrite v) s = .next (if (∃ p ∈ s.dsp.queues, p.2.en = true) ∨ 2 ≤ v.toNat % 4 then s
      else { s with dsp := { s.dsp with mode := v.setWidth 2 } })) ∧
    (s.boot.mode ≠ 3 → ∀ (i : BitVec 6) (v : W32),
      let n := i.toNat
      let q := s.queue n
      let part := fieldNat v.toNat 15 12
      let log2n := fieldNat v.toNat 27 24
      let bad := partValid s.dsp.mode part = false ∨ s.partDies part = [] ∨ log2n = 0 ∨ 12 < log2n ∨ v.toNat % 4096 = 0
      (q.en = false → bad → exec (.queueEnable i v) s = .next (s.setQueue n { q with stat := q.stat ||| 8 })) ∧
      (q.en = false → ¬ bad → exec (.queueEnable i v) s = .next (s.setQueue n { q with
        log2n := v.extractLsb' 24 4, pceil := v.extractLsb' 16 8, part := v.extractLsb' 12 4, job := v.extractLsb' 0 12,
        en := true, head := 0, tail := 0, window := [], stat := q.stat &&& 0x3E })) ∧
      (q.en = true → exec (.queueEnable i v) s = .next (s.setQueue n { q with pceil := v.extractLsb' 16 8 })) ∧
      (q.en = true → exec (.queueDisable i v) s = .next (s.setQueue n { q with pceil := v.extractLsb' 16 8, en := false, stat := q.stat &&& 0x3E })) ∧
      (q.en = false → exec (.queueDisable i v) s = .next (s.setQueue n { q with
        log2n := v.extractLsb' 24 4, pceil := v.extractLsb' 16 8, part := v.extractLsb' 12 4, job := v.extractLsb' 0 12 })) ∧
      (∃ u : State, exec (.queueTailWrite i v) s = .next u ∧ { u with agenda := s.agenda } =
        if q.en = true ∧ ((v - q.head).toNat < (q.tail - q.head).toNat ∨ 2 ^ q.log2n.toNat < (v - q.head).toNat)
        then s.setQueue n { q with tail := v, en := false, stat := (q.stat ||| 4) &&& 0x3E } else s.setQueue n { q with tail := v })) ∧
    (s.boot.mode = 0 ∨ s.boot.mode = 2 → ∀ n, n < 64 →
      let q := s.queue n
      let job := q.job.toNat
      let r := s.getBytes (dspWho job) (BitVec.ofNat 64 q.headAddr) 1024
      let word (st slot : Nat) : Nat := st * 2 ^ 48 + slot * 2 ^ 40 + n * 2 ^ 32 + q.head.toNat
      q.en = true → q.head ≠ q.tail → s.away q.job = false →
      (∀ m, m < 64 → m ≠ n → (s.queue m).en = false ∨ (s.queue m).head = (s.queue m).tail ∨ s.away (s.queue m).job = true) →
      (256 ≤ s.liveCount → exec .dispatchRound s = .next { s with dsp := { s.dsp with rrNext := n } }) ∧
      (s.liveCount < 256 → ∀ c, s.dspCheck job .read q.headAddr 1024 1 = .fault c →
        ∃ u : State, exec .dispatchRound s = .next u ∧ u.queue n = { q with en := false, stat := (q.stat ||| 0x20) &&& 0x3E } ∧
          u.irqs = .launch (BitVec.ofNat 6 n) q.head :: s.irqs ∧ u.mem = s.mem ∧ u.launches = s.launches) ∧
      (s.liveCount < 256 → s.dspCheck job .read q.headAddr 1024 1 = .ok → (depsOf r n q).any (s.depWaits n) = true →
        ∃ u : State, exec .dispatchRound s = .next u ∧ u.queue n = { q with stat := q.stat ||| 1 } ∧ u.launches = s.launches ∧ u.mem = s.mem) ∧
      (s.liveCount < 256 → s.dspCheck job .read q.headAddr 1024 1 = .ok → (depsOf r n q).any (s.depWaits n) = false →
        (∀ l, s.checkRecord n r = .ok l → l.deps = [] →
          ∃ u : State, exec .dispatchRound s = .next u ∧ u.launch s.dsp.nextLid = { l with failed := false } ∧ (u.queue n).head = q.head + 1 ∧
            (u.queue n).window.head? = some ⟨q.head, some s.dsp.nextLid, 0⟩ ∧ u.dsp.nextLid = s.dsp.nextLid + 1 ∧
            (u.queue n).stat = ((q.stat &&& 0x3E) ||| if q.pceil.toNat < fld r 4 1 then 2 else 0) ∧ .placementPass ∈ u.agenda ∧ u.mem = s.mem ∧ u.teams = s.teams) ∧
        (∀ st slot, s.checkRecord n r = .error (st, slot) → s.doneWaits job (fld r 48 8) = false →
          ∃ u : State, exec .dispatchRound s = .next u ∧ u.launches = s.launches ∧ (u.queue n).head = q.head + 1 ∧
            (u.queue n).window.head? = some ⟨q.head, none, st⟩ ∧
            (fld r 48 8 = 0 → u.mem = s.mem) ∧ (∀ c, fld r 48 8 ≠ 0 → s.dspCheck job .write (fld r 48 8) 8 8 = .fault c → u.mem = s.mem ∧
              .launch (BitVec.ofNat 6 n) q.head ∈ u.irqs ∧ (u.queue n).stat.getLsbD 4 = true) ∧
            (fld r 48 8 ≠ 0 → s.dspCheck job .write (fld r 48 8) 8 8 = .ok →
              u.mem = (s.putBytes (dspWho job) (BitVec.ofNat 64 (fld r 48 8)) (natLe (word st slot) 8)).mem) ∧
            (fld r 2 2 / 4 % 2 = 1 → .launch (BitVec.ofNat 6 n) q.head ∈ u.irqs)) ∧
        ((fld r 0 2 ≠ 1 ∨ 16 ≤ fld r 2 2 ∨ 4 < fld r 5 1 ∨ 8 < fld r 6 1 ∨ fld r 7 1 ≠ 0 ∨ (fld r 40 8 ≠ 0 ∧ fld r 2 2 / 2 % 2 = 0) ∨ fld r 40 8 % 65536 ≠ 0 ∨
            fld r 48 8 % 8 ≠ 0) → s.checkRecord n r = .error (1, 0)) ∧
        (formBad r = false → s.module (BitVec.ofNat 64 (fld r 8 8)) = none → s.checkRecord n r = .error (2, 0)) ∧
        (∀ l, s.checkRecord n r = .ok l → l.live = true ∧ l.seq = q.head ∧ l.queue = BitVec.ofNat 6 n ∧ l.job = q.job ∧ l.part = q.part.toNat ∧
          l.dies = s.partDies q.part.toNat ∧ l.record.take 320 = r.take 320 ∧ 1 ≤ l.gx ∧ 1 ≤ l.gy ∧ 1 ≤ l.gz ∧ l.gx * l.gy * l.gz < 2 ^ 31 ∧
          l.prio = Nat.min (fld r 4 1) q.pceil.toNat ∧ (l.det = true → s.hasCap 7 = true) ∧ badSlot l = none ∧
          (∃ (m : Module) (f : Func), s.module l.module = some m ∧ m.job = q.job ∧ m.funcs[l.kernel]? = some f ∧ f.kind = 1 ∧ f.refused = 0))))

/-- R196-R201, R211, R213-R217, R413, R424, R471: teams come and go. The first ready team takes an offered or idle row where it fits; a core is reserved for one passed over 64 times; a team set up is resident with its memory zero and its barriers, spools and tiles reset; a drained team frees its row and publishes its event, and the last one ends the launch with its DONE word, after the verification record where one is asked for. Which free resource is taken first is the model's choice (log 10), and what R199-R217 leave open follows log 29. -/
def Obligations.TeamsComeAndGo : Prop :=
  ∀ (s : State),
    (s.dsp.freed = [] → s.dsp.restore.getLsbD 63 = false → s.doff.busy = false → s.dsp.reserve = [] →
      (s.liveSorted = [] → ∃ u : State, exec .placementPass s = .next u ∧ { u with agenda := s.agenda } = s) ∧
      (∀ lid l, s.liveSorted = [(lid, l)] → s.launch lid = l → l.det = false →
        ((∀ t, s.firstReady l = some t → ∀ c ∈ s.steered l, s.spotOn lid t c.1 c.2 = none) →
          ∃ u : State, exec .placementPass s = .next u ∧ { u with agenda := s.agenda } = s) ∧
        (∀ t c b, s.firstReady l = some t → ((s.steered l).findSome? fun c => (s.spotOn lid t c.1 c.2).map fun b => (c, b)) = some (c, b) →
          ∃ (u : State) (t' : Team), exec .placementPass s = .next u ∧ u.team s.dsp.nextTid = t' ∧ t'.state = .loading ∧ t'.lid = lid ∧ t'.idx = t ∧
            t'.job = l.job ∧ t'.module = l.module ∧ t'.sock = c.1 ∧ t'.core = c.2 ∧ t'.bank = b.1 ∧ t'.row = b.2 ∧ t'.groups.length = l.groups ∧
            t ∈ (u.launch lid).started ∧ .teamSetupDone s.dsp.nextTid ∈ u.agenda ∧ u.mem = s.mem))) ∧
    (∀ k c b r j lid t, s.dsp.freed = [(k, c, b, r, j)] → s.dsp.restore.getLsbD 63 = false → s.doff.busy = false → s.inService k = true →
      r ∈ s.freeRows k c b → s.trimReserve.offerPick k c b = some (lid, t) →
      ∃ (u : State) (t' : Team), exec .placementPass s = .next u ∧ u.dsp.freed = [] ∧ u.team s.dsp.nextTid = t' ∧ t'.state = .loading ∧ t'.lid = lid ∧ t'.idx = t ∧
        t'.sock = k ∧ t'.core = c ∧ t'.bank = b ∧ t'.row = r ∧ t ∈ (u.launch lid).started) ∧
    (∀ part : BitVec 4,
      let s0 := s.trimReserve
      let p := part.toNat
      (s0.firstOf p = none → exec (.backfillReserve part) s = .next s) ∧
      (∀ lid t, s0.firstOf p = some (lid, t) →
        ((s.launch lid).passedOver t < 64 ∨ (∃ r ∈ s0.dsp.reserve, r.1 = p) → exec (.backfillReserve part) s = .next s) ∧
        (64 ≤ (s.launch lid).passedOver t → (∀ r ∈ s0.dsp.reserve, r.1 ≠ p) → (s.launch lid).det = false →
          (∃ c ∈ coreList ((s.partDies p).filter s.inService), s.fitsEmpty (s.launch lid) c.1 c.2 = true) →
          ∃ k c, exec (.backfillReserve part) s = .next { s with dsp := { s.dsp with reserve := s0.dsp.reserve ++ [(p, lid, t, k, c)] } } ∧
            (k, c) ∈ coreList ((s.partDies p).filter s.inService) ∧ s.fitsEmpty (s.launch lid) k c = true ∧
            ∀ c' ∈ coreList ((s.partDies p).filter s.inService), s.fitsEmpty (s.launch lid) c'.1 c'.2 = true →
              s.sumOn k c (fun _ y => y.groups) ≤ s.sumOn c'.1 c'.2 (fun _ y => y.groups)) ∧
        (64 ≤ (s.launch lid).passedOver t → (∀ r ∈ s0.dsp.reserve, r.1 ≠ p) → (s.launch lid).det = true →
          ∀ c, (coreList (s.launch lid).dies)[t % (s.launch lid).logical]? = some c →
            exec (.backfillReserve part) s = .next { s with dsp := { s.dsp with reserve := s0.dsp.reserve ++ [(p, lid, t, c.1, c.2)] } }))) ∧
    (∀ tid,
      let t := s.team tid
      let l := s.launch t.lid
      (t.state ≠ .loading → exec (.teamSetupDone tid) s = .next s) ∧
      (t.state = .loading → l.exportOk = false →
        ∃ u : State, exec (.teamSetupDone tid) s = .next u ∧ (u.team tid).state = .resident ∧ (u.team tid).scratch = [] ∧ (u.team tid).priv = [] ∧
          (u.team tid).bars = List.replicate 16 Bar.reset ∧ (u.team tid).spools = (l.spools.map fun p => ⟨p.1, p.2.1, p.2.2.toNat, 0, 0, 0, 0, [], []⟩) ∧
          (∀ i, i < t.acct → ((u.core t.sock t.core).bank t.bank).tile (tileNum t i) = .reset) ∧ u.mem = s.mem ∧
          (s.doff.busy = false → ∀ i g, i < l.groups → s.group ⟨tid, i⟩ = some g → g.status = .loading → ∃ g' : Group, u.group ⟨tid, i⟩ = some g' ∧
            g'.frames = g.frames ∧ g'.active = g.active ∧
            if t.groups.any Group.noPoint = true ∧ g.trap.isSome = true then g'.status = .stopping ∧ g'.trap = g.trap
            else g'.status = .ready ∨ g'.status = .xlat ∨ g'.status = .stopping)) ∧
      (t.state = .draining → s.teamJoined tid = true → ∃ u : State, exec (.completionEvent tid) s = .next u ∧
        (u.team tid).state = .done ∧ (u.launch t.lid).events = l.events ++ [t.idx] ∧ (t.sock, t.core, t.bank, t.row, t.job.toNat) ∈ u.dsp.freed ∧
        .placementPass ∈ u.agenda ∧
        SMap.get 0 (u.job t.job.toNat).cnts 2 = SMap.get 0 (s.job t.job.toNat).cnts 2 + 1 ∧
        (l.live = true → l.status = none → l.failed = false → l.reelHeld = 0 → l.teams ≤ l.events.length + 1 → l.vfy = false → s.doneWaits l.job.toNat l.done = false →
          (u.launch t.lid).live = false ∧ (u.launch t.lid).status = some 0 ∧
          (l.done = 0 → u.mem = s.mem) ∧
          (l.done ≠ 0 → s.dspCheck l.job.toNat .write l.done 8 8 = .ok →
            u.mem = (s.putBytes (dspWho l.job.toNat) (BitVec.ofNat 64 l.done) (natLe (l.queue.toNat * 2 ^ 32 + l.seq.toNat) 8)).mem)) ∧
        (l.live = true → l.status = none → l.failed = false → l.events.length + 1 < l.teams → (u.launch t.lid).live = true ∧ u.mem = s.mem)) ∧
      (t.state = .draining → s.teamJoined tid = false → exec (.completionEvent tid) s = .next s) ∧
      ((t.state = .loading ∨ t.state = .saved ∨ t.state = .done) → exec (.completionEvent tid) s = .next s)) ∧
    (∀ (qn : BitVec 6) (seq : W32),
      (s.liveLaunch qn seq = none → exec (.verifyRecord qn seq) s = .next s) ∧
      (∀ lid, s.liveLaunch qn seq = some lid →
        let l := s.launch lid
        (l.vfy = false → exec (.verifyRecord qn seq) s = .next s) ∧
        (∀ bs, l.vfy = true → l.done = 0 → s.outcome lid = some 0 → s.verifyRec l = some bs →
          (bs.length = 64 ∧ fld bs 32 8 = l.vfyReg.toNat ∧ fld bs 40 8 = (l.vfyPages * 65536) % 2 ^ 64 ∧ fld bs 48 4 = l.seq.toNat ∧ fld bs 52 1 = l.queue.toNat ∧
            (s.dspCheck l.job.toNat .read l.vfyReg.toNat (l.vfyPages * 65536) 1 = .ok → fld bs 53 1 = 0 ∧
              bs.take 32 = digestBytes (sha256 (s.getBytes (dspWho l.job.toNat) l.vfyReg (l.vfyPages * 65536)))) ∧
            (∀ c, s.dspCheck l.job.toNat .read l.vfyReg.toNat (l.vfyPages * 65536) 1 = .fault c → fld bs 53 1 = 1 ∧ bs.take 32 = List.replicate 32 0)) ∧
          (s.dspCheck l.job.toNat .write l.vfyOut.toNat 64 64 = .ok → ∃ u : State, exec (.verifyRecord qn seq) s = .next u ∧
            u.mem = (s.putBytes (dspWho l.job.toNat) l.vfyOut bs).mem ∧ (u.launch lid).live = false ∧ (u.launch lid).status = some 0) ∧
          (∀ c, s.dspCheck l.job.toNat .write l.vfyOut.toNat 64 64 = .fault c → ∃ u : State, exec (.verifyRecord qn seq) s = .next u ∧
            u.mem = s.mem ∧ (u.launch lid).live = false ∧ (u.queue qn.toNat).stat.getLsbD 4 = true))))

/-- R216, R296-R301, R459-R462: power and supply. Each of SAG_TRIP, SAG_CLEAR, SAG_RECOVERY_STEP, SLOPE_WINDOW, SLOPE_YIELD, COOLANT_REPORT, COOLANT_REPORT_LOSS, POWER_EVALUATION, TABLE_RAISE, THERMAL_THROTTLE and THERMAL_TRIP completes in every state, for every operand. A supply sag drops CODE and only CODE, and it climbs back to TARGET a step at a time; the slope bound keeps the fall of rows within STEP by ballast, also on a die under reset, yielding to the cap after 16 windows; an evaluation never raises the cap before 1000 of them, shows OVER, raises GAP above a cap and publishes the headroom of R462. No value that a program computes is touched. How far GAP moves is free (log 27). -/
def Obligations.PowerAndSupply : Prop :=
  ∀ (s : State) (sock bay : Nat),
    let b := s.bay sock bay
    let d := s.die sock
    let alone (u : State) : Prop := u.teams = s.teams ∧ u.mem = s.mem ∧ u.launches = s.launches
    let gapOf (u : State) (k i : Nat) : Nat := (u.core k i).gap.toNat
    let higher (u : State) (k : Nat) : Prop := ∀ i, i < Machine.coresOf k → if gapOf s k i < 255 then gapOf s k i < gapOf u k i ∧ gapOf u k i ≤ 255 else gapOf u k i = 255
    let lower (u : State) (k : Nat) : Prop := ∀ i, i < Machine.coresOf k → 1 ≤ gapOf u k i ∧ gapOf u k i ≤ Nat.max (gapOf s k i) 1
    let published (u : State) : Prop := ∀ n, n < 4 →
      (SMap.get 0 u.dsp.working n).toInt = ((SMap.get 0 u.dsp.heads n).toNat : Int) ∧
      ((SMap.get 0 u.dsp.heads n).toNat : Int) = if s.inService n = true
        then min (max (min ((dieCap u.thm.now n : Int) - (SMap.get 0 u.thm.power n : Nat)) ((u.thm.now.2.2.2.1 : Int) - (SMap.get 0 u.thm.power 4 : Nat))) 0) 65535 else 0
    let capped (u : State) : Prop := ∀ n, n < 4 → s.inService n = true → ((u.die n).ovr = true ↔ u.thm.now.2.2.2.1 < SMap.get 0 u.thm.power 4) ∧
      (if u.thm.now.2.2.2.1 < SMap.get 0 u.thm.power 4 ∨ dieCap u.thm.now n < SMap.get 0 u.thm.power n then higher u n
       else if (s.die n).throttled = true then ∀ i, i < Machine.coresOf n → gapOf u n i = gapOf s n i else lower u n)
    (∀ (rows temp p0 p1 p2 p3 package : Nat) (kind : BitVec 2) (inlet : BitVec 8) (flow : BitVec 16),
      ∀ i ∈ [Instr.sagTrip sock bay, .sagClear sock bay, .sagRecoveryStep sock bay, .slopeWindow sock rows, .slopeYield sock, .coolantReport kind inlet flow,
        .coolantReportLoss, .powerEvaluation p0 p1 p2 p3 package, .tableRaise, .thermalThrottle sock temp, .thermalTrip sock],
        ∃ u : State, exec i s = .next u ∧ alone u ∧ u.cur = s.cur) ∧
    (∃ u : State, exec (.sagTrip sock bay) s = .next u ∧ alone u ∧ u.cores = s.cores ∧ (u.bay sock bay).sagging = true ∧ fllSag (u.bay sock bay).fll = true ∧
      fllCode (u.bay sock bay).fll = fllCode b.fll - fieldNat b.sag.toNat 23 16 ∧ fllTarget (u.bay sock bay).fll = fllTarget b.fll ∧
      fllLdo (u.bay sock bay).fll = fllLdo b.fll ∧ ∀ j, j ≠ bay → u.bay sock j = s.bay sock j) ∧
    exec (.sagClear sock bay) s = .next (s.setBay sock bay { b with sagging := false }) ∧
    (fllSag b.fll = false ∨ b.sagging = true → exec (.sagRecoveryStep sock bay) s = .next s) ∧
    (fllSag b.fll = true → b.sagging = false → ∃ u : State, exec (.sagRecoveryStep sock bay) s = .next u ∧ alone u ∧ u.cores = s.cores ∧
      fllTarget (u.bay sock bay).fll = fllTarget b.fll ∧
      (fllCode b.fll < fllTarget b.fll → fllCode (u.bay sock bay).fll = fllCode b.fll + 1 ∧ fllLdo (u.bay sock bay).fll = (if fllCode b.fll + 1 < fllTarget b.fll then Nat.max (fllLdo b.fll) (Config.ldoStep (fllCode b.fll + 1)).toNat else (Config.ldoStep (fllCode b.fll + 1)).toNat) ∧
        fllSag (u.bay sock bay).fll = decide (fllCode b.fll + 1 < fllTarget b.fll)) ∧
      (fllTarget b.fll ≤ fllCode b.fll → fllCode (u.bay sock bay).fll = fllCode b.fll ∧ fllLdo (u.bay sock bay).fll = (Config.ldoStep (fllCode b.fll)).toNat ∧ fllSag (u.bay sock bay).fll = false)) ∧
    (∀ rows : Nat,
      let step := d.slope.toNat % 65536
      let need := if step = 0 ∨ (d.ovr = true ∧ d.stopBallast = true) then 0 else d.rows.toNat - step - rows
      (d.present = false → exec (.slopeWindow sock rows) s = .next s) ∧
      (d.present = true → rows + need < 2 ^ 32 → ∃ u : State, exec (.slopeWindow sock rows) s = .next u ∧ alone u ∧
        (u.die sock).rows.toNat = rows + need ∧ (step ≠ 0 → d.ovr = false → d.rows.toNat ≤ (u.die sock).rows.toNat + step) ∧
        ((u.die sock).dieHold = true ↔ d.ovr = true ∧ 0 < need) ∧ (∀ i, i < Machine.coresOf sock → ((u.core sock i).ballast = true ↔ i < need) ∧ gapOf u sock i = gapOf s sock i) ∧
        (u.die sock).yielded = d.yielded ∧ (d.ovr = false → (u.die sock).conflict = 0) ∧
        (d.ovr = false ∨ d.stopBallast = true ∨ (d.conflict = 0 ∧ need = 0) ∨ d.conflict < 15 ∨ need = 0 → u.agenda = s.agenda) ∧
        (d.ovr = true → d.stopBallast = false → (d.conflict = 0 → need = 0 → (u.die sock).conflict = 0) ∧ (0 < d.conflict ∨ 0 < need →
          (d.conflict < 15 ∨ 0 < need → (u.die sock).conflict = d.conflict + 1) ∧ (15 ≤ d.conflict → need = 0 → (u.die sock).conflict = 0) ∧
          (15 ≤ d.conflict → 0 < need → .slopeYield sock ∈ u.agenda))))) ∧
    (d.ovr = false ∨ d.conflict < 16 → exec (.slopeYield sock) s = .next s) ∧
    (d.ovr = true → 16 ≤ d.conflict → ∃ u : State, exec (.slopeYield sock) s = .next u ∧ alone u ∧ (u.die sock).yielded = true ∧ (u.die sock).dieHold = false ∧
      (u.die sock).stopBallast = true ∧ higher u sock ∧ ∀ i, i < Machine.coresOf sock → (u.core sock i).ballast = false) ∧
    (∀ kind inlet flow, exec (.coolantReport kind inlet flow) s = .next { s with thm := { s.thm with kind := if kind = 3 then 0 else kind, inlet := inlet, flow := flow, lost := 0 } }) ∧
    (∃ u : State, exec .coolantReportLoss s = .next u ∧ alone u ∧ u.thm.table = 0 ∧ u.thm.row = (if s.thm.inlet.toNat ≤ 35 then 0 else 1) ∧ published u ∧ capped u) ∧
    (∀ p0 p1 p2 p3 package : Nat,
      let t : Thm := { s.thm with lost := s.thm.lost + 1 }
      let sel := rowFor t.tableFor t.inlet.toNat
      ∃ u : State, exec (.powerEvaluation p0 p1 p2 p3 package) s = .next u ∧ alone u ∧ published u ∧ capped u ∧ u.thm.lost = s.thm.lost + 1 ∧
        (SMap.get 0 u.thm.power 0, SMap.get 0 u.thm.power 1, SMap.get 0 u.thm.power 2, SMap.get 0 u.thm.power 3, SMap.get 0 u.thm.power 4) = (p0, p1, p2, p3, package) ∧
        u.thm.now.2.2.2.1 ≤ s.thm.now.2.2.2.1 ∧ u.thm.now.2.2.2.1 ≤ sel.2.2.2.1 ∧
        (sel.2.2.2.1 < s.thm.now.2.2.2.1 → u.thm.table.toNat = sel.1 ∧ u.thm.row.toNat = sel.2.1) ∧
        (s.thm.now.2.2.2.1 < sel.2.2.2.1 → (u.thm.table, u.thm.row) = (s.thm.table, s.thm.row) ∧
          (sel.1 ≠ s.thm.now.1 ∨ s.thm.inlet.toNat + 2 ≤ s.thm.now.2.2.1 →
            u.thm.raise = some (BitVec.ofNat 2 sel.1, BitVec.ofNat 4 sel.2.1, match s.thm.raise with | some (x, y, n) => if x.toNat = sel.1 ∧ y.toNat = sel.2.1 then n + 1 else 1 | none => 1)) ∧
          (sel.1 = s.thm.now.1 → s.thm.now.2.2.1 < s.thm.inlet.toNat + 2 → u.thm.raise = none)) ∧
        ((∃ x y, u.thm.raise = some (x, y, 1000)) → .tableRaise ∈ u.agenda) ∧ (s.thm.lost = 9 → .coolantReportLoss ∈ u.agenda)) ∧
    ((∀ x y n, s.thm.raise = some (x, y, n) → n < 1000) → exec .tableRaise s = .next s) ∧
    (∀ x y n, s.thm.raise = some (x, y, n) → 1000 ≤ n → ∃ u : State, exec .tableRaise s = .next u ∧ alone u ∧ u.thm.now = Machine.rowOf x.toNat y.toNat ∧ u.thm.raise = none ∧
      published u ∧ capped u) ∧
    (∀ temp : Nat,
      (s.inService sock = false → exec (.thermalThrottle sock temp) s = .next s ∧ exec (.thermalTrip sock) s = .next s) ∧
      (s.inService sock = true →
        (105 ≤ temp → ∃ u : State, exec (.thermalThrottle sock temp) s = .next u ∧ alone u ∧ (u.die sock).throttled = true ∧ higher u sock) ∧
        (temp < 102 → d.throttled = true → ∃ u : State, exec (.thermalThrottle sock temp) s = .next u ∧ alone u ∧ (u.die sock).throttled = false ∧ lower u sock) ∧
        ((102 ≤ temp ∧ temp < 105) ∨ (temp < 102 ∧ d.throttled = false) → exec (.thermalThrottle sock temp) s = .next s) ∧
        ∃ u : State, exec (.thermalTrip sock) s = .next u ∧ alone u ∧ u.rst.waiting = s.rst.waiting ++ [(BitVec.ofNat 4 sock, 3, true)] ∧ .dieResetStart ∈ u.agenda))

/-- R9, R468-R470: counters and management registers. Each of ENERGY_ACCUMULATOR_UPDATE, ENERGY_LO_READ, ENERGY_HI_READ, JOBCNT_LO_READ, JOBCNT_HI_READ, JOBCNT_CLEAR and REGISTER_WRITE completes in every state, for every operand. Energy adds up modulo 2^40 with its wraps counted; a read of LO takes the other half of the same update into the requester's own shadow, which its next read of HI returns and releases; ALL clears the selected job's counters; a register keeps exactly its writable bits, a read-only one nothing, a bit written 1 to clear is cleared, and a write-only field reads zero. What a register of an absent die does follows log 28. -/
def Obligations.CountersAndRegisters : Prop :=
  ∀ (s : State),
    (∀ (sock uj : Nat) (r : Requester) (k : BitVec 3) (v : W32) (x : Reg) (y : W64),
      ∀ i ∈ [Instr.energyAccumulatorUpdate sock uj, .energyLoRead r sock, .energyHiRead r sock, .jobcntLoRead r k, .jobcntHiRead r k, .jobcntClear v, .registerWrite x y],
        ∃ u : State, exec i s = .next u) ∧
    (∀ sock uj, ∃ u : State, exec (.energyAccumulatorUpdate sock uj) s = .next u ∧ { u with energy := s.energy } = s ∧
      (sock < 6 → s.hasEnergy sock = true → (u.energyOf sock).acc.toNat = ((s.energyOf sock).acc.toNat + uj) % 2 ^ 40 ∧
        (u.energyOf sock).wraps.toNat = ((s.energyOf sock).wraps.toNat + ((s.energyOf sock).acc.toNat + uj) / 2 ^ 40) % 2 ^ 32) ∧
      (∀ j, j ≠ sock → u.energyOf j = s.energyOf j) ∧ ((6 ≤ sock ∨ s.hasEnergy sock = false) → u = s)) ∧
    (∀ (r : Requester) (sock : Nat),
      let e := s.energyOf sock
      ∃ u : State, exec (.energyLoRead r sock) s = .next u ∧ ⟨r, e.acc.setWidth 32⟩ ∈ u.reads ∧ u.energy = s.energy ∧
        (∀ v : State, v.eshadows = u.eshadows → v.regValue r (.pwrEnergyWrap sock) = e.wraps.setWidth 64 ∧
          ∃ w : State, exec (.energyHiRead r sock) v = .next w ∧ ⟨r, ((e.acc >>> 32).setWidth 8).setWidth 32⟩ ∈ w.reads ∧ w.eshadow r sock = none) ∧
        (∀ q, q ≠ r → u.eshadow q sock = s.eshadow q sock)) ∧
    (∀ (r : Requester) (sock : Nat), s.eshadow r sock = none →
      ∃ u : State, exec (.energyHiRead r sock) s = .next u ∧ ⟨r, (((s.energyOf sock).acc >>> 32).setWidth 8).setWidth 32⟩ ∈ u.reads ∧ u.energy = s.energy) ∧
    (∀ (r : Requester) (k : BitVec 3),
      let x := s.jobcnt k.toNat
      ∃ u : State, exec (.jobcntLoRead r k) s = .next u ∧ ⟨r, x.setWidth 32⟩ ∈ u.reads ∧ u.dsp = s.dsp ∧
        ∀ v : State, v.jshadows = u.jshadows → ∃ w : State, exec (.jobcntHiRead r k) v = .next w ∧ ⟨r, (x >>> 32).setWidth 32⟩ ∈ w.reads ∧ w.dsp = v.dsp ∧
          ∀ y ∈ w.jshadows, y.req = r → y.k ≠ k.toNat) ∧
    (∀ v : W32, (v.getLsbD 31 = false → exec (.jobcntClear v) s = .next s) ∧
      (v.getLsbD 31 = true → ∃ u : State, exec (.jobcntClear v) s = .next u ∧ u.mem = s.mem ∧ u.teams = s.teams ∧ (∀ k, u.jobcnt k = 0) ∧
        (∀ j, j ≠ s.dsp.jobsel.toNat → u.job j = s.job j) ∧ ∀ j, { u.job j with cnts := [] } = { s.job j with cnts := [] })) ∧
    (∀ (q : Requester) (sock core bank : Nat) (k : BitVec 2),
      s.readAny q .dspJobcntclr = 0 ∧ s.readAny q (.ctxAnswer sock core) = 0 ∧
      (s.inS sock = true → ∃ n ovr, s.readAny q (.ctxAlogctl sock core bank k) = BitVec.ofNat 64 (ovr * 65536 + n) ∧
        (k = 0 → n = ((s.core sock core).bank bank).log0.entries.length ∧ ovr = ((s.core sock core).bank bank).log0.ovr.toNat)) ∧
      (s.inS sock = false → s.readAny q (.ctxAlogctl sock core bank k) = 0 ∧ s.readAny q (.ctxPreempt sock core) = 0)) ∧
    (∀ (r : Reg) (v : W64) (q : Requester), ∃ u : State, exec (.registerWrite r v) s = .next u ∧ (r ≠ .plnDoffctl → u.mem = s.mem ∧ u.teams = s.teams ∧ u.cur = s.cur) ∧
      (s.regThere r = false → u = s ∧ s.readReg q r = 0) ∧
      (s.regThere r = true → (∀ q2, u.regThere r = true ∧ u.readReg q2 r = u.regValue q2 r) ∧
        match r with
        | .plnMode | .plnBootunit | .plnCapbase | .dspQhead _ | .dspHeadroom _ | .spnCache _ | .hodInflight _ _ | .mxeCadence _ _ | .pwrFll _ _ | .pwrEnergyWrap _
        | .migQhead _ | .reelStatus | .plnDoffstat | .plnDiestat | .thmCoolant => u = s
        | .dspQbase _ => u.regValue q r = v &&& 0x000FFFFFFFFFFC00
        | .dspSteer => u.regValue q r = v &&& 0x800000FF
        | .dspJobsel => u.regValue q r = v &&& 0xFFF
        | .dspJobroot => u.regValue q r = v &&& 0x800FFFFFFFFFE000
        | .ctxHmod => u.regValue q r = v
        | .ctxHfunc => u.regValue q r = v &&& 0x8000FFFF
        | .ctxRoute => u.regValue q r = v &&& 0xFF
        | .dspVfyctl _ => u.regValue q r = if v.toNat % 65536 = 0 then 0 else v &&& 0x8000FFFF
        | .dspVfyreg _ => u.regValue q r = v &&& 0x000FFFFFFFFF0000
        | .dspVfyout _ => u.regValue q r = v &&& 0x000FFFFFFFFFFFC0
        | .spnEvt _ _ _ | .spnXlkey _ _ | .numWindow _ _ _ | .numLimit _ _ _ _ | .numCount _ _ _ _ => u.regValue q r = v &&& 0xFFFFFFFF
        | .ctxTrapbase _ _ => u.regValue q r = v &&& 0x000FFFFFFFFFF000
        | .pwrSlope _ => u.regValue q r = v &&& 0xFFFF
        | .pwrSag _ _ => u.regValue q r = v &&& 0xFFFF03FF
        | .plnShootva => u.regValue q r = v &&& 0x000FFFFFFFFF0000
        | .plnCong => u.regValue q r = v &&& 0x01FF00FF
        | .plnLinkpm => u.regValue q r = (v &&& 0x80FFFF00) ||| (s.regValue q r &&& 3)
        | .plnDoffarea => u.regValue q r = v &&& 0x000FFFFFFFFFF000
        | .migQbase x => u.regValue q r = if (s.ring x).en then s.regValue q r else v &&& 0x000FFFFFFFFFFFE0
        | .dspQstat _ => u.regValue q r = s.regValue q r &&& ~~~(v &&& 0x3E)
        | .numStatus _ _ _ => u.regValue q r = s.regValue q r &&& ~~~v
        | .ctxTraperr _ _ => u.regValue q r = if v.getLsbD 31 then 0 else s.regValue q r
        | .pwrStatus _ => u.regValue q r = if v.getLsbD 0 then s.regValue q r &&& ~~~1 else s.regValue q r
        | .thmSel => u.regValue q r = (s.regValue q r &&& 0x7FFFFFFF) ||| (v &&& 0x80000000)
        | .dspQcfg n => u.regValue q r = if s.boot.mode = 3 then s.regValue q r else if (s.queue n.toNat).en
            then (s.regValue q r &&& 0x0F00FFFF) ||| (v &&& 0x80FF0000)
            else if v.getLsbD 31 = true ∧ s.queueBad (v.setWidth 32) = true then s.regValue q r else v &&& 0x8FFFFFFF
        | .migQcfg _ | .plnDoffctl | .plnDierst => True))

/-- R302-R306, R310, R312, R315, R320, R326, R327, R329, R333, R441, R464: the memory hierarchy's registers and links. A store bank switches mode once its granules are free and a core keeps a FIFO bank; a binding stays in its partition; staging parts and windows resize, overlap nowhere and start zeroed; the host and a peer reach present, unreserved bytes only; a snoop and a shoot-down drop copies and no data, the latter once no accepted command uses the range; links hold, re-route, narrow and lose no packet; a request told DIE_ABSENT goes to the line's present home. What R306 and R310 leave open follows log 31. -/
def Obligations.HierarchyEvents : Prop :=
  ∀ (s : State) (sock core : Nat),
    let c := s.core sock core
    let d := s.die sock
    let still (u : State) : Prop := u.mem = s.mem ∧ u.teams = s.teams ∧ u.launches = s.launches
    (s.inS sock = false → ∀ n m v v64, exec (.bankModeWrite sock core n v) s = .next s ∧ exec (.qbindWrite sock core v) s = .next s ∧
      exec (.l2SplitWrite sock m v) s = .next s ∧ exec (.stagewinWrite sock m v64) s = .next s) ∧
    (∀ (n : BitVec 6) (v : W32),
      let i := n.toNat
      let b := c.store sock i
      let m : BitVec 2 := v.setWidth 2
      let last := m ≠ 2 ∧ ∀ j, j < storeBanks sock → j ≠ i → (c.store sock j).mode ≠ 2
      (storeBanks sock ≤ i ∨ m = 3 ∨ last → exec (.bankModeWrite sock core n v) s = .next s) ∧
      (s.inS sock = true → i < storeBanks sock → m ≠ 3 → ¬ last → ∃ u : State, exec (.bankModeWrite sock core n v) s = .next u ∧ still u ∧
        (u.core sock core).store sock i = { b with mode := m, pend := decide (m ≠ b.cur) } ∧ ∀ j, j ≠ i → (u.core sock core).store sock j = c.store sock j) ∧
      (b.pend = false ∨ s.granUse sock core i ≠ 0 → exec (.bankModeSwitchDone sock core n) s = .next s) ∧
      (b.pend = true → s.granUse sock core i = 0 → ∃ u : State, exec (.bankModeSwitchDone sock core n) s = .next u ∧ still u ∧
        (u.core sock core).store sock i = { b with cur := b.mode, pend := false } ∧ ∀ j, j ≠ i → (u.core sock core).store sock j = c.store sock j)) ∧
    (∀ v : W32, s.inS sock = true →
      let k := fieldNat v.toNat 27 24
      let ok := k < 4 ∧ fieldNat v.toNat 23 18 < Machine.coresOf k ∧ (s.die k).present = true ∧ (s.dsp.mode = 0 ∨ k = sock)
      exec (.qbindWrite sock core v) s = .next (s.setCore sock core { c with qbind := if ok then v &&& 0xCFFC0FFF else v &&& 0x4FFC0FFF })) ∧
    (∀ (n : BitVec 4) (v : W32),
      let x := d.split n.toNat
      let k : BitVec 5 := v.setWidth 5
      (slicesOf sock ≤ n.toNat ∨ 16 < k.toNat → exec (.l2SplitWrite sock n v) s = .next s) ∧
      (s.inS sock = true → n.toNat < slicesOf sock → k.toNat ≤ 16 → ∃ u : State, exec (.l2SplitWrite sock n v) s = .next u ∧ still u ∧
        (u.die sock).split n.toNat = { x with want := k, pend := decide (k ≠ x.stage) }) ∧
      (x.pend = false ∨ (x.want.toNat < x.stage.toNat ∧ d.winBeyond n.toNat x.want.toNat = true) → exec (.l2SplitDone sock n) s = .next s) ∧
      (x.pend = true → (x.stage.toNat ≤ x.want.toNat ∨ d.winBeyond n.toNat x.want.toNat = false) → ∃ u : State, exec (.l2SplitDone sock n) s = .next u ∧ still u ∧
        (u.die sock).split n.toNat = ⟨x.want, false, x.want⟩ ∧ (u.die sock).wins = d.wins)) ∧
    (∀ (n : BitVec 4) (v : W64), s.inS sock = true →
      let size := fieldNat v.toNat 27 16
      let off := fieldNat v.toNat 11 0
      let k := fieldNat v.toNat 47 44
      let w := d.win n.toNat
      ∃ u : State, exec (.stagewinWrite sock n v) s = .next u ∧ still u ∧ (∀ j, j ≠ n.toNat → (u.die sock).win j = d.win j) ∧
        let w' := (u.die sock).win n.toNat
        w'.read.getLsbD 63 = false ∧
        (v.getLsbD 63 = false → w'.read = v &&& 0x0FFFF0000FFF0FFF ∧ w'.zeroing = false) ∧
        (v.getLsbD 63 = true → (size = 0 ∨ slicesOf sock ≤ k ∨ 128 * Nat.min (d.split k).stage.toNat (d.split k).want.toNat < off + size ∨
            (∃ p ∈ d.wins, p.1 ≠ n.toNat ∧ ∃ a b, p.2.area = some (k, a, b) ∧ a < off + size ∧ off < b)) →
          w'.zeroing = false ∧ w'.reg.getLsbD 63 = false ∧ w'.reg &&& 0x7FFFFFFFFFFFFFFF = w.reg &&& 0x7FFFFFFFFFFFFFFF) ∧
        (v.getLsbD 63 = true → size ≠ 0 → k < slicesOf sock → off + size ≤ 128 * Nat.min (d.split k).stage.toNat (d.split k).want.toNat →
          (∀ p ∈ d.wins, p.1 ≠ n.toNat → ∀ a b, p.2.area = some (k, a, b) → off + size ≤ a ∨ b ≤ off) →
          w'.zeroing = true ∧ w'.reg = v &&& stagewinMask ∧ .stagewinZeroed sock n ∈ u.agenda)) ∧
    (∀ (n : BitVec 4),
      let w := d.win n.toNat
      (w.zeroing = false ∨ w.reg.getLsbD 63 = false → exec (.stagewinZeroed sock n) s = .next s) ∧
      (w.zeroing = true → ∀ k lo hi, w.area = some (k, lo, hi) → ∃ u : State, exec (.stagewinZeroed sock n) s = .next u ∧ still u ∧
        ((u.die sock).win n.toNat).read = w.reg ∧ (Memory.wf d.staging = true → ∀ a, SMap.get 0 (u.die sock).staging a =
          if k * 2 ^ 23 + lo * 4096 ≤ a ∧ a < k * 2 ^ 23 + hi * 4096 then 0 else SMap.get 0 d.staging a))) ∧
    (∀ (pa : W64) (len : Nat) (bs : List Byte), bs.length = len →
      (s.physServed pa.toNat len = false → exec (.hostMemoryAccess pa len none) s = .next s ∧ exec (.hostMemoryAccess pa len (some bs)) s = .next s ∧
        ∀ l, exec (.inboundPeerTransfer l pa len none) s = .next s ∧ exec (.inboundPeerTransfer l pa len (some bs)) s = .next s) ∧
      (s.physServed pa.toNat len = true →
        let wrote (u : State) : Prop := u.teams = s.teams ∧ u.launches = s.launches ∧
          ∀ a, SMap.get 0 u.mem a = if pa.toNat ≤ a ∧ a < pa.toNat + len then bs.getD (a - pa.toNat) 0 else SMap.get 0 s.mem a
        (∃ u : State, exec (.hostMemoryAccess pa len none) s = .next u ∧ still u ∧
          u.mig.held = s.mig.held.filter (fun h => !(h.side == 1 && overlap h.pa h.size pa.toNat len))) ∧
        (∃ u : State, exec (.hostMemoryAccess pa len (some bs)) s = .next u ∧ wrote u ∧
          u.mig.held = s.mig.held.filter (fun h => !(h.side == 1 && overlap h.pa h.size pa.toNat len))) ∧
        ∀ l : BitVec 4, (s.boot.peersUp.getLsbD l.toNat = true → exec (.inboundPeerTransfer l pa len none) s = .next s ∧
            ∃ u : State, exec (.inboundPeerTransfer l pa len (some bs)) s = .next u ∧ wrote u) ∧
          (s.boot.peersUp.getLsbD l.toNat = false → exec (.inboundPeerTransfer l pa len none) s = .next s ∧ exec (.inboundPeerTransfer l pa len (some bs)) s = .next s))) ∧
    (∀ line : W64, ∃ u : State, exec (.backInvalidate line) s = .next u ∧ { u with pln := s.pln } = s ∧
      u.pln = if s.isTier line.toNat = true then { s.pln with replicas := s.pln.replicas.filter fun r => r.line != line.toNat / 128 } else s.pln) ∧
    (∀ v : W32, (s.pln.shootctl.getLsbD 31 = true → exec (.shootdown v) s = .next s) ∧
      (s.pln.shootctl.getLsbD 31 = false → ∃ u : State, exec (.shootdown v) s = .next u ∧ still u ∧ u.pln = { s.pln with shootctl := v &&& 0xC0FFFFFF } ∧
        (v.getLsbD 31 = true → .shootdownDone ∈ u.agenda))) ∧
    (s.pln.shootctl.getLsbD 31 = false → exec .shootdownDone s = .next s) ∧
    (s.pln.shootctl.getLsbD 31 = true →
      let ctl := s.pln.shootctl
      let first := s.pln.shootva.toNat / 65536
      let busy := s.inUse (ctl.extractLsb' 12 12).toNat (ctl.getLsbD 30) first (ctl.toNat % 4096)
      (busy = true → exec .shootdownDone s = .next s) ∧
      (busy = false → ∃ u : State, exec .shootdownDone s = .next u ∧ { u with pln := s.pln } = s ∧ u.pln.shootctl = ctl &&& 0x7FFFFFFF ∧
        ∀ e, e ∈ u.pln.tlb ↔ e ∈ s.pln.tlb ∧ ¬ (e.job = ctl.extractLsb' 12 12 ∧ (ctl.getLsbD 30 = true ∨ (first ≤ e.page ∧ e.page < first + ctl.toNat % 4096))))) ∧
    (∀ a b : BitVec 4,
      let hold (p : Packet) : Bool := s.detJob p.job && s.crosses p.src.toNat p.dst.toNat a.toNat b.toNat
      ∃ u : State, exec (.linkDown a b) s = .next u ∧ { u with pln := s.pln, irqs := s.irqs } = s ∧
        u.pln = { s.pln with dead := s.pln.dead ++ [⟨a, b, s.pln.packets.filter hold⟩], packets := s.pln.packets.filter fun p => !hold p } ∧
        ((∀ p ∈ s.launches, p.2.live = true → p.2.det = false) → u.irqs = s.irqs) ∧
        (∀ p ∈ s.launches, p.2.live = true → p.2.det = true → ∀ i j, i < 16 → j < 16 → s.crosses i j a.toNat b.toNat = true → u.irqs = .linkDown a b :: s.irqs)) ∧
    (∀ (n : BitVec 4) (v : W32), ∃ u : State, exec (.routeWrite n v) s = .next u ∧ { u with pln := s.pln } = s ∧ (∀ j, u.routeCode n.toNat j = fieldNat v.toNat (2 * j + 1) (2 * j)) ∧
      (∀ i j, i ≠ n.toNat → u.routeCode i j = s.routeCode i j) ∧
      let stuck (p : Packet) : Bool := s.pln.dead.any fun x => u.crosses p.src.toNat p.dst.toNat x.a.toNat x.b.toNat
      u.pln.packets = s.pln.packets ++ (s.pln.dead.flatMap DeadLink.held).filter (fun p => !stuck p) ∧
      u.pln.dead.flatMap DeadLink.held = (s.pln.dead.flatMap DeadLink.held).filter stuck) ∧
    exec (.linkNarrow sock) s = .next (if s.pln.pmEn = true ∧ d.width.toNat < 2 then s.setDie sock { d with width := d.width + 1 } else s) ∧
    exec (.linkWiden sock) s = .next (s.setDie sock { d with width := 0 }) ∧
    (∀ idx, (s.pln.sent[idx]? = none → exec (.dieAbsentReply sock core idx) s = .next s) ∧
      (∀ q, s.pln.sent[idx]? = some q →
        ((q.sock, q.core) ≠ (sock, core) ∨ s.inService q.dest = true → exec (.dieAbsentReply sock core idx) s = .next s) ∧
        ((q.sock, q.core) = (sock, core) → s.inService q.dest = false → ∃ u : State, exec (.dieAbsentReply sock core idx) s = .next u ∧ { u with pln := s.pln } = s ∧
          u.pln.sent.length = s.pln.sent.length ∧ ∀ (j : Nat) (x : Sent), s.pln.sent[j]? = some x → u.pln.sent[j]? = some
            (if idx ≤ j ∧ (x.sock, x.core, x.dest) = (sock, core, q.dest) then { x with dest := match s.home (128 * x.line) with | some h => h.1 | none => q.dest } else x)))) ∧
    (∀ n : BitVec 4, exec (.peerLinkDown n) s = .next (if s.boot.peersUp.getLsbD n.toNat
      then ({ s with boot := { s.boot with peersUp := s.boot.peersUp &&& ~~~((1 : BitVec 16) <<< n.toNat) } } : State).irq (.peerLink n) else s))

/-- R321-R325: the migration arbiter. A ring is enabled, written and disabled as a launch queue is; a descriptor is taken and answered BADREQ, HELD or ALREADY, joins the move of its page, or starts one by setting MIG; a move copies the page, writes its leaf, answers MOVED to the requests carried out and LOST to the others, and leaves the page HELD for the side that won. What R321-R325 leave open follows log 25. -/
def Obligations.MigrationEvents : Prop :=
  ∀ (s : State) (r : BitVec 1),
    let q := s.ring r
    (∀ v : W32,
      let n : BitVec 4 := v.setWidth 4
      (q.en = true → exec (.migRingEnable r v) s = .next (s.setRing r { q with bad := q.bad && !v.getLsbD 4 }) ∧
        exec (.migRingDisable r v) s = .next (s.setRing r { q with bad := q.bad && !v.getLsbD 4, en := false })) ∧
      (q.en = false → (n = 0 ∨ 12 < n.toNat ∨ q.base = 0) → exec (.migRingEnable r v) s = .next (s.setRing r { q with bad := true })) ∧
      (q.en = false → n ≠ 0 → n.toNat ≤ 12 → q.base ≠ 0 → exec (.migRingEnable r v) s =
        .next (s.setRing r { q with bad := q.bad && !v.getLsbD 4, en := true, log2n := n, head := 0, tail := 0 })) ∧
      (q.en = false → exec (.migRingDisable r v) s = .next (s.setRing r { q with bad := q.bad && !v.getLsbD 4, log2n := n })) ∧
      (∃ u : State, exec (.migTailWrite r v) s = .next u ∧ { u with agenda := s.agenda } =
        if q.en = true ∧ ((v - q.head).toNat < (q.tail - q.head).toNat ∨ 2 ^ q.log2n.toNat < (v - q.head).toNat)
        then s.setRing r { q with tail := v, en := false, bad := true } else s.setRing r { q with tail := v })) ∧
    (q.en = false ∨ q.head = q.tail ∨ s.descriptor r = .wait → exec (.migDescriptorTake r) s = .next s) ∧
    (q.en = true → q.head ≠ q.tail → s.descriptor r = .bad → exec (.migDescriptorTake r) s = .next (s.setRing r { q with en := false, bad := true })) ∧
    (∀ b, q.en = true → q.head ≠ q.tail → s.descriptor r = .bytes b →
      ∃ u : State, exec (.migDescriptorTake r) s = .next u ∧ u.ring r = { q with head := q.head + 1 } ∧ u.teams = s.teams ∧ u.launches = s.launches ∧
        let answered (st : Nat) : Prop := u.mem = (s.migStatus r.toNat (BitVec.ofNat 64 (fld b 24 8)) st).mem ∧ u.mig.moves = s.mig.moves
        if s.mig.held.any (fun h => h.job.toNat == fld b 8 2 && h.va.toNat == fld b 0 8 && !s.malformed b h.size) = true then answered 2
        else match s.readReq r.toNat b with
          | none => answered 3
          | some (m, l) =>
            if s.shareHolds m = true then answered 2
            else if s.rangeOf l.entry = m.dest then answered 4
            else if s.mig.moves.any m.same = true then u.mem = s.mem ∧ u.mig.moves = s.mig.moves ++ [m]
            else u.mem = (s.putPhysBytes l.at' (natLe (setBits l.entry 7 7 1) 8)).mem ∧ u.mig.moves = s.mig.moves ++ [m] ∧ .migrationCopyDone ∈ u.agenda ∧
              ∀ e ∈ u.pln.tlb, ¬ (e.job = m.job ∧ m.va.toNat / 65536 ≤ e.page ∧ e.page < m.va.toNat / 65536 + m.size / 65536)) ∧
    (∀ b m l, s.readReq r.toNat b = some (m, l) → m.va.toNat = fld b 0 8 ∧ m.job.toNat = fld b 8 2 ∧ m.dest = fld b 10 1 ∧ m.dest ≤ 2 ∧ m.pa.toNat = fld b 16 8 ∧
      m.done.toNat = fld b 24 8 ∧ zeroAt b 11 5 = true ∧ m.size = 2 ^ l.bits ∧ l.bits ≠ 30 ∧ m.va.toNat % m.size = 0 ∧ m.pa.toNat % m.size = 0 ∧
      s.leafOf m.job.toNat m.va.toNat = some l ∧ s.inRange m.dest m.pa.toNat m.size = true) ∧
    (∀ ms aff, (∃ m ∈ ms, MigReq.asks m = some 0) → (∃ m ∈ ms, MigReq.asks m = some 1) → winSide ms aff = some (if aff = 2 then 1 else 0)) ∧
    (s.mig.moves = [] → exec .migrationCopyDone s = .next s) ∧
    (∀ m0 rest, s.mig.moves = m0 :: rest → s.inUse m0.job.toNat false (m0.va.toNat / 65536) (m0.size / 65536) = true → exec .migrationCopyDone s = .next s) ∧
    (∀ m0 rest, s.mig.moves = m0 :: rest → s.inUse m0.job.toNat false (m0.va.toNat / 65536) (m0.size / 65536) = false → (∀ p ∈ s.launches, p.2.live = true → s.outcome p.1 = none) →
      let all := s.mig.moves.filter m0.same
      ∃ u : State, exec .migrationCopyDone s = .next u ∧ u.mig.moves = s.mig.moves.filter (fun m => !m0.same m) ∧ u.teams = s.teams ∧
        match s.leafOf m0.job.toNat m0.va.toNat with
        | none => u.mem = (all.foldl (fun x m => x.migStatus m.ring m.done 3) s).mem ∧ u.mig.held = s.mig.held
        | some l =>
          let side := winSide all (fieldNat l.entry 6 5)
          let fit (m : MigReq) : Bool := match side with | some w => m.asks == some w | none => true
          ∃ w, all.find? fit = some w ∧
            u.mem = ((all.filter fun m => !(fit m && m.dest == w.dest)).foldl (fun x m => x.migStatus m.ring m.done 1)
              ((all.filter fun m => fit m && m.dest == w.dest).foldl (fun x m => x.migStatus m.ring m.done 0) (s.movePage w l))).mem ∧
            (∃ h : HeldPage, u.mig.held = s.mig.held ++ [h] ∧ h.job = w.job ∧ h.va = w.va ∧ h.pa = w.pa.toNat ∧ h.side = (match w.asks with | some a => a | none => w.ring)) ∧
            .dispatchRound ∈ u.agenda) ∧
    (∀ (e pa n : Nat), Memory.wf s.mem = true → fieldNat e 59 56 = 0 → (entryAddr e + n ≤ pa ∨ pa + n ≤ entryAddr e) →
      ∀ a, SMap.get 0 (s.copyPage e pa n 0).mem a = if pa ≤ a ∧ a < pa + n then SMap.get 0 s.mem (entryAddr e + (a - pa)) else SMap.get 0 s.mem a) ∧
    (∀ (m : MigReq) (l : Leaf), m.dest ≤ 2 → m.size = 2 ^ l.bits → 16 ≤ l.bits → m.pa.toNat % m.size = 0 → m.pa.toNat < 2 ^ 52 → l.entry < 2 ^ 64 →
      let e := leNat (SMap.bytes (s.movePage m l).mem l.at' 8)
      fieldNat e 51 8 * 256 = m.pa.toNat ∧ fieldNat e 7 7 = 0 ∧ fieldNat e 4 4 = 0 ∧ fieldNat e 0 0 = (if m.dest = 2 then 0 else fieldNat l.entry 0 0) ∧
        fieldNat e 3 1 = fieldNat l.entry 3 1 ∧ fieldNat e 6 5 = fieldNat l.entry 6 5)

/-- R430-R438, R440: the Doff engine. One operation runs at a time, started by GO, with the first failing check as STATUS; a Doff halts the job's teams, measures the area, sweeps the Reel and the routers, saves the teams and frees their rows, and marks the header done; late packets go to the late bin or are counted; a restore refills the teams, boards the records again, injects the packets and lets the job go on; a discard ends every launch of the job as TERMINATED. What R433-R440 leave open, such as the place of a section in the area, follows log 16. -/
def Obligations.DoffEngine : Prop :=
  ∀ (s : State),
    let d := s.doff
    let job : BitVec 12 := d.ctl.setWidth 12
    let put (u : State) (off x n : Nat) : State := u.doffPut d.runArea off (natLe x n)
    let ended (u : State) (st : Nat) : Prop := u.doff.busy = false ∧ u.doff.phase = 0 ∧ u.doff.status.toNat = st ∧ .doff ∈ u.irqs
    (∀ v : W32,
      let j := v.toNat % 4096
      (d.busy = true → exec (.doffStart v) s = .next s ∧ exec (.doffRestore v) s = .next s ∧ exec (.doffDiscard v) s = .next s) ∧
      (d.busy = false → v.getLsbD 31 = false →
        exec (.doffStart v) s = .next { s with doff := { d with ctl := (v &&& 0x0FFFFFFF) ||| 0x10000000 } } ∧
        exec (.doffRestore v) s = .next { s with doff := { d with ctl := (v &&& 0x0FFFFFFF) ||| 0x20000000 } } ∧
        exec (.doffDiscard v) s = .next { s with doff := { d with ctl := (v &&& 0x0FFFFFFF) ||| 0x30000000 } }) ∧
      (d.busy = false → v.getLsbD 31 = true →
        (let st := if s.jobDieDown j = true then 1 else if j = 0 ∨ s.jobLaunches j = [] then 2 else if (s.doffed j).isSome then 6 else if s.areaOk j d.area = false then 4 else 0
         if st ≠ 0 then exec (.doffStart v) s = .next { s with doff := { d with ctl := (v &&& 0x0FFFFFFF) ||| 0x10000000, status := BitVec.ofNat 8 st } }
         else ∃ u : State, exec (.doffStart v) s = .next u ∧ u.doff.busy = true ∧ u.doff.phase = 1 ∧ u.doff.status = 0 ∧ u.doff.ctl.toNat % 4096 = j ∧ u.doff.runArea = d.area ∧
           u.mem = ((s.doffPut d.area 30 (natLe s.dsp.mode.toNat 2)).doffPut d.area 24 (natLe 1 4)).mem) ∧
        (let h := s.doffHdr d.area
         let st := if (s.doffed j).isNone then 7 else if s.hdrOpen d.area = false ∨ hdrIs h j = false ∨ fld h 24 4 ≠ 2 then 8 else if fld h 52 4 ≠ 0 then 9
           else if fld h 30 2 ≠ s.dsp.mode.toNat then 8 else 0
         if st ≠ 0 then exec (.doffRestore v) s = .next { s with doff := { d with ctl := (v &&& 0x0FFFFFFF) ||| 0x20000000, status := BitVec.ofNat 8 st } }
         else ∃ u : State, exec (.doffRestore v) s = .next u ∧ u.doff.busy = true ∧ u.doff.phase = 6 ∧ u.doff.filled = false ∧ u.mem = s.mem ∧ u.launches = s.launches ∧
           .placementPass ∈ u.agenda ∧ ∀ tid ∈ u.doff.teams, (u.team tid).state = .saved ∧ (u.team tid).waitRestore = true) ∧
        (s.doffed j = none → exec (.doffDiscard v) s = .next { s with doff := { d with ctl := (v &&& 0x0FFFFFFF) ||| 0x30000000, status := 7 } }) ∧
        (∀ x, s.doffed j = some x → ∃ u : State, exec (.doffDiscard v) s = .next u ∧ ended u 0 ∧ u.doff.jobs.any (fun y => y.job == x.job && y.draining) = true ∧
          ∀ lid ∈ s.jobLaunches j, (s.launch lid).live = true → (s.launch lid).status = none → (u.launch lid).status = some 10))) ∧
    (d.busy = false ∨ d.phase = 0 ∨ d.phase = 6 ∨ d.phase = 7 → ∀ late, exec (.doffPhaseEnd late) s = .next s) ∧
    (d.busy = true → d.phase = 1 → ∀ late : Bool,
      let ts := s.jobTeams job
      let s1 := ts.foldl State.fenceTeam (ts.foldl (State.haltTeam late) s)
      let s2 := if s1.dsp.mode = 0 then ts.foldl (fun x tid => x.setTeam tid (((x.team tid).putBack 0).putBack 1)) s1 else s1
      let m := s2.doffMeasure
      let inside := late = true ∧ ts.any (fun tid => (s1.team tid).groups.any Group.inHandler) = true
      (inside → ∃ u : State, exec (.doffPhaseEnd late) s = .next u ∧ ended u 11 ∧ u.mem = (put (put s1 16 s1.doffMeasure.doff.need 8) 24 3 4).mem) ∧
      (¬ inside → ts.all s1.teamHalted = false → exec (.doffPhaseEnd late) s = .next s1) ∧
      (¬ inside → ts.all s1.teamHalted = true → m.doff.reelOff = m.doff.netOff + 2621440 ∧ m.doff.lateOff = m.doff.reelOff + 40960 ∧
        m.doff.need = m.doff.lateOff + (160 * fld (s2.doffHdr d.runArea) 48 4 + 4095) / 4096 * 4096 ∧
        (fld (s2.doffHdr d.runArea) 8 8 < m.doff.need → ∃ u : State, exec (.doffPhaseEnd late) s = .next u ∧ ended u 10 ∧ u.mem = (put (put s2 16 m.doff.need 8) 24 3 4).mem) ∧
        (m.doff.need ≤ fld (s2.doffHdr d.runArea) 8 8 → ∃ u : State, exec (.doffPhaseEnd late) s = .next u ∧ u.doff.busy = true ∧ u.doff.phase = 2 ∧ u.doff.teams = s2.jobTeams job ∧
          u.reel.sweep = some job ∧ job ∈ u.reel.blocked ∧ u.mem = (put s2 16 m.doff.need 8).mem))) ∧
    (d.busy = true → d.phase = 2 → ∀ late,
      ((∃ p ∈ s.reel.slots, p.2.job = job ∧ p.2.st ≠ .empty) → exec (.doffPhaseEnd late) s = .next s) ∧
      ((∀ p ∈ s.reel.slots, p.2.job = job → p.2.st = .empty) → ∃ (u : State) (recs : List Byte), exec (.doffPhaseEnd late) s = .next u ∧ u.doff.phase = 3 ∧
        u.doff.nreel = s.reel.swept.length ∧ u.reel.sweep = none ∧ u.reel.swept = [] ∧ u.mem = (s.doffPut d.runArea d.reelOff recs).mem ∧
        ((∀ x ∈ s.reel.swept, x.2.1.fields.length = 8) → recs.length = 80 * s.reel.swept.length ∧
          ∀ (i : Nat) (x : BitVec 8 × ReelSlot × Nat), s.reel.swept[i]? = some x → fld recs (80 * i) 8 = x.2.1.key.toNat ∧ fld recs (80 * i + 8) 2 = x.2.1.version.toNat))) ∧
    (d.busy = true → d.phase = 3 → ∀ late, ∃ (u : State) (mine : List Packet), exec (.doffPhaseEnd late) s = .next u ∧ u.doff.phase = 4 ∧ u.doff.nnet = mine.length ∧
      mine.Perm ((s.pln.packets ++ s.pln.dead.flatMap DeadLink.held).filter fun p => p.job == job) ∧ mine.Pairwise (fun a b => packetRank a ≤ packetRank b) ∧
      u.mem = (s.doffPut d.runArea d.netOff (mine.flatMap fun p => packetRecord p false)).mem ∧ u.pln.packets = s.pln.packets.filter (fun p => p.job != job) ∧
      (∃ x, u.doff.jobs = d.jobs ++ [x] ∧ x.job = job ∧ x.area = d.runArea ∧ x.lateOff = d.lateOff ∧ x.lateCap = d.lateCap ∧ x.nlate = 0 ∧ x.state2 = false)) ∧
    (d.busy = true → d.phase = 4 → ∀ late, ∃ u : State, exec (.doffPhaseEnd late) s = .next u ∧ u.doff.phase = 5 ∧ u.launches = s.launches ∧
      u.doff.jobs.length = d.jobs.length ∧ (∀ tid ∈ d.teams, (u.team tid).state = .saved ∧ ∃ f ∈ u.dsp.freed, f = ((s.team tid).sock, (s.team tid).core, (s.team tid).bank, (s.team tid).row, (s.team tid).job.toNat)) ∧
      ∀ tid, tid ∉ d.teams → (u.team tid).state = (s.team tid).state ∧ (u.team tid).groups = (s.team tid).groups) ∧
    (d.busy = true → d.phase = 5 → (∃ p ∈ s.pln.packets, p.job = job) → ∀ late, exec (.doffPhaseEnd late) s = .next s) ∧
    (d.busy = true → d.phase = 5 → (∀ p ∈ s.pln.packets, p.job ≠ job) → ∀ late x, (d.jobs.find? fun x => x.job == job) = some x → ∃ u : State, exec (.doffPhaseEnd late) s = .next u ∧ ended u 0 ∧ u.launches = s.launches ∧
      (u.doff.jobs.find? fun x => x.job == job) = some { x with state2 := true } ∧
      u.mem = (((s.doffPut d.runArea 32 (natLe d.teams.length 4 ++ natLe d.nnet 4 ++ natLe d.nreel 4 ++ natLe x.nlate 4)).doffPut d.runArea 52
        (natLe x.lateDrop.toNat 4 ++ natLe 4096 8 ++ natLe d.netOff 8 ++ natLe d.reelOff 8 ++ natLe d.lateOff 8)).doffPut d.runArea 24 (natLe 2 4)).mem) ∧
    (∀ p : Packet,
      ((∀ x ∈ d.jobs, x.job ≠ p.job) → exec (.latePacket p) s = .next s) ∧
      (∀ x, (d.jobs.find? fun x => x.job == p.job) = some x → ∃ u : State, exec (.latePacket p) s = .next u ∧ u.pln.packets = s.pln.packets.erase p ∧
        (x.draining = true → (u.doff.jobs.find? fun x => x.job == p.job) = some { x with lateDrop := x.lateDrop + 1 } ∧ u.doff.code = d.code ∧ u.irqs = s.irqs ∧ u.mem = (s.doffPut x.area 52 (natLe (x.lateDrop + 1).toNat 4)).mem) ∧
        (x.draining = false → x.lateCap ≤ x.nlate → (u.doff.jobs.find? fun x => x.job == p.job) = some { x with lateDrop := x.lateDrop + 1 } ∧ .doff ∈ u.irqs ∧
          u.doff.code = if x.state2 then 0x0701 else 0x0702) ∧
        (x.draining = false → x.nlate < x.lateCap → (u.doff.jobs.find? fun x => x.job == p.job) = some { x with nlate := x.nlate + 1 } ∧
          (x.state2 = false → u.mem = (s.doffPut x.area (x.lateOff + 160 * x.nlate) (packetRecord p false)).mem ∧ u.doff.code = d.code ∧ u.irqs = s.irqs) ∧
          (x.state2 = true → u.doff.code = 0x0701 ∧ .doff ∈ u.irqs)))) ∧
    (d.busy = false ∨ d.phase ≠ 6 → exec .doffRestoreDone s = .next s) ∧
    (d.busy = true → d.phase = 6 → ∀ x, (d.jobs.find? fun x => x.job == job) = some x →
      (d.filled = false → (∃ tid ∈ d.teams, (s.team tid).state = .saved ∨ (s.team tid).state = .loading) → exec .doffRestoreDone s = .next s) ∧
      (d.filled = false → (∀ tid ∈ d.teams, (s.team tid).state ≠ .saved ∧ (s.team tid).state ≠ .loading) →
        ∃ u : State, exec .doffRestoreDone s = .next u ∧ u.doff.filled = true ∧ u.doff.busy = true ∧ ∃ bs : List (ReelSlot × Nat), u.reel.boards = s.reel.boards ++ bs ∧
          bs.length ≤ 512 ∧ ∀ b ∈ bs, b.1.st = .live ∧ b.1.job = job) ∧
      (d.filled = true → s.reel.boards ≠ [] → exec .doffRestoreDone s = .next s) ∧
      (d.filled = true → s.reel.boards = [] → ∃ u : State, exec .doffRestoreDone s = .next u ∧ ended u 0 ∧ (∀ y ∈ u.doff.jobs, y.job ≠ job) ∧ job ∉ u.reel.blocked ∧
        u.mem = (s.doffPut d.runArea 24 (natLe 4 4)).mem ∧
        let h := s.doffHdr d.runArea
        u.pln.packets = (s.packetRecords d.runArea job (fld h 64 8) (Nat.min (fld h 36 4) 16384) false ++
          s.packetRecords d.runArea job (fld h 80 8) (Nat.min (fld h 44 4) x.lateCap) true) ++ s.pln.packets)) ∧
    ((∀ x ∈ d.jobs, x.draining = false) → exec .discardDrainEnd s = .next s) ∧
    ((∃ x ∈ d.jobs, x.draining = true) → ∃ u : State, exec .discardDrainEnd s = .next u ∧ u.doff.jobs = d.jobs.filter (fun x => !x.draining) ∧ u.mem = s.mem ∧
      (∀ x ∈ d.jobs, x.draining = true → x.job ∉ u.reel.blocked) ∧ .dispatchRound ∈ u.agenda)

/-- R453-R458: the warm reset of a die. A request waits its turn and shows as phase 7; the checks of R454 refuse it with a status; a reset that begins takes the die's teams and bindings away and ends their launches; its phases bypass the stops, write back, take the slices out, retrain and test; the die comes back with COUNT one more, or is left out with STATUS 4. What R453-R458 leave open follows logs 26 and 30. -/
def Obligations.DieResetEvents : Prop :=
  ∀ (s : State),
    let r := s.rst
    let k := r.dsock.toNat
    let asked (u : State) (x : BitVec 4 × Nat × Bool) : Prop := u.rst.waiting = r.waiting ++ [x] ∧ .dieResetStart ∈ u.agenda ∧ u.teams = s.teams ∧ u.mem = s.mem ∧
      u.rst.phase = (if r.phase = 0 ∨ r.phase = 7 then 7 else r.phase)
    (∀ v : W32, (r.go = true → exec (.dieResetRequest v) s = .next s) ∧
      (r.go = false → ∃ u : State, exec (.dieResetRequest v) s = .next u ∧ asked u (v.setWidth 4, 0, v.getLsbD 30) ∧ u.rst.go = true ∧ u.rst.kind = v.getLsbD 30 ∧ u.rst.sock = v.setWidth 4)) ∧
    (∀ x : BitVec 2, (∃ u : State, exec (.dieLinkFailure x) s = .next u ∧ asked u (x.setWidth 4, 1, true) ∧ u.rst.go = r.go) ∧
      ∃ u : State, exec (.controlStateError x) s = .next u ∧ asked u (x.setWidth 4, 2, true) ∧ u.rst.go = r.go) ∧
    ((r.phase ≠ 0 ∧ r.phase ≠ 7) ∨ s.doff.busy = true ∨ r.waiting = [] → exec .dieResetStart s = .next s) ∧
    (∀ (x : BitVec 4) cause forced rest, (r.phase = 0 ∨ r.phase = 7) → s.doff.busy = false → r.waiting = (x, cause, forced) :: rest →
      let n := x.toNat
      let st := if 3 < n ∨ ((s.die n).present = false ∧ (s.die n).leftOut = false) then 1 else if cause = 0 ∧ s.presentDies.filter s.inService = [n] then 2
        else if forced = false ∧ s.dieFree n = false then 3 else 0
      ∃ u : State, exec .dieResetStart s = .next u ∧ u.rst.waiting = rest ∧
        (st ≠ 0 → u.rst.status.toNat = st ∧ u.rst.go = (if cause = 0 then false else r.go) ∧ u.rst.phase = (if rest = [] then 0 else 7) ∧ u.teams = s.teams ∧ u.mem = s.mem ∧ u.dies = s.dies) ∧
        (st = 0 → u.rst.phase = 1 ∧ u.rst.dsock = x ∧ u.rst.cause = BitVec.ofNat 8 cause ∧ (u.die n).inReset = true ∧ SMap.get 0 u.dsp.heads n = 0 ∧ .dieEvent ∈ u.irqs ∧
          (∀ p ∈ s.teams, p.2.sock = n → p.2.state ≠ .saved → p.2.state ≠ .done → (u.team p.1).state = .done ∧
            ((s.launch p.2.lid).live = true → (s.launch p.2.lid).status = none → (u.launch p.2.lid).status = some 10)) ∧
          (∀ i j, i < 4 → j < Machine.coresOf i → (i = n ∨ fieldNat (s.core i j).qbind.toNat 27 24 = n) → (u.core i j).qbind.getLsbD 31 = false) ∧
          ∀ i, i < Machine.coresOf n → (u.core n i).b0.queue = [] ∧ (u.core n i).b1.queue = [])) ∧
    (r.phase = 0 ∨ 7 ≤ r.phase.toNat → ∀ pass, exec (.dieResetPhaseEnd pass) s = .next s) ∧
    (∀ pass, r.phase = 1 → (s.portsClear k = false → exec (.dieResetPhaseEnd pass) s = .next s) ∧
      (s.portsClear k = true → ∃ u : State, exec (.dieResetPhaseEnd pass) s = .next u ∧ u.rst.phase = 2 ∧ (k < 4 → u.reel.byp.getLsbD k = true) ∧ u.mem = s.mem ∧ u.teams = s.teams)) ∧
    (∀ pass, r.phase = 2 → ∃ u : State, exec (.dieResetPhaseEnd pass) s = .next u ∧ u.rst.phase = 3 ∧ u.pln.replicas = [] ∧ (u.die k).staging = [] ∧ u.mem = s.mem ∧ u.teams = s.teams ∧
      ∀ p ∈ (u.die k).wins, p.2.area = none) ∧
    (∀ pass, r.phase = 3 → exec (.dieResetPhaseEnd pass) s = .next { s with rst := { r with phase := 4 } }) ∧
    (r.phase = 4 → exec (.dieResetPhaseEnd true) s = .next { s with rst := { r with phase := 5 } }) ∧
    (r.phase = 5 → exec (.dieResetPhaseEnd true) s = .next { s with rst := { r with phase := 6 } }) ∧
    (∀ pass, r.phase = 6 → k < 4 → ∃ u : State, exec (.dieResetPhaseEnd pass) s = .next u ∧ (u.die k).present = true ∧ (u.die k).inReset = false ∧ (u.die k).leftOut = false ∧
      u.reel.byp.getLsbD k = false ∧ u.rst.count = (if r.count = 255 then 255 else r.count + 1) ∧ u.rst.status = 0 ∧ u.rst.phase = (if r.waiting = [] then 0 else 7) ∧
      .dieEvent ∈ u.irqs ∧ .placementPass ∈ u.agenda ∧ u.pln.replicas = [] ∧ u.mem = s.mem ∧ u.teams = s.teams ∧
      ∀ i, i < Machine.coresOf k → (u.core k i).b0.tiles = [] ∧ (u.core k i).b0.counts = [] ∧ (u.core k i).b1.tiles = [] ∧ (u.core k i).b1.counts = [] ∧ (u.core k i).port = []) ∧
    ((r.phase = 4 ∨ r.phase = 5) → k < 4 → (∀ x, s.updating = some x → x.upd.part ≠ .die (BitVec.ofNat 4 k) ∨ x.retried = true) → ∃ u : State, exec (.dieResetPhaseEnd false) s = .next u ∧ (u.die k).present = false ∧ (u.die k).leftOut = true ∧
      u.rst.status = 4 ∧ u.rst.count = r.count ∧ u.boot.valid = true ∧ u.boot.sock = r.dsock ∧ u.boot.cause = (if r.phase = 4 then 4 else 6) ∧ .dieEvent ∈ u.irqs ∧
      ∀ p ∈ s.launches, p.2.live = true → (p.2.needs k = true ∨ ∀ j, j < 4 → j ≠ k → (s.die j).present = false) →
        (s.launch p.1).live = true → (s.launch p.1).status = none → (u.launch p.1).status = some 10) ∧
    (∀ (x : Update), (r.phase = 4 ∨ r.phase = 5) → s.updating = some ⟨x, false⟩ → x.part = .die (BitVec.ofNat 4 k) →
      ∃ u : State, exec (.dieResetPhaseEnd false) s = .next u ∧ u.updating = some ⟨x, true⟩ ∧ u.rst.phase = 4 ∧ u.boot.valid = true ∧ u.dies = s.dies ∧ u.teams = s.teams)

/-- R38, R287 and log 1: an event that stands first on the agenda comes next; else, where a group issues, the instruction that the words at its point decode to runs as exec says, its npc the word after it, or on the native level its next bundle; words that no encoding gives raise the translation fault of R227, and a group past the end of its function returns or, in a kernel, exits; where no group issues the package's agents act. The agenda, that step runs one group's instruction at a time (log 1), and what the end of a function does (log 17), are the model's choice. -/
def Obligations.StepRunsTheDecodedInstruction : Prop :=
  ∀ (s : State) (gid : GId) (g : Group),
    (∀ i rest, s.agenda = i :: rest → step s = exec i { s with agenda := rest }) ∧
    (s.agenda = [] → Issues s gid g → g.nat.on = true → step s = exec (.bundleIssue gid) s) ∧
    (s.agenda = [] → Issues s gid g → g.nat.on = false → ∀ i n,
      decode ((s.wordsOf gid g g.frame.func).drop g.frame.word) = .ok (i, n) → step s = exec i { s with npc := g.frame.word + n }) ∧
    (s.agenda = [] → Issues s gid g → g.nat.on = false → s.wordsOf gid g g.frame.func ≠ [] → (s.wordsOf gid g g.frame.func).length ≤ g.frame.word →
      step s = exec (match s.func (s.modOf gid g) g.frame.func with | some f => if f.kind = 1 then .exit else .ret | none => .ret) { s with npc := g.frame.word }) ∧
    (s.agenda = [] → Issues s gid g → g.nat.on = false → s.wordsOf gid g g.frame.func = [] ∨ g.frame.word < (s.wordsOf gid g g.frame.func).length → ∀ c,
      decode ((s.wordsOf gid g g.frame.func).drop g.frame.word) = .error c →
        step s = .next (s.xlFault gid g (Code.ofXl c) g.frame.word g.frame.func)) ∧
    (s.agenda = [] → s.cur = none → step s = .next s.auto)

/-- Words that the spec writes out, with what they stand for: the function of R40, the divrem of R88, R133's cbr, R386, R388-R390, R432; and what R87 refuses by name. -/
def Obligations.DecodedWords : Prop :=
  let h (ty : Ty) (ce : Bool) : Hd := { dst := .flinal, dst2 := .flinal, ty := ty, u := false, ce := ce }
  decode [0x01000802, 0x00000044] = .ok (.blk [.i32, .i32], 2) ∧
  decode [0x10400800, 0x00010000] = .ok (.add (h .i32 false) .wrap (.ref 0) (.ref 1), 2) ∧
  decode [0x05000C01, 0x00000002] = .ok (.retValues (.ref 2) none, 2) ∧
  decode [0x05000C02, 0x00030002] = .ok (.retValues (.ref 2) (some (.ref 3)), 2) ∧
  decode [0x15400800, 0x00010000] = .ok (.divrem (h .i32 false) false (.ref 0) (.ref 1), 2) ∧
  decode [0x15480800, 0x00010000] = .ok (.divrem { h .i32 false with u := true } false (.ref 0) (.ref 1), 2) ∧
  decode [0x1E400800, 0x00010000] = .error .opcode ∧ decode [0x15400802, 0x00010000] = .error .opcode ∧
  decode [0x15600800, 0x00010000] = .error .type ∧ decode [0x05000802, 0x00030002] = .error .course ∧
  decode [0x30411002, 0x00000003, 0x00000000] = .ok (.cmp (h .i32 false) .ltS (.ref 3) (.lit 0), 3) ∧
  decode [0x03001C22, 0x00010005, 0x00060002, 0x00070007] = .ok (.cbr (.ref 5) 1 2 2 1 [.ref 6, .ref 7, .ref 7], 4) ∧
  decode [0x09000802, 0x00060005] = .ok (.args [.ref 5, .ref 6], 2) ∧
  decode [0xB8400C00, 0x00060005] = .ok (.reelBoard (h .i32 true) (.ref 5) (.ref 6), 2) ∧
  decode [0xBA501400 + 0x131, 0x00060005, 0xFFFE0007] = .ok (.reelCapture (h .i64 true) .add 3 .release (.ref 5) (.ref 6) (.ref 7) (.ref 0xFFFE), 3) ∧
  decode [0xB9001000, 0x00060005, 0x00080007] = .ok (.reelAlight (h .void false) (.ref 5) (.ref 6) (.ref 7) (.ref 8), 3) ∧
  decode [0xBB000400] = .ok (.reelFence, 1) ∧
  decode [0xE7400C00, 0x00060005] = .ok (.doffIssue (h .i32 true) (.ref 5) (.ref 6), 2)

/-- R38, R70-R87: decoding the words of a well-formed instruction gives it back, whatever follows, with every operand at every value its field admits; and what a word list decodes to is well-formed, and its words are those that were read: one encoding for each instruction. Events and native-only ops have no Flinal words. -/
def Obligations.EncodingAndDecodingAgree : Prop :=
  (∀ (i : Instr) (rest : List W32), instrWf i = true → (parts i).isSome = true → decode (encode i ++ rest) = .ok (i, (encode i).length)) ∧
  (∀ (ws : List W32) (i : Instr) (n : Nat), decode ws = .ok (i, n) → instrWf i = true ∧ (parts i).isSome = true ∧ encode i = ws.take n ∧ 1 ≤ n ∧ n ≤ 4)

/-- The physical memory keeps its canonical form (addresses strictly rising, no entry equal to what an unlisted address reads as): every step that answers a next state keeps it, from every state that has it. The form, and that an unlisted byte reads as zero, are the model's choice (log 3). -/
def Obligations.MemoryFormKept : Prop :=
  ∀ s t : State, s.ok = true → step s = .next t → t.ok = true

/-- What reset leaves, as the rules state it: start-up mode (R19), the partition mode (R186), every queue (R187), the headroom and steering (R216), a job's registers (R316, R409), a core's numeric registers (R68), trap error and pre-emption (R408, R416), cadence (R296) and store banks (R302, R305), a die's split, windows (R306, R310), slope and sag (R297, R301), the Plinth's windows and link power (R320, R328, R329), the migration rings (R322), the Reel (R380, R383), the Doff and die-reset registers (R430, R453), the thermal selection (R459); no memory is listed, and the memory has its canonical form. That no memory is listed is the model's choice (log 3). -/
def Obligations.ResetState : Prop :=
  let s := State.reset
  s.ok = true ∧ s.boot.mode = 1 ∧ s.dsp.mode = 0 ∧
  (∀ n, let q := s.queue n
    q.en = false ∧ q.log2n = 0 ∧ q.pceil = 0 ∧ q.part = 0 ∧ q.job = 0 ∧ q.base = 0 ∧ q.tail = 0 ∧ q.head = 0 ∧ q.stat = 0 ∧
    q.vfyctl = 0 ∧ q.vfyreg = 0 ∧ q.vfyout = 0) ∧
  (∀ n, SMap.get 0 s.dsp.heads n = 0) ∧ s.dsp.steer = 4 ∧ s.dsp.restore = 0 ∧
  (∀ j, (s.job j).root = 0 ∧ (s.job j).hfunc = 0 ∧ (s.job j).route = 0xFF) ∧
  (∀ k c, (∀ b, let x := (s.core k c).bank b
      x.window = 0 ∧ x.hit = 0 ∧ ∀ n, SMap.get 0 x.limits n = 0 ∧ SMap.get 0 x.counts n = 0) ∧
    (s.core k c).traperr = 0 ∧ (s.core k c).preempt = 0 ∧ (s.core k c).qbind = 0 ∧ (s.core k c).gap = 1 ∧
    ∀ n, (s.core k c).store k n = if storeBanks k ≤ n + 2 then ⟨false, 2, 2⟩ else ⟨false, 1, 1⟩) ∧
  (∀ k, (∀ n, (SMap.get Split.reset (s.die k).splits n).stage = 4 ∧ (SMap.get StageWin.reset (s.die k).wins n).reg = 0) ∧
    (s.die k).slope = 0x400 ∧ (s.die k).rows = 0 ∧ ∀ b, (s.bay k b).sag = 0x0410026C ∧ ∀ n, SMap.get 0 (s.bay k b).evts n = 0) ∧
  s.pln.shootctl = 0 ∧ s.pln.wmax = 256 ∧ s.pln.thresh = 48 ∧ s.pln.pmEn = true ∧ s.pln.pmLow = 20 ∧ s.pln.pmWin = 16 ∧
  s.mig.r0 = ⟨false, false, 0, 0, 0, 0⟩ ∧ s.mig.r1 = ⟨false, false, 0, 0, 0, 0⟩ ∧
  (∀ i, (s.slot i).st = .empty ∧ (s.slot i).version = 0) ∧ s.reel.byp = 0 ∧ s.reel.empty = 0 ∧
  s.doff.ctl = 0 ∧ s.doff.area = 0 ∧ s.doff.busy = false ∧ s.doff.phase = 0 ∧ s.doff.status = 0 ∧ s.doff.code = 0 ∧
  s.rst.go = false ∧ s.rst.kind = false ∧ s.rst.sock = 0 ∧ s.rst.phase = 0 ∧ s.rst.dsock = 0 ∧ s.rst.status = 0 ∧ s.rst.cause = 0 ∧ s.rst.count = 0 ∧
  s.thm.kind = 0 ∧ s.thm.inlet = 0 ∧ s.thm.flow = 0 ∧ s.thm.forceAir = false ∧ s.thm.table = 0 ∧ s.thm.row = 0 ∧ s.mem = [] ∧ s.teams = [] ∧ s.launches = []
end

