-- ==== Sys2Proof/Laws/Exec.lean ====
section
/-! SUPPORT. What the common shapes of the meanings answer: one lemma per shape (withCur, laneOp, groupOp), for a group that issues and operands that are not lost. -/

namespace Sys2Proof.Machine

theorem withCur_of_issues {s : State} {gid : GId} {g : Group} (hi : Issues s gid g) (f : GId → Group → State) :
    withCur s f = .next (f gid g) := by
  simp [withCur, hi.1, hi.2]

theorem withCur_next_or_noGroup (s : State) (f : GId → Group → State) :
    (∃ gid g, Issues s gid g ∧ withCur s f = .next (f gid g)) ∨ withCur s f = .fault .noGroup := by
  unfold withCur Issues
  cases h : s.cur with
  | none => simp
  | some gid =>
    cases h2 : s.group gid with
    | none => exact .inr (by simp only [h2])
    | some g => exact .inl ⟨gid, g, ⟨rfl, h2⟩, by simp only [h2]⟩

theorem lostOf_of_sound {s : State} {gid : GId} {g : Group} {ins : List (Ty × Opnd)} (h : Sound s gid g ins) :
    lostOf (ins.map fun i => s.read gid g i.1 i.2) = none := by
  induction ins with
  | nil => rfl
  | cons i t ih =>
    have h1 : (s.read gid g i.1 i.2).lost = none := h i (by simp)
    simp [lostOf, h1, ih fun j hj => h j (by simp [hj])]

theorem sound_cons {s : State} {gid : GId} {g : Group} {i : Ty × Opnd} {t : List (Ty × Opnd)} :
    Sound s gid g (i :: t) ↔ (s.read gid g i.1 i.2).lost = none ∧ Sound s gid g t := by simp [Sound]
theorem sound_nil {s : State} {gid : GId} {g : Group} : Sound s gid g [] := by simp [Sound]

theorem laneOuts_map {β : Type} (h : Hd) (g : Group) (rs : List Rd) (f : List Lane → LaneOut) (k : LaneOut → β) :
    (laneOuts h g rs f).map k =
      if h.u then List.replicate 32 (k (f (laneIns rs (lowest g.active))))
      else lanes32.map fun l => if g.active.getLsbD l then k (f (laneIns rs l)) else k ⟨0, 0, 0⟩ := by
  unfold laneOuts
  split
  · simp
  · rw [List.map_map]
    apply List.map_congr_left
    intro l _
    simp only [Function.comp]
    split <;> rfl

theorem evOf_replicate (o : LaneOut) : evOf (List.replicate 32 o) = o.ev := by
  simp [evOf, List.replicate]

theorem foldl_ev_filter (p : Nat → Bool) (f : Nat → Ev) (l : List Nat) (e : Ev) :
    l.foldl (fun e l => e ||| (if p l then f l else 0)) e = (l.filter p).foldl (fun e l => e ||| f l) e := by
  induction l generalizing e with
  | nil => rfl
  | cons x t ih =>
    simp only [List.foldl_cons, List.filter_cons]
    by_cases h : p x = true
    · rw [if_pos h, if_pos h, List.foldl_cons, ih]
    · rw [if_neg h, if_neg h, ih]; simp

theorem evOf_laneOuts (h : Hd) (g : Group) (rs : List Rd) (f : List Lane → LaneOut) :
    evOf (laneOuts h g rs f) = evLanes h g fun l => (f (laneIns rs l)).ev := by
  unfold laneOuts evLanes
  split
  · exact evOf_replicate _
  · unfold evOf lanesOf
    rw [List.foldl_map, ← foldl_ev_filter]
    congr 1
    funext e l
    split <;> rfl

/-- A lane instruction of one result, its operands sound. -/
theorem laneOp_one {s : State} {gid : GId} {g : Group} {ins : List (Ty × Opnd)} (h : Hd) (t : Ty) (f : List Lane → LaneOut)
    (hs : Sound s gid g ins) :
    s.laneOp gid g h ins [t] f =
      s.finish gid g h (resMask h g)
        [(t, byLane h g fun l => (f (ins.map fun i => opndBits s gid g i.1 i.2 l)).a)]
        (evLanes h g fun l => (f (ins.map fun i => opndBits s gid g i.1 i.2 l)).ev) := by
  have hl : ∀ l, laneIns (ins.map fun i => s.read gid g i.1 i.2) l = ins.map fun i => opndBits s gid g i.1 i.2 l := by
    intro l; simp [laneIns, opndBits, Function.comp_def]
  simp only [State.laneOp, lostOf_of_sound hs, laneOuts_map, evOf_laneOuts, hl, byLane]

/-- A lane instruction of two results. -/
theorem laneOp_two {s : State} {gid : GId} {g : Group} {ins : List (Ty × Opnd)} (h : Hd) (t t2 : Ty) (f : List Lane → LaneOut)
    (hs : Sound s gid g ins) :
    s.laneOp gid g h ins [t, t2] f =
      s.finish gid g h (resMask h g)
        [(t, byLane h g fun l => (f (ins.map fun i => opndBits s gid g i.1 i.2 l)).a),
         (t2, byLane h g fun l => (f (ins.map fun i => opndBits s gid g i.1 i.2 l)).b)]
        (evLanes h g fun l => (f (ins.map fun i => opndBits s gid g i.1 i.2 l)).ev) := by
  have hl : ∀ l, laneIns (ins.map fun i => s.read gid g i.1 i.2) l = ins.map fun i => opndBits s gid g i.1 i.2 l := by
    intro l; simp [laneIns, opndBits, Function.comp_def]
  simp only [State.laneOp, lostOf_of_sound hs, laneOuts_map, evOf_laneOuts, hl, byLane]

/-- A group instruction, its operands sound. -/
theorem groupOp_of_sound {s : State} {gid : GId} {g : Group} {ins : List (Ty × Opnd)} (h : Hd) (f : List Rd → List (Ty × List Lane) × Ev)
    (hs : Sound s gid g ins) :
    s.groupOp gid g h ins f =
      s.finish gid g h g.active (f (ins.map fun i => s.read gid g i.1 i.2)).1 (f (ins.map fun i => s.read gid g i.1 i.2)).2 := by
  simp only [State.groupOp, lostOf_of_sound hs]

/-- An instruction read once for the group, its operands sound: it goes on with the lowest active lane's values (R330). -/
theorem elect_of_sound {s : State} {gid : GId} {g : Group} {ins : List (Ty × Opnd)} (k : List Lane → State) (hs : Sound s gid g ins) :
    s.elect gid g ins k = k (ins.map fun i => (s.read gid g i.1 i.2).elect g) := by
  simp [State.elect, lostOf_of_sound hs, Function.comp_def]

end Sys2Proof.Machine
end

