-- ==== Sys2Proof/Laws/Lane.lean ====
section
/-! SUPPORT. Lane arithmetic in words of the type's width: the helpers of R89 as BitVec operations, and what the value instructions answer for operands that are not lost. -/

namespace Sys2Proof.Machine

/-- uns is the value of the low w bits as a word. -/
theorem uns_eq (w : Nat) (x : Lane) : uns w x = (x.setWidth w).toNat := by simp [uns]
/-- sgn is its signed value. -/
theorem sgn_eq (w : Nat) (x : Lane) : sgn w x = (x.setWidth w).toInt := by
  unfold sgn
  rw [uns_eq, BitVec.toInt_eq_msb_cond, BitVec.msb_eq_decide]
  simp
theorem bits_eq (w : Nat) (v : Int) : BitVec.ofNat 64 (bits w v) = (BitVec.ofInt w v).setWidth 64 := by
  unfold bits
  apply BitVec.eq_of_toNat_eq
  simp [BitVec.toNat_setWidth, BitVec.toNat_ofInt]
theorem bits_le (t : Ty) : t.bits ≤ 64 := by cases t <;> decide

theorem ofNat_toNat64 {w : Nat} (x : BitVec w) : BitVec.ofNat 64 x.toNat = x.setWidth 64 := by
  apply BitVec.eq_of_toNat_eq; simp
theorem clampEv_a (w : Nat) (lo hi v : Int) : (clampEv w lo hi v).a = (BitVec.ofInt w (clampInt lo hi v)).setWidth 64 := by
  unfold clampEv clampInt
  split
  · simp [LaneOut.ev1, bits_eq w]
  · split <;> simp [LaneOut.ev1, bits_eq w]
theorem clampEv_ev (w : Nat) (lo hi v : Int) : (clampEv w lo hi v).ev = satEv lo hi v := by
  unfold clampEv satEv
  split
  · simp [LaneOut.ev1, *]
  · split <;> simp [LaneOut.ev1, *]

theorem gives_of {s : State} {gid : GId} {g : Group} {h : Hd} {i : Instr} {ty : Ty} {f : Nat → BitVec ty.bits} {e : Nat → Ev}
   {f' : Nat → Lane} {e' : Nat → Ev}
   (hx : exec i s = .next (s.finish gid g h (resMask h g) [(ty, byLane h g f')] (evLanes h g e')))
   (hf : ∀ l, f' l = (f l).setWidth 64) (he : ∀ l, e' l = e l) : Gives s gid g h i ty f e := by
  have h1 : f' = fun l => (f l).setWidth 64 := funext hf
  have h2 : e' = e := funext he
  subst h1; subst h2; exact hx
theorem gives2_of {s : State} {gid : GId} {g : Group} {h : Hd} {i : Instr} {ty : Ty} {f : Nat → BitVec ty.bits} {e : Nat → Ev}
   {ty2 : Ty} {f2 : Nat → BitVec ty2.bits} {f' f2' : Nat → Lane} {e' : Nat → Ev}
   (hx : exec i s = .next (s.finish gid g h (resMask h g) [(ty, byLane h g f'), (ty2, byLane h g f2')] (evLanes h g e')))
   (hf : ∀ l, f' l = (f l).setWidth 64) (hf2 : ∀ l, f2' l = (f2 l).setWidth 64) (he : ∀ l, e' l = e l) : Gives2 s gid g h i ty f ty2 f2 e := by
  have h1 : f' = fun l => (f l).setWidth 64 := funext hf
  have h2 : f2' = fun l => (f2 l).setWidth 64 := funext hf2
  have h3 : e' = e := funext he
  subst h1; subst h2; subst h3; exact hx

/-- One operand, one result. -/
theorem exec1 {s : State} {gid : GId} {g : Group} (hi : Issues s gid g) (h : Hd) (ta tr : Ty) (a : Opnd) (f : Lane → LaneOut) (hs : Sound s gid g [(ta, a)]) :
   valueOp1 h ta tr a f s = .next (s.finish gid g h (resMask h g) [(tr, byLane h g fun l => (f (opndBits s gid g ta a l)).a)]
     (evLanes h g fun l => (f (opndBits s gid g ta a l)).ev)) := by
  rw [valueOp1, withCur_of_issues hi, laneOp_one h tr _ hs]; rfl
theorem exec2 {s : State} {gid : GId} {g : Group} (hi : Issues s gid g) (h : Hd) (ta tb tr : Ty) (a b : Opnd) (f : Lane → Lane → LaneOut) (hs : Sound s gid g [(ta, a), (tb, b)]) :
   valueOp2 h ta tb tr a b f s = .next (s.finish gid g h (resMask h g) [(tr, byLane h g fun l => (f (opndBits s gid g ta a l) (opndBits s gid g tb b l)).a)]
     (evLanes h g fun l => (f (opndBits s gid g ta a l) (opndBits s gid g tb b l)).ev)) := by
  rw [valueOp2, withCur_of_issues hi, laneOp_one h tr _ hs]; rfl
theorem exec3 {s : State} {gid : GId} {g : Group} (hi : Issues s gid g) (h : Hd) (ta tb tc tr : Ty) (a b c : Opnd) (f : Lane → Lane → Lane → LaneOut) (hs : Sound s gid g [(ta, a), (tb, b), (tc, c)]) :
   valueOp3 h ta tb tc [tr] a b c f s = .next (s.finish gid g h (resMask h g) [(tr, byLane h g fun l => (f (opndBits s gid g ta a l) (opndBits s gid g tb b l) (opndBits s gid g tc c l)).a)]
     (evLanes h g fun l => (f (opndBits s gid g ta a l) (opndBits s gid g tb b l) (opndBits s gid g tc c l)).ev)) := by
  rw [valueOp3, withCur_of_issues hi, laneOp_one h tr _ hs]; rfl
theorem exec32 {s : State} {gid : GId} {g : Group} (hi : Issues s gid g) (h : Hd) (ta tb tc tr tr2 : Ty) (a b c : Opnd) (f : Lane → Lane → Lane → LaneOut) (hs : Sound s gid g [(ta, a), (tb, b), (tc, c)]) :
   valueOp3 h ta tb tc [tr, tr2] a b c f s = .next (s.finish gid g h (resMask h g) [(tr, byLane h g fun l => (f (opndBits s gid g ta a l) (opndBits s gid g tb b l) (opndBits s gid g tc c l)).a), (tr2, byLane h g fun l => (f (opndBits s gid g ta a l) (opndBits s gid g tb b l) (opndBits s gid g tc c l)).b)]
     (evLanes h g fun l => (f (opndBits s gid g ta a l) (opndBits s gid g tb b l) (opndBits s gid g tc c l)).ev)) := by
  rw [valueOp3, withCur_of_issues hi, laneOp_two h tr tr2 _ hs]; rfl
theorem exec22 {s : State} {gid : GId} {g : Group} (hi : Issues s gid g) (h : Hd) (ta tb tr tr2 : Ty) (a b : Opnd) (f : Lane → Lane → LaneOut) (hs : Sound s gid g [(ta, a), (tb, b)]) :
   valueOp22 h ta tb [tr, tr2] a b f s = .next (s.finish gid g h (resMask h g) [(tr, byLane h g fun l => (f (opndBits s gid g ta a l) (opndBits s gid g tb b l)).a), (tr2, byLane h g fun l => (f (opndBits s gid g ta a l) (opndBits s gid g tb b l)).b)]
     (evLanes h g fun l => (f (opndBits s gid g ta a l) (opndBits s gid g tb b l)).ev)) := by
  rw [valueOp22, withCur_of_issues hi, laneOp_two h tr tr2 _ hs]; rfl
theorem exec4 {s : State} {gid : GId} {g : Group} (hi : Issues s gid g) (h : Hd) (ta tb tc td tr : Ty) (a b c d : Opnd) (f : Lane → Lane → Lane → Lane → LaneOut) (hs : Sound s gid g [(ta, a), (tb, b), (tc, c), (td, d)]) :
   valueOp4 h ta tb tc td [tr] a b c d f s = .next (s.finish gid g h (resMask h g) [(tr, byLane h g fun l => (f (opndBits s gid g ta a l) (opndBits s gid g tb b l) (opndBits s gid g tc c l) (opndBits s gid g td d l)).a)]
     (evLanes h g fun l => (f (opndBits s gid g ta a l) (opndBits s gid g tb b l) (opndBits s gid g tc c l) (opndBits s gid g td d l)).ev)) := by
  rw [valueOp4, withCur_of_issues hi, laneOp_one h tr _ hs]; rfl

theorem one_ev (x : Lane) : (LaneOut.one x).ev = 0 := rfl
theorem ofNat_ev (x : Nat) : (LaneOut.ofNat x).ev = 0 := rfl
theorem ofNat_a (x : Nat) : (LaneOut.ofNat x).a = BitVec.ofNat 64 x := rfl

end Sys2Proof.Machine
end

