-- ==== Sys2Proof/Laws/SMap.lean ====
section
/-! SUPPORT. Laws of the sparse maps: a read after a write, and that every map operation keeps the canonical form. -/

namespace Sys2Proof.Machine

variable {α : Type} [DecidableEq α]

theorem SMap.get_above (d : α) (t : SMap α) (k k2 : Nat) : SMap.get d (SMap.above k t) k2 = if k < k2 then SMap.get d t k2 else d := by
  induction t with
  | nil => simp [SMap.above, SMap.get]
  | cons p t ih =>
    obtain ⟨a, v⟩ := p
    simp only [SMap.above]
    split
    · rw [ih]; split
      · simp only [SMap.get]; split
        · omega
        · split
          · omega
          · rfl
      · rfl
    · simp only [SMap.get]; split
      · split
        · rfl
        · omega
      · split
        · split <;> rfl
        · split
          · rfl
          · omega

/-- A read after a write: the value written at its key, the old value at every other. -/
theorem SMap.get_put (d : α) (m : SMap α) (k : Nat) (v : α) (k2 : Nat) : SMap.get d (SMap.put d m k v) k2 = if k2 = k then v else SMap.get d m k2 := by
  induction m with
  | nil =>
    simp only [SMap.put]
    split <;> simp_all [SMap.get]
  | cons p t ih =>
    obtain ⟨a, b⟩ := p
    simp only [SMap.put]
    by_cases h1 : k < a
    · rw [if_pos h1]
      by_cases h2 : v = d
      · rw [if_pos h2]; simp only [SMap.get]
        by_cases h3 : k2 = k
        · rw [if_neg (by omega), if_pos (by omega), if_pos h3, h2]
        · rw [if_neg h3]
      · rw [if_neg h2]; simp only [SMap.get]
        by_cases h3 : k2 = k
        · rw [if_pos h3, if_pos h3]
        · rw [if_neg h3, if_neg h3]
          by_cases h4 : k2 < k
          · rw [if_pos h4, if_neg (by omega), if_pos (by omega)]
          · rw [if_neg h4]
    · rw [if_neg h1]
      by_cases h2 : k = a
      · rw [if_pos h2]
        by_cases h3 : v = d
        · rw [if_pos h3, SMap.get_above]; simp only [SMap.get]
          by_cases h4 : k2 = k
          · rw [if_neg (by omega), if_pos h4, h3]
          · rw [if_neg h4, if_neg (by omega : ¬ k2 = a)]
            by_cases h5 : k2 < a
            · rw [if_pos h5, if_neg (by omega)]
            · rw [if_neg h5, if_pos (by omega)]
        · rw [if_neg h3]; simp only [SMap.get]
          by_cases h4 : k2 = k
          · rw [if_pos h4, if_pos h4]
          · rw [if_neg h4, if_neg h4, if_neg (by omega : ¬ k2 = a), h2]
      · rw [if_neg h2]; simp only [SMap.get, ih]
        by_cases h4 : k2 = a
        · rw [if_pos h4, if_pos h4, if_neg (by omega)]
        · rw [if_neg h4, if_neg h4]
          by_cases h5 : k2 < a
          · rw [if_pos h5, if_pos h5, if_neg (by omega)]
          · rw [if_neg h5, if_neg h5]

theorem SMap.wfFrom_mono (d : α) (m : SMap α) {lo hi : Nat} (h : lo ≤ hi) (w : SMap.wfFrom d hi m = true) : SMap.wfFrom d lo m = true := by
  cases m with
  | nil => rfl
  | cons p t => obtain ⟨a, b⟩ := p; simp_all [SMap.wfFrom]; omega

theorem SMap.above_of_wf (d : α) (t : SMap α) (k : Nat) (w : SMap.wfFrom d (k + 1) t = true) : SMap.above k t = t := by
  cases t with
  | nil => rfl
  | cons p t => obtain ⟨a, b⟩ := p; simp [SMap.wfFrom] at w; simp [SMap.above]; omega

/-- A write keeps the canonical form from any bound at or below its key. -/
theorem SMap.wfFrom_put (d : α) (m : SMap α) (lo k : Nat) (v : α) (h : lo ≤ k) (w : SMap.wfFrom d lo m = true) :
    SMap.wfFrom d lo (SMap.put d m k v) = true := by
  induction m generalizing lo with
  | nil => simp only [SMap.put]; split <;> simp_all [SMap.wfFrom]
  | cons p t ih =>
    obtain ⟨a, b⟩ := p
    have w0 := w
    simp only [SMap.wfFrom, Bool.and_eq_true, decide_eq_true_eq, Bool.not_eq_true', decide_eq_false_iff_not] at w
    simp only [SMap.put]
    split
    · split
      · exact w0
      · next h1 h2 =>
        simp only [SMap.wfFrom, w.2, Bool.and_eq_true, decide_eq_true_eq, Bool.not_eq_true', decide_eq_false_iff_not]
        exact ⟨⟨h, h2⟩, ⟨by omega, w.1.2⟩, trivial⟩
    · split
      · next h1 h2 =>
        subst h2
        split
        · rw [SMap.above_of_wf d t k w.2]; exact SMap.wfFrom_mono d t (by omega) w.2
        · simp only [SMap.wfFrom, w.2]; simp [*]
      · simp only [SMap.wfFrom, ih (a + 1) (by omega) w.2]; simp [w.1]

/-- A write keeps the canonical form. -/
theorem SMap.wf_put (d : α) (m : SMap α) (k : Nat) (v : α) (w : SMap.wf d m = true) : SMap.wf d (SMap.put d m k v) = true :=
  SMap.wfFrom_put d m 0 k v (Nat.zero_le k) w

theorem SMap.wfFrom_filter (d : α) (m : SMap α) (lo : Nat) (p : Nat × α → Bool) (w : SMap.wfFrom d lo m = true) : SMap.wfFrom d lo (m.filter p) = true := by
  induction m generalizing lo with
  | nil => rfl
  | cons q t ih =>
    obtain ⟨a, b⟩ := q
    simp only [SMap.wfFrom, Bool.and_eq_true, decide_eq_true_eq, Bool.not_eq_true', decide_eq_false_iff_not] at w
    rw [List.filter_cons]
    split
    · simp only [SMap.wfFrom, ih (a + 1) w.2]; simp [w.1]
    · exact SMap.wfFrom_mono d _ (by omega) (ih (a + 1) w.2)
/-- Clearing a range keeps the canonical form. -/
theorem SMap.wf_clear (d : α) (m : SMap α) (lo n : Nat) (w : SMap.wf d m = true) : SMap.wf d (SMap.clear m lo n) = true :=
  SMap.wfFrom_filter d m 0 _ w
/-- Writing bytes keeps the canonical form. -/
theorem SMap.wf_putBytes (m : SMap Byte) (a : Nat) (bs : List Byte) (w : SMap.wf 0 m = true) : SMap.wf 0 (SMap.putBytes m a bs) = true := by
  induction bs generalizing m a with
  | nil => exact w
  | cons b bs ih => exact ih _ _ (SMap.wf_put 0 m a b w)
/-- A byte after a list of bytes is written: the one of the list that covers it, else the old one. -/
theorem SMap.get_putBytes (m : SMap Byte) (a : Nat) (bs : List Byte) (k : Nat) :
    SMap.get 0 (SMap.putBytes m a bs) k = if a ≤ k ∧ k < a + bs.length then bs.getD (k - a) 0 else SMap.get 0 m k := by
  induction bs generalizing m a with
  | nil => simp [SMap.putBytes] <;> omega
  | cons b bs ih =>
    simp only [SMap.putBytes, ih, SMap.get_put, List.length_cons]
    by_cases h : k = a
    · subst h; simp <;> (intros; omega)
    · by_cases h2 : a + 1 ≤ k ∧ k < a + 1 + bs.length
      · rw [if_pos h2, if_pos (by omega)]
        obtain ⟨j, hj⟩ : ∃ j, k - a = j + 1 := ⟨k - a - 1, by omega⟩
        rw [hj, show k - (a + 1) = j by omega]; rfl
      · rw [if_neg h2, if_neg h, if_neg (by omega)]

end Sys2Proof.Machine
end

