-- ==== Sys2Proof/Laws/State.lean ====
section
/-! SUPPORT. One lemma per field per named update of the state, true by rfl, and what each accessor reads after each update. -/

namespace Sys2Proof.Machine

@[simp] theorem setTeam_boot (s : State) (tid : Nat) (t : Team) : (s.setTeam tid t).boot = s.boot := rfl
@[simp] theorem setTeam_updates (s : State) (tid : Nat) (t : Team) : (s.setTeam tid t).updates = s.updates := rfl
@[simp] theorem setTeam_updating (s : State) (tid : Nat) (t : Team) : (s.setTeam tid t).updating = s.updating := rfl
@[simp] theorem setTeam_updLog (s : State) (tid : Nat) (t : Team) : (s.setTeam tid t).updLog = s.updLog := rfl
@[simp] theorem setTeam_dsp (s : State) (tid : Nat) (t : Team) : (s.setTeam tid t).dsp = s.dsp := rfl
@[simp] theorem setTeam_cache0 (s : State) (tid : Nat) (t : Team) : (s.setTeam tid t).cache0 = s.cache0 := rfl
@[simp] theorem setTeam_cache1 (s : State) (tid : Nat) (t : Team) : (s.setTeam tid t).cache1 = s.cache1 := rfl
@[simp] theorem setTeam_cores (s : State) (tid : Nat) (t : Team) : (s.setTeam tid t).cores = s.cores := rfl
@[simp] theorem setTeam_dies (s : State) (tid : Nat) (t : Team) : (s.setTeam tid t).dies = s.dies := rfl
@[simp] theorem setTeam_pln (s : State) (tid : Nat) (t : Team) : (s.setTeam tid t).pln = s.pln := rfl
@[simp] theorem setTeam_mem (s : State) (tid : Nat) (t : Team) : (s.setTeam tid t).mem = s.mem := rfl
@[simp] theorem setTeam_mig (s : State) (tid : Nat) (t : Team) : (s.setTeam tid t).mig = s.mig := rfl
@[simp] theorem setTeam_reel (s : State) (tid : Nat) (t : Team) : (s.setTeam tid t).reel = s.reel := rfl
@[simp] theorem setTeam_doff (s : State) (tid : Nat) (t : Team) : (s.setTeam tid t).doff = s.doff := rfl
@[simp] theorem setTeam_rst (s : State) (tid : Nat) (t : Team) : (s.setTeam tid t).rst = s.rst := rfl
@[simp] theorem setTeam_thm (s : State) (tid : Nat) (t : Team) : (s.setTeam tid t).thm = s.thm := rfl
@[simp] theorem setTeam_energy (s : State) (tid : Nat) (t : Team) : (s.setTeam tid t).energy = s.energy := rfl
@[simp] theorem setTeam_eshadows (s : State) (tid : Nat) (t : Team) : (s.setTeam tid t).eshadows = s.eshadows := rfl
@[simp] theorem setTeam_jshadows (s : State) (tid : Nat) (t : Team) : (s.setTeam tid t).jshadows = s.jshadows := rfl
@[simp] theorem setTeam_reads (s : State) (tid : Nat) (t : Team) : (s.setTeam tid t).reads = s.reads := rfl
@[simp] theorem setTeam_launches (s : State) (tid : Nat) (t : Team) : (s.setTeam tid t).launches = s.launches := rfl
@[simp] theorem setTeam_irqs (s : State) (tid : Nat) (t : Team) : (s.setTeam tid t).irqs = s.irqs := rfl
@[simp] theorem setTeam_agenda (s : State) (tid : Nat) (t : Team) : (s.setTeam tid t).agenda = s.agenda := rfl
@[simp] theorem setTeam_cur (s : State) (tid : Nat) (t : Team) : (s.setTeam tid t).cur = s.cur := rfl
@[simp] theorem setTeam_npc (s : State) (tid : Nat) (t : Team) : (s.setTeam tid t).npc = s.npc := rfl
@[simp] theorem setTeam_time (s : State) (tid : Nat) (t : Team) : (s.setTeam tid t).time = s.time := rfl
@[simp] theorem setTeam_fresh (s : State) (tid : Nat) (t : Team) : (s.setTeam tid t).fresh = s.fresh := rfl

@[simp] theorem setLaunch_boot (s : State) (lid : Nat) (l : Launch) : (s.setLaunch lid l).boot = s.boot := rfl
@[simp] theorem setLaunch_updates (s : State) (lid : Nat) (l : Launch) : (s.setLaunch lid l).updates = s.updates := rfl
@[simp] theorem setLaunch_updating (s : State) (lid : Nat) (l : Launch) : (s.setLaunch lid l).updating = s.updating := rfl
@[simp] theorem setLaunch_updLog (s : State) (lid : Nat) (l : Launch) : (s.setLaunch lid l).updLog = s.updLog := rfl
@[simp] theorem setLaunch_dsp (s : State) (lid : Nat) (l : Launch) : (s.setLaunch lid l).dsp = s.dsp := rfl
@[simp] theorem setLaunch_cache0 (s : State) (lid : Nat) (l : Launch) : (s.setLaunch lid l).cache0 = s.cache0 := rfl
@[simp] theorem setLaunch_cache1 (s : State) (lid : Nat) (l : Launch) : (s.setLaunch lid l).cache1 = s.cache1 := rfl
@[simp] theorem setLaunch_cores (s : State) (lid : Nat) (l : Launch) : (s.setLaunch lid l).cores = s.cores := rfl
@[simp] theorem setLaunch_dies (s : State) (lid : Nat) (l : Launch) : (s.setLaunch lid l).dies = s.dies := rfl
@[simp] theorem setLaunch_pln (s : State) (lid : Nat) (l : Launch) : (s.setLaunch lid l).pln = s.pln := rfl
@[simp] theorem setLaunch_mem (s : State) (lid : Nat) (l : Launch) : (s.setLaunch lid l).mem = s.mem := rfl
@[simp] theorem setLaunch_mig (s : State) (lid : Nat) (l : Launch) : (s.setLaunch lid l).mig = s.mig := rfl
@[simp] theorem setLaunch_reel (s : State) (lid : Nat) (l : Launch) : (s.setLaunch lid l).reel = s.reel := rfl
@[simp] theorem setLaunch_doff (s : State) (lid : Nat) (l : Launch) : (s.setLaunch lid l).doff = s.doff := rfl
@[simp] theorem setLaunch_rst (s : State) (lid : Nat) (l : Launch) : (s.setLaunch lid l).rst = s.rst := rfl
@[simp] theorem setLaunch_thm (s : State) (lid : Nat) (l : Launch) : (s.setLaunch lid l).thm = s.thm := rfl
@[simp] theorem setLaunch_energy (s : State) (lid : Nat) (l : Launch) : (s.setLaunch lid l).energy = s.energy := rfl
@[simp] theorem setLaunch_eshadows (s : State) (lid : Nat) (l : Launch) : (s.setLaunch lid l).eshadows = s.eshadows := rfl
@[simp] theorem setLaunch_jshadows (s : State) (lid : Nat) (l : Launch) : (s.setLaunch lid l).jshadows = s.jshadows := rfl
@[simp] theorem setLaunch_reads (s : State) (lid : Nat) (l : Launch) : (s.setLaunch lid l).reads = s.reads := rfl
@[simp] theorem setLaunch_teams (s : State) (lid : Nat) (l : Launch) : (s.setLaunch lid l).teams = s.teams := rfl
@[simp] theorem setLaunch_irqs (s : State) (lid : Nat) (l : Launch) : (s.setLaunch lid l).irqs = s.irqs := rfl
@[simp] theorem setLaunch_agenda (s : State) (lid : Nat) (l : Launch) : (s.setLaunch lid l).agenda = s.agenda := rfl
@[simp] theorem setLaunch_cur (s : State) (lid : Nat) (l : Launch) : (s.setLaunch lid l).cur = s.cur := rfl
@[simp] theorem setLaunch_npc (s : State) (lid : Nat) (l : Launch) : (s.setLaunch lid l).npc = s.npc := rfl
@[simp] theorem setLaunch_time (s : State) (lid : Nat) (l : Launch) : (s.setLaunch lid l).time = s.time := rfl
@[simp] theorem setLaunch_fresh (s : State) (lid : Nat) (l : Launch) : (s.setLaunch lid l).fresh = s.fresh := rfl

@[simp] theorem setCore_boot (s : State) (k c : Nat) (x : Core) : (s.setCore k c x).boot = s.boot := rfl
@[simp] theorem setCore_updates (s : State) (k c : Nat) (x : Core) : (s.setCore k c x).updates = s.updates := rfl
@[simp] theorem setCore_updating (s : State) (k c : Nat) (x : Core) : (s.setCore k c x).updating = s.updating := rfl
@[simp] theorem setCore_updLog (s : State) (k c : Nat) (x : Core) : (s.setCore k c x).updLog = s.updLog := rfl
@[simp] theorem setCore_dsp (s : State) (k c : Nat) (x : Core) : (s.setCore k c x).dsp = s.dsp := rfl
@[simp] theorem setCore_cache0 (s : State) (k c : Nat) (x : Core) : (s.setCore k c x).cache0 = s.cache0 := rfl
@[simp] theorem setCore_cache1 (s : State) (k c : Nat) (x : Core) : (s.setCore k c x).cache1 = s.cache1 := rfl
@[simp] theorem setCore_dies (s : State) (k c : Nat) (x : Core) : (s.setCore k c x).dies = s.dies := rfl
@[simp] theorem setCore_pln (s : State) (k c : Nat) (x : Core) : (s.setCore k c x).pln = s.pln := rfl
@[simp] theorem setCore_mem (s : State) (k c : Nat) (x : Core) : (s.setCore k c x).mem = s.mem := rfl
@[simp] theorem setCore_mig (s : State) (k c : Nat) (x : Core) : (s.setCore k c x).mig = s.mig := rfl
@[simp] theorem setCore_reel (s : State) (k c : Nat) (x : Core) : (s.setCore k c x).reel = s.reel := rfl
@[simp] theorem setCore_doff (s : State) (k c : Nat) (x : Core) : (s.setCore k c x).doff = s.doff := rfl
@[simp] theorem setCore_rst (s : State) (k c : Nat) (x : Core) : (s.setCore k c x).rst = s.rst := rfl
@[simp] theorem setCore_thm (s : State) (k c : Nat) (x : Core) : (s.setCore k c x).thm = s.thm := rfl
@[simp] theorem setCore_energy (s : State) (k c : Nat) (x : Core) : (s.setCore k c x).energy = s.energy := rfl
@[simp] theorem setCore_eshadows (s : State) (k c : Nat) (x : Core) : (s.setCore k c x).eshadows = s.eshadows := rfl
@[simp] theorem setCore_jshadows (s : State) (k c : Nat) (x : Core) : (s.setCore k c x).jshadows = s.jshadows := rfl
@[simp] theorem setCore_reads (s : State) (k c : Nat) (x : Core) : (s.setCore k c x).reads = s.reads := rfl
@[simp] theorem setCore_teams (s : State) (k c : Nat) (x : Core) : (s.setCore k c x).teams = s.teams := rfl
@[simp] theorem setCore_launches (s : State) (k c : Nat) (x : Core) : (s.setCore k c x).launches = s.launches := rfl
@[simp] theorem setCore_irqs (s : State) (k c : Nat) (x : Core) : (s.setCore k c x).irqs = s.irqs := rfl
@[simp] theorem setCore_agenda (s : State) (k c : Nat) (x : Core) : (s.setCore k c x).agenda = s.agenda := rfl
@[simp] theorem setCore_cur (s : State) (k c : Nat) (x : Core) : (s.setCore k c x).cur = s.cur := rfl
@[simp] theorem setCore_npc (s : State) (k c : Nat) (x : Core) : (s.setCore k c x).npc = s.npc := rfl
@[simp] theorem setCore_time (s : State) (k c : Nat) (x : Core) : (s.setCore k c x).time = s.time := rfl
@[simp] theorem setCore_fresh (s : State) (k c : Nat) (x : Core) : (s.setCore k c x).fresh = s.fresh := rfl

@[simp] theorem setDie_boot (s : State) (k : Nat) (d : Die) : (s.setDie k d).boot = s.boot := rfl
@[simp] theorem setDie_updates (s : State) (k : Nat) (d : Die) : (s.setDie k d).updates = s.updates := rfl
@[simp] theorem setDie_updating (s : State) (k : Nat) (d : Die) : (s.setDie k d).updating = s.updating := rfl
@[simp] theorem setDie_updLog (s : State) (k : Nat) (d : Die) : (s.setDie k d).updLog = s.updLog := rfl
@[simp] theorem setDie_dsp (s : State) (k : Nat) (d : Die) : (s.setDie k d).dsp = s.dsp := rfl
@[simp] theorem setDie_cache0 (s : State) (k : Nat) (d : Die) : (s.setDie k d).cache0 = s.cache0 := rfl
@[simp] theorem setDie_cache1 (s : State) (k : Nat) (d : Die) : (s.setDie k d).cache1 = s.cache1 := rfl
@[simp] theorem setDie_cores (s : State) (k : Nat) (d : Die) : (s.setDie k d).cores = s.cores := rfl
@[simp] theorem setDie_pln (s : State) (k : Nat) (d : Die) : (s.setDie k d).pln = s.pln := rfl
@[simp] theorem setDie_mem (s : State) (k : Nat) (d : Die) : (s.setDie k d).mem = s.mem := rfl
@[simp] theorem setDie_mig (s : State) (k : Nat) (d : Die) : (s.setDie k d).mig = s.mig := rfl
@[simp] theorem setDie_reel (s : State) (k : Nat) (d : Die) : (s.setDie k d).reel = s.reel := rfl
@[simp] theorem setDie_doff (s : State) (k : Nat) (d : Die) : (s.setDie k d).doff = s.doff := rfl
@[simp] theorem setDie_rst (s : State) (k : Nat) (d : Die) : (s.setDie k d).rst = s.rst := rfl
@[simp] theorem setDie_thm (s : State) (k : Nat) (d : Die) : (s.setDie k d).thm = s.thm := rfl
@[simp] theorem setDie_energy (s : State) (k : Nat) (d : Die) : (s.setDie k d).energy = s.energy := rfl
@[simp] theorem setDie_eshadows (s : State) (k : Nat) (d : Die) : (s.setDie k d).eshadows = s.eshadows := rfl
@[simp] theorem setDie_jshadows (s : State) (k : Nat) (d : Die) : (s.setDie k d).jshadows = s.jshadows := rfl
@[simp] theorem setDie_reads (s : State) (k : Nat) (d : Die) : (s.setDie k d).reads = s.reads := rfl
@[simp] theorem setDie_teams (s : State) (k : Nat) (d : Die) : (s.setDie k d).teams = s.teams := rfl
@[simp] theorem setDie_launches (s : State) (k : Nat) (d : Die) : (s.setDie k d).launches = s.launches := rfl
@[simp] theorem setDie_irqs (s : State) (k : Nat) (d : Die) : (s.setDie k d).irqs = s.irqs := rfl
@[simp] theorem setDie_agenda (s : State) (k : Nat) (d : Die) : (s.setDie k d).agenda = s.agenda := rfl
@[simp] theorem setDie_cur (s : State) (k : Nat) (d : Die) : (s.setDie k d).cur = s.cur := rfl
@[simp] theorem setDie_npc (s : State) (k : Nat) (d : Die) : (s.setDie k d).npc = s.npc := rfl
@[simp] theorem setDie_time (s : State) (k : Nat) (d : Die) : (s.setDie k d).time = s.time := rfl
@[simp] theorem setDie_fresh (s : State) (k : Nat) (d : Die) : (s.setDie k d).fresh = s.fresh := rfl

@[simp] theorem setBay_boot (s : State) (k b : Nat) (y : Bay) : (s.setBay k b y).boot = s.boot := rfl
@[simp] theorem setBay_updates (s : State) (k b : Nat) (y : Bay) : (s.setBay k b y).updates = s.updates := rfl
@[simp] theorem setBay_updating (s : State) (k b : Nat) (y : Bay) : (s.setBay k b y).updating = s.updating := rfl
@[simp] theorem setBay_updLog (s : State) (k b : Nat) (y : Bay) : (s.setBay k b y).updLog = s.updLog := rfl
@[simp] theorem setBay_dsp (s : State) (k b : Nat) (y : Bay) : (s.setBay k b y).dsp = s.dsp := rfl
@[simp] theorem setBay_cache0 (s : State) (k b : Nat) (y : Bay) : (s.setBay k b y).cache0 = s.cache0 := rfl
@[simp] theorem setBay_cache1 (s : State) (k b : Nat) (y : Bay) : (s.setBay k b y).cache1 = s.cache1 := rfl
@[simp] theorem setBay_cores (s : State) (k b : Nat) (y : Bay) : (s.setBay k b y).cores = s.cores := rfl
@[simp] theorem setBay_pln (s : State) (k b : Nat) (y : Bay) : (s.setBay k b y).pln = s.pln := rfl
@[simp] theorem setBay_mem (s : State) (k b : Nat) (y : Bay) : (s.setBay k b y).mem = s.mem := rfl
@[simp] theorem setBay_mig (s : State) (k b : Nat) (y : Bay) : (s.setBay k b y).mig = s.mig := rfl
@[simp] theorem setBay_reel (s : State) (k b : Nat) (y : Bay) : (s.setBay k b y).reel = s.reel := rfl
@[simp] theorem setBay_doff (s : State) (k b : Nat) (y : Bay) : (s.setBay k b y).doff = s.doff := rfl
@[simp] theorem setBay_rst (s : State) (k b : Nat) (y : Bay) : (s.setBay k b y).rst = s.rst := rfl
@[simp] theorem setBay_thm (s : State) (k b : Nat) (y : Bay) : (s.setBay k b y).thm = s.thm := rfl
@[simp] theorem setBay_energy (s : State) (k b : Nat) (y : Bay) : (s.setBay k b y).energy = s.energy := rfl
@[simp] theorem setBay_eshadows (s : State) (k b : Nat) (y : Bay) : (s.setBay k b y).eshadows = s.eshadows := rfl
@[simp] theorem setBay_jshadows (s : State) (k b : Nat) (y : Bay) : (s.setBay k b y).jshadows = s.jshadows := rfl
@[simp] theorem setBay_reads (s : State) (k b : Nat) (y : Bay) : (s.setBay k b y).reads = s.reads := rfl
@[simp] theorem setBay_teams (s : State) (k b : Nat) (y : Bay) : (s.setBay k b y).teams = s.teams := rfl
@[simp] theorem setBay_launches (s : State) (k b : Nat) (y : Bay) : (s.setBay k b y).launches = s.launches := rfl
@[simp] theorem setBay_irqs (s : State) (k b : Nat) (y : Bay) : (s.setBay k b y).irqs = s.irqs := rfl
@[simp] theorem setBay_agenda (s : State) (k b : Nat) (y : Bay) : (s.setBay k b y).agenda = s.agenda := rfl
@[simp] theorem setBay_cur (s : State) (k b : Nat) (y : Bay) : (s.setBay k b y).cur = s.cur := rfl
@[simp] theorem setBay_npc (s : State) (k b : Nat) (y : Bay) : (s.setBay k b y).npc = s.npc := rfl
@[simp] theorem setBay_time (s : State) (k b : Nat) (y : Bay) : (s.setBay k b y).time = s.time := rfl
@[simp] theorem setBay_fresh (s : State) (k b : Nat) (y : Bay) : (s.setBay k b y).fresh = s.fresh := rfl

@[simp] theorem setQueue_boot (s : State) (n : Nat) (q : Queue) : (s.setQueue n q).boot = s.boot := rfl
@[simp] theorem setQueue_updates (s : State) (n : Nat) (q : Queue) : (s.setQueue n q).updates = s.updates := rfl
@[simp] theorem setQueue_updating (s : State) (n : Nat) (q : Queue) : (s.setQueue n q).updating = s.updating := rfl
@[simp] theorem setQueue_updLog (s : State) (n : Nat) (q : Queue) : (s.setQueue n q).updLog = s.updLog := rfl
@[simp] theorem setQueue_cache0 (s : State) (n : Nat) (q : Queue) : (s.setQueue n q).cache0 = s.cache0 := rfl
@[simp] theorem setQueue_cache1 (s : State) (n : Nat) (q : Queue) : (s.setQueue n q).cache1 = s.cache1 := rfl
@[simp] theorem setQueue_cores (s : State) (n : Nat) (q : Queue) : (s.setQueue n q).cores = s.cores := rfl
@[simp] theorem setQueue_dies (s : State) (n : Nat) (q : Queue) : (s.setQueue n q).dies = s.dies := rfl
@[simp] theorem setQueue_pln (s : State) (n : Nat) (q : Queue) : (s.setQueue n q).pln = s.pln := rfl
@[simp] theorem setQueue_mem (s : State) (n : Nat) (q : Queue) : (s.setQueue n q).mem = s.mem := rfl
@[simp] theorem setQueue_mig (s : State) (n : Nat) (q : Queue) : (s.setQueue n q).mig = s.mig := rfl
@[simp] theorem setQueue_reel (s : State) (n : Nat) (q : Queue) : (s.setQueue n q).reel = s.reel := rfl
@[simp] theorem setQueue_doff (s : State) (n : Nat) (q : Queue) : (s.setQueue n q).doff = s.doff := rfl
@[simp] theorem setQueue_rst (s : State) (n : Nat) (q : Queue) : (s.setQueue n q).rst = s.rst := rfl
@[simp] theorem setQueue_thm (s : State) (n : Nat) (q : Queue) : (s.setQueue n q).thm = s.thm := rfl
@[simp] theorem setQueue_energy (s : State) (n : Nat) (q : Queue) : (s.setQueue n q).energy = s.energy := rfl
@[simp] theorem setQueue_eshadows (s : State) (n : Nat) (q : Queue) : (s.setQueue n q).eshadows = s.eshadows := rfl
@[simp] theorem setQueue_jshadows (s : State) (n : Nat) (q : Queue) : (s.setQueue n q).jshadows = s.jshadows := rfl
@[simp] theorem setQueue_reads (s : State) (n : Nat) (q : Queue) : (s.setQueue n q).reads = s.reads := rfl
@[simp] theorem setQueue_teams (s : State) (n : Nat) (q : Queue) : (s.setQueue n q).teams = s.teams := rfl
@[simp] theorem setQueue_launches (s : State) (n : Nat) (q : Queue) : (s.setQueue n q).launches = s.launches := rfl
@[simp] theorem setQueue_irqs (s : State) (n : Nat) (q : Queue) : (s.setQueue n q).irqs = s.irqs := rfl
@[simp] theorem setQueue_agenda (s : State) (n : Nat) (q : Queue) : (s.setQueue n q).agenda = s.agenda := rfl
@[simp] theorem setQueue_cur (s : State) (n : Nat) (q : Queue) : (s.setQueue n q).cur = s.cur := rfl
@[simp] theorem setQueue_npc (s : State) (n : Nat) (q : Queue) : (s.setQueue n q).npc = s.npc := rfl
@[simp] theorem setQueue_time (s : State) (n : Nat) (q : Queue) : (s.setQueue n q).time = s.time := rfl
@[simp] theorem setQueue_fresh (s : State) (n : Nat) (q : Queue) : (s.setQueue n q).fresh = s.fresh := rfl

@[simp] theorem setJob_boot (s : State) (n : Nat) (r : JobRegs) : (s.setJob n r).boot = s.boot := rfl
@[simp] theorem setJob_updates (s : State) (n : Nat) (r : JobRegs) : (s.setJob n r).updates = s.updates := rfl
@[simp] theorem setJob_updating (s : State) (n : Nat) (r : JobRegs) : (s.setJob n r).updating = s.updating := rfl
@[simp] theorem setJob_updLog (s : State) (n : Nat) (r : JobRegs) : (s.setJob n r).updLog = s.updLog := rfl
@[simp] theorem setJob_cache0 (s : State) (n : Nat) (r : JobRegs) : (s.setJob n r).cache0 = s.cache0 := rfl
@[simp] theorem setJob_cache1 (s : State) (n : Nat) (r : JobRegs) : (s.setJob n r).cache1 = s.cache1 := rfl
@[simp] theorem setJob_cores (s : State) (n : Nat) (r : JobRegs) : (s.setJob n r).cores = s.cores := rfl
@[simp] theorem setJob_dies (s : State) (n : Nat) (r : JobRegs) : (s.setJob n r).dies = s.dies := rfl
@[simp] theorem setJob_pln (s : State) (n : Nat) (r : JobRegs) : (s.setJob n r).pln = s.pln := rfl
@[simp] theorem setJob_mem (s : State) (n : Nat) (r : JobRegs) : (s.setJob n r).mem = s.mem := rfl
@[simp] theorem setJob_mig (s : State) (n : Nat) (r : JobRegs) : (s.setJob n r).mig = s.mig := rfl
@[simp] theorem setJob_reel (s : State) (n : Nat) (r : JobRegs) : (s.setJob n r).reel = s.reel := rfl
@[simp] theorem setJob_doff (s : State) (n : Nat) (r : JobRegs) : (s.setJob n r).doff = s.doff := rfl
@[simp] theorem setJob_rst (s : State) (n : Nat) (r : JobRegs) : (s.setJob n r).rst = s.rst := rfl
@[simp] theorem setJob_thm (s : State) (n : Nat) (r : JobRegs) : (s.setJob n r).thm = s.thm := rfl
@[simp] theorem setJob_energy (s : State) (n : Nat) (r : JobRegs) : (s.setJob n r).energy = s.energy := rfl
@[simp] theorem setJob_eshadows (s : State) (n : Nat) (r : JobRegs) : (s.setJob n r).eshadows = s.eshadows := rfl
@[simp] theorem setJob_jshadows (s : State) (n : Nat) (r : JobRegs) : (s.setJob n r).jshadows = s.jshadows := rfl
@[simp] theorem setJob_reads (s : State) (n : Nat) (r : JobRegs) : (s.setJob n r).reads = s.reads := rfl
@[simp] theorem setJob_teams (s : State) (n : Nat) (r : JobRegs) : (s.setJob n r).teams = s.teams := rfl
@[simp] theorem setJob_launches (s : State) (n : Nat) (r : JobRegs) : (s.setJob n r).launches = s.launches := rfl
@[simp] theorem setJob_irqs (s : State) (n : Nat) (r : JobRegs) : (s.setJob n r).irqs = s.irqs := rfl
@[simp] theorem setJob_agenda (s : State) (n : Nat) (r : JobRegs) : (s.setJob n r).agenda = s.agenda := rfl
@[simp] theorem setJob_cur (s : State) (n : Nat) (r : JobRegs) : (s.setJob n r).cur = s.cur := rfl
@[simp] theorem setJob_npc (s : State) (n : Nat) (r : JobRegs) : (s.setJob n r).npc = s.npc := rfl
@[simp] theorem setJob_time (s : State) (n : Nat) (r : JobRegs) : (s.setJob n r).time = s.time := rfl
@[simp] theorem setJob_fresh (s : State) (n : Nat) (r : JobRegs) : (s.setJob n r).fresh = s.fresh := rfl

@[simp] theorem irq_boot (s : State) (q : Irq) : (s.irq q).boot = s.boot := rfl
@[simp] theorem irq_updates (s : State) (q : Irq) : (s.irq q).updates = s.updates := rfl
@[simp] theorem irq_updating (s : State) (q : Irq) : (s.irq q).updating = s.updating := rfl
@[simp] theorem irq_dsp (s : State) (q : Irq) : (s.irq q).dsp = s.dsp := rfl
@[simp] theorem irq_cache0 (s : State) (q : Irq) : (s.irq q).cache0 = s.cache0 := rfl
@[simp] theorem irq_cache1 (s : State) (q : Irq) : (s.irq q).cache1 = s.cache1 := rfl
@[simp] theorem irq_cores (s : State) (q : Irq) : (s.irq q).cores = s.cores := rfl
@[simp] theorem irq_dies (s : State) (q : Irq) : (s.irq q).dies = s.dies := rfl
@[simp] theorem irq_pln (s : State) (q : Irq) : (s.irq q).pln = s.pln := rfl
@[simp] theorem irq_mem (s : State) (q : Irq) : (s.irq q).mem = s.mem := rfl
@[simp] theorem irq_mig (s : State) (q : Irq) : (s.irq q).mig = s.mig := rfl
@[simp] theorem irq_reel (s : State) (q : Irq) : (s.irq q).reel = s.reel := rfl
@[simp] theorem irq_doff (s : State) (q : Irq) : (s.irq q).doff = s.doff := rfl
@[simp] theorem irq_rst (s : State) (q : Irq) : (s.irq q).rst = s.rst := rfl
@[simp] theorem irq_thm (s : State) (q : Irq) : (s.irq q).thm = s.thm := rfl
@[simp] theorem irq_energy (s : State) (q : Irq) : (s.irq q).energy = s.energy := rfl
@[simp] theorem irq_eshadows (s : State) (q : Irq) : (s.irq q).eshadows = s.eshadows := rfl
@[simp] theorem irq_jshadows (s : State) (q : Irq) : (s.irq q).jshadows = s.jshadows := rfl
@[simp] theorem irq_reads (s : State) (q : Irq) : (s.irq q).reads = s.reads := rfl
@[simp] theorem irq_teams (s : State) (q : Irq) : (s.irq q).teams = s.teams := rfl
@[simp] theorem irq_launches (s : State) (q : Irq) : (s.irq q).launches = s.launches := rfl
@[simp] theorem irq_agenda (s : State) (q : Irq) : (s.irq q).agenda = s.agenda := rfl
@[simp] theorem irq_cur (s : State) (q : Irq) : (s.irq q).cur = s.cur := rfl
@[simp] theorem irq_npc (s : State) (q : Irq) : (s.irq q).npc = s.npc := rfl
@[simp] theorem irq_time (s : State) (q : Irq) : (s.irq q).time = s.time := rfl
@[simp] theorem irq_fresh (s : State) (q : Irq) : (s.irq q).fresh = s.fresh := rfl

@[simp] theorem setGroup_boot (s : State) (gid : GId) (g : Group) : (s.setGroup gid g).boot = s.boot := rfl
@[simp] theorem setGroup_updates (s : State) (gid : GId) (g : Group) : (s.setGroup gid g).updates = s.updates := rfl
@[simp] theorem setGroup_updating (s : State) (gid : GId) (g : Group) : (s.setGroup gid g).updating = s.updating := rfl
@[simp] theorem setGroup_updLog (s : State) (gid : GId) (g : Group) : (s.setGroup gid g).updLog = s.updLog := rfl
@[simp] theorem setGroup_dsp (s : State) (gid : GId) (g : Group) : (s.setGroup gid g).dsp = s.dsp := rfl
@[simp] theorem setGroup_cache0 (s : State) (gid : GId) (g : Group) : (s.setGroup gid g).cache0 = s.cache0 := rfl
@[simp] theorem setGroup_cache1 (s : State) (gid : GId) (g : Group) : (s.setGroup gid g).cache1 = s.cache1 := rfl
@[simp] theorem setGroup_cores (s : State) (gid : GId) (g : Group) : (s.setGroup gid g).cores = s.cores := rfl
@[simp] theorem setGroup_dies (s : State) (gid : GId) (g : Group) : (s.setGroup gid g).dies = s.dies := rfl
@[simp] theorem setGroup_pln (s : State) (gid : GId) (g : Group) : (s.setGroup gid g).pln = s.pln := rfl
@[simp] theorem setGroup_mem (s : State) (gid : GId) (g : Group) : (s.setGroup gid g).mem = s.mem := rfl
@[simp] theorem setGroup_mig (s : State) (gid : GId) (g : Group) : (s.setGroup gid g).mig = s.mig := rfl
@[simp] theorem setGroup_reel (s : State) (gid : GId) (g : Group) : (s.setGroup gid g).reel = s.reel := rfl
@[simp] theorem setGroup_doff (s : State) (gid : GId) (g : Group) : (s.setGroup gid g).doff = s.doff := rfl
@[simp] theorem setGroup_rst (s : State) (gid : GId) (g : Group) : (s.setGroup gid g).rst = s.rst := rfl
@[simp] theorem setGroup_thm (s : State) (gid : GId) (g : Group) : (s.setGroup gid g).thm = s.thm := rfl
@[simp] theorem setGroup_energy (s : State) (gid : GId) (g : Group) : (s.setGroup gid g).energy = s.energy := rfl
@[simp] theorem setGroup_eshadows (s : State) (gid : GId) (g : Group) : (s.setGroup gid g).eshadows = s.eshadows := rfl
@[simp] theorem setGroup_jshadows (s : State) (gid : GId) (g : Group) : (s.setGroup gid g).jshadows = s.jshadows := rfl
@[simp] theorem setGroup_reads (s : State) (gid : GId) (g : Group) : (s.setGroup gid g).reads = s.reads := rfl
@[simp] theorem setGroup_launches (s : State) (gid : GId) (g : Group) : (s.setGroup gid g).launches = s.launches := rfl
@[simp] theorem setGroup_irqs (s : State) (gid : GId) (g : Group) : (s.setGroup gid g).irqs = s.irqs := rfl
@[simp] theorem setGroup_agenda (s : State) (gid : GId) (g : Group) : (s.setGroup gid g).agenda = s.agenda := rfl
@[simp] theorem setGroup_cur (s : State) (gid : GId) (g : Group) : (s.setGroup gid g).cur = s.cur := rfl
@[simp] theorem setGroup_npc (s : State) (gid : GId) (g : Group) : (s.setGroup gid g).npc = s.npc := rfl
@[simp] theorem setGroup_time (s : State) (gid : GId) (g : Group) : (s.setGroup gid g).time = s.time := rfl
@[simp] theorem setGroup_fresh (s : State) (gid : GId) (g : Group) : (s.setGroup gid g).fresh = s.fresh := rfl

@[simp] theorem launch_setTeam (s : State) (tid : Nat) (t : Team) (i : Nat) : (s.setTeam tid t).launch i = s.launch i := rfl
@[simp] theorem core_setTeam (s : State) (tid : Nat) (t : Team) (i j : Nat) : (s.setTeam tid t).core i j = s.core i j := rfl
@[simp] theorem die_setTeam (s : State) (tid : Nat) (t : Team) (i : Nat) : (s.setTeam tid t).die i = s.die i := rfl
@[simp] theorem queue_setTeam (s : State) (tid : Nat) (t : Team) (i : Nat) : (s.setTeam tid t).queue i = s.queue i := rfl
@[simp] theorem job_setTeam (s : State) (tid : Nat) (t : Team) (i : Nat) : (s.setTeam tid t).job i = s.job i := rfl

@[simp] theorem team_setLaunch (s : State) (lid : Nat) (l : Launch) (i : Nat) : (s.setLaunch lid l).team i = s.team i := rfl
@[simp] theorem core_setLaunch (s : State) (lid : Nat) (l : Launch) (i j : Nat) : (s.setLaunch lid l).core i j = s.core i j := rfl
@[simp] theorem die_setLaunch (s : State) (lid : Nat) (l : Launch) (i : Nat) : (s.setLaunch lid l).die i = s.die i := rfl
@[simp] theorem queue_setLaunch (s : State) (lid : Nat) (l : Launch) (i : Nat) : (s.setLaunch lid l).queue i = s.queue i := rfl
@[simp] theorem job_setLaunch (s : State) (lid : Nat) (l : Launch) (i : Nat) : (s.setLaunch lid l).job i = s.job i := rfl
@[simp] theorem group_setLaunch (s : State) (lid : Nat) (l : Launch) (i : GId) : (s.setLaunch lid l).group i = s.group i := rfl

@[simp] theorem team_setCore (s : State) (k c : Nat) (x : Core) (i : Nat) : (s.setCore k c x).team i = s.team i := rfl
@[simp] theorem launch_setCore (s : State) (k c : Nat) (x : Core) (i : Nat) : (s.setCore k c x).launch i = s.launch i := rfl
@[simp] theorem die_setCore (s : State) (k c : Nat) (x : Core) (i : Nat) : (s.setCore k c x).die i = s.die i := rfl
@[simp] theorem queue_setCore (s : State) (k c : Nat) (x : Core) (i : Nat) : (s.setCore k c x).queue i = s.queue i := rfl
@[simp] theorem job_setCore (s : State) (k c : Nat) (x : Core) (i : Nat) : (s.setCore k c x).job i = s.job i := rfl
@[simp] theorem group_setCore (s : State) (k c : Nat) (x : Core) (i : GId) : (s.setCore k c x).group i = s.group i := rfl

@[simp] theorem team_setDie (s : State) (k : Nat) (d : Die) (i : Nat) : (s.setDie k d).team i = s.team i := rfl
@[simp] theorem launch_setDie (s : State) (k : Nat) (d : Die) (i : Nat) : (s.setDie k d).launch i = s.launch i := rfl
@[simp] theorem core_setDie (s : State) (k : Nat) (d : Die) (i j : Nat) : (s.setDie k d).core i j = s.core i j := rfl
@[simp] theorem queue_setDie (s : State) (k : Nat) (d : Die) (i : Nat) : (s.setDie k d).queue i = s.queue i := rfl
@[simp] theorem job_setDie (s : State) (k : Nat) (d : Die) (i : Nat) : (s.setDie k d).job i = s.job i := rfl
@[simp] theorem group_setDie (s : State) (k : Nat) (d : Die) (i : GId) : (s.setDie k d).group i = s.group i := rfl

@[simp] theorem team_setBay (s : State) (k b : Nat) (y : Bay) (i : Nat) : (s.setBay k b y).team i = s.team i := rfl
@[simp] theorem launch_setBay (s : State) (k b : Nat) (y : Bay) (i : Nat) : (s.setBay k b y).launch i = s.launch i := rfl
@[simp] theorem core_setBay (s : State) (k b : Nat) (y : Bay) (i j : Nat) : (s.setBay k b y).core i j = s.core i j := rfl
@[simp] theorem queue_setBay (s : State) (k b : Nat) (y : Bay) (i : Nat) : (s.setBay k b y).queue i = s.queue i := rfl
@[simp] theorem job_setBay (s : State) (k b : Nat) (y : Bay) (i : Nat) : (s.setBay k b y).job i = s.job i := rfl
@[simp] theorem group_setBay (s : State) (k b : Nat) (y : Bay) (i : GId) : (s.setBay k b y).group i = s.group i := rfl

@[simp] theorem team_setQueue (s : State) (n : Nat) (q : Queue) (i : Nat) : (s.setQueue n q).team i = s.team i := rfl
@[simp] theorem launch_setQueue (s : State) (n : Nat) (q : Queue) (i : Nat) : (s.setQueue n q).launch i = s.launch i := rfl
@[simp] theorem core_setQueue (s : State) (n : Nat) (q : Queue) (i j : Nat) : (s.setQueue n q).core i j = s.core i j := rfl
@[simp] theorem die_setQueue (s : State) (n : Nat) (q : Queue) (i : Nat) : (s.setQueue n q).die i = s.die i := rfl
@[simp] theorem group_setQueue (s : State) (n : Nat) (q : Queue) (i : GId) : (s.setQueue n q).group i = s.group i := rfl

@[simp] theorem team_setJob (s : State) (n : Nat) (r : JobRegs) (i : Nat) : (s.setJob n r).team i = s.team i := rfl
@[simp] theorem launch_setJob (s : State) (n : Nat) (r : JobRegs) (i : Nat) : (s.setJob n r).launch i = s.launch i := rfl
@[simp] theorem core_setJob (s : State) (n : Nat) (r : JobRegs) (i j : Nat) : (s.setJob n r).core i j = s.core i j := rfl
@[simp] theorem die_setJob (s : State) (n : Nat) (r : JobRegs) (i : Nat) : (s.setJob n r).die i = s.die i := rfl
@[simp] theorem group_setJob (s : State) (n : Nat) (r : JobRegs) (i : GId) : (s.setJob n r).group i = s.group i := rfl

@[simp] theorem team_irq (s : State) (q : Irq) (i : Nat) : (s.irq q).team i = s.team i := rfl
@[simp] theorem launch_irq (s : State) (q : Irq) (i : Nat) : (s.irq q).launch i = s.launch i := rfl
@[simp] theorem core_irq (s : State) (q : Irq) (i j : Nat) : (s.irq q).core i j = s.core i j := rfl
@[simp] theorem die_irq (s : State) (q : Irq) (i : Nat) : (s.irq q).die i = s.die i := rfl
@[simp] theorem queue_irq (s : State) (q : Irq) (i : Nat) : (s.irq q).queue i = s.queue i := rfl
@[simp] theorem job_irq (s : State) (q : Irq) (i : Nat) : (s.irq q).job i = s.job i := rfl
@[simp] theorem group_irq (s : State) (q : Irq) (i : GId) : (s.irq q).group i = s.group i := rfl

@[simp] theorem launch_setGroup (s : State) (gid : GId) (g : Group) (i : Nat) : (s.setGroup gid g).launch i = s.launch i := rfl
@[simp] theorem core_setGroup (s : State) (gid : GId) (g : Group) (i j : Nat) : (s.setGroup gid g).core i j = s.core i j := rfl
@[simp] theorem die_setGroup (s : State) (gid : GId) (g : Group) (i : Nat) : (s.setGroup gid g).die i = s.die i := rfl
@[simp] theorem queue_setGroup (s : State) (gid : GId) (g : Group) (i : Nat) : (s.setGroup gid g).queue i = s.queue i := rfl
@[simp] theorem job_setGroup (s : State) (gid : GId) (g : Group) (i : Nat) : (s.setGroup gid g).job i = s.job i := rfl


theorem team_setTeam (s : State) (tid : Nat) (t : Team) (i : Nat) : (s.setTeam tid t).team i = if i = tid then t else s.team i := by
  simp [State.team, State.setTeam, SMap.get_put]
@[simp] theorem team_setTeam_self (s : State) (tid : Nat) (t : Team) : (s.setTeam tid t).team tid = t := by simp [team_setTeam]
theorem launch_setLaunch (s : State) (lid : Nat) (l : Launch) (i : Nat) : (s.setLaunch lid l).launch i = if i = lid then l else s.launch i := by
  simp [State.launch, State.setLaunch, SMap.get_put]
@[simp] theorem launch_setLaunch_self (s : State) (lid : Nat) (l : Launch) : (s.setLaunch lid l).launch lid = l := by simp [launch_setLaunch]
theorem core_setCore (s : State) (k c : Nat) (x : Core) (i j : Nat) :
    (s.setCore k c x).core i j = if coreKey i j = coreKey k c then x else s.core i j := by
  simp [State.core, State.setCore, SMap.get_put]
@[simp] theorem core_setCore_self (s : State) (k c : Nat) (x : Core) : (s.setCore k c x).core k c = x := by simp [core_setCore]
theorem die_setDie (s : State) (k : Nat) (d : Die) (i : Nat) : (s.setDie k d).die i = if i = k then d else s.die i := by
  simp [State.die, State.setDie, SMap.get_put]
@[simp] theorem die_setDie_self (s : State) (k : Nat) (d : Die) : (s.setDie k d).die k = d := by simp [die_setDie]
@[simp] theorem bay_setBay_self (s : State) (k b : Nat) (y : Bay) : (s.setBay k b y).bay k b = y := by
  simp [State.bay, State.setBay, SMap.get_put]
theorem queue_setQueue (s : State) (n : Nat) (q : Queue) (i : Nat) : (s.setQueue n q).queue i = if i = n then q else s.queue i := by
  simp [State.queue, State.setQueue, SMap.get_put]
@[simp] theorem queue_setQueue_self (s : State) (n : Nat) (q : Queue) : (s.setQueue n q).queue n = q := by simp [queue_setQueue]
theorem job_setJob (s : State) (j : Nat) (r : JobRegs) (i : Nat) : (s.setJob j r).job i = if i = j then r else s.job i := by
  simp [State.job, State.setJob, SMap.get_put]
@[simp] theorem job_setJob_self (s : State) (j : Nat) (r : JobRegs) : (s.setJob j r).job j = r := by simp [job_setJob]
@[simp] theorem bank_setBank (c : Core) (b : Nat) (k : Bank) : (c.setBank b k).bank b = k := by
  unfold Core.setBank Core.bank; split <;> rfl

/-- A group that the state holds reads, after it is set, as what it was set to. -/
@[simp] theorem group_setGroup_self {s : State} {gid : GId} {g0 : Group} (h : s.group gid = some g0) (g : Group) :
    (s.setGroup gid g).group gid = some g := by
  simp only [State.group, State.setGroup, setAt, team_setTeam_self] at *
  rw [List.getElem?_set_self (List.getElem?_eq_some_iff.mp h).1]
/-- Setting a group leaves every other one. -/
theorem group_setGroup_ne (s : State) {gid gid' : GId} (h : gid' ≠ gid) (g : Group) : (s.setGroup gid g).group gid' = s.group gid' := by
  simp only [State.group, State.setGroup, setAt, team_setTeam]
  split
  · next h1 =>
    rw [List.getElem?_set_ne, h1]
    intro h2
    exact h (by cases gid; cases gid'; simp_all)
  · rfl
@[simp] theorem team_setGroup_ne (s : State) (gid : GId) (g : Group) {tid : Nat} (h : tid ≠ gid.tid) : (s.setGroup gid g).team tid = s.team tid := by
  simp [State.setGroup, team_setTeam, h]
theorem team_setGroup (s : State) (gid : GId) (g : Group) : (s.setGroup gid g).team gid.tid = { s.team gid.tid with groups := (s.team gid.tid).groups.set gid.g g } := by
  simp [State.setGroup, setAt]

end Sys2Proof.Machine
end

