-- ==== Sys2Proof/Laws/Memory.lean ====
section
/-! SUPPORT. The physical memory keeps its canonical form under every operation that changes it (a byte, bytes at an address, physical bytes, a page copied, bytes dropped), and what the shared ends of a meaning leave of it. -/

namespace Sys2Proof.Machine

theorem ok_reset : State.reset.ok = true := rfl
theorem ok_of_mem {s t : State} (h : t.mem = s.mem) (w : s.ok = true) : t.ok = true := by
  simpa only [State.ok, h] using w
theorem ok_filter {s t : State} (p : Nat × Byte → Bool) (h : t.mem = s.mem.filter p) (w : s.ok = true) : t.ok = true := by
  show SMap.wfFrom 0 0 t.mem = true
  rw [h]; exact SMap.wfFrom_filter 0 s.mem 0 p w

-- writes -----------------------------------------------------------------------

theorem ok_putPhys (s : State) (fa : Nat) (b : Byte) (w : s.ok = true) : (s.putPhys fa b).ok = true := SMap.wf_put 0 s.mem fa b w
theorem ok_setTeam (s : State) (tid : Nat) (t : Team) : (s.setTeam tid t).ok = s.ok := rfl
theorem ok_setGroup (s : State) (gid : GId) (g : Group) : (s.setGroup gid g).ok = s.ok := rfl
theorem ok_putByte (s : State) (x : Who) (a : W64) (b : Byte) (w : s.ok = true) : (s.putByte x a b).ok = true := by
  unfold State.putByte
  cases winOf a <;> simp only
  · split
    · exact ok_putPhys _ _ _ w
    · exact w
  · exact w
  · exact w
  · split
    · exact ok_putPhys _ _ _ w
    · exact w
  · exact w
theorem ok_putBytes (s : State) (x : Who) (a : W64) (bs : List Byte) (w : s.ok = true) : (s.putBytes x a bs).ok = true := by
  induction bs generalizing s a with
  | nil => exact w
  | cons b bs ih => exact ih _ _ (ok_putByte s x a b w)
theorem ok_putPhysBytes (s : State) (pa : Nat) (bs : List Byte) (w : s.ok = true) : (s.putPhysBytes pa bs).ok = true := by
  induction bs generalizing s pa with
  | nil => exact w
  | cons b bs ih => exact ih _ _ (ok_putPhys s pa b w)
theorem wf_foldl_put (l m : SMap Byte) (w : SMap.wf 0 m = true) : SMap.wf 0 (l.foldl (fun m p => SMap.put 0 m p.1 p.2) m) = true := by
  induction l generalizing m with
  | nil => exact w
  | cons p l ih => exact ih _ (SMap.wf_put 0 m p.1 p.2 w)
theorem ok_copyPage (s : State) (e pa n swz : Nat) (w : s.ok = true) : (s.copyPage e pa n swz).ok = true :=
  wf_foldl_put _ _ (SMap.wf_clear 0 s.mem pa n w)
theorem ok_storeLanes (s : State) (gid : GId) (g : Group) (ty : Ty) (v : Nat → Lane) (as : List (Nat × W64)) (w : s.ok = true) :
    (s.storeLanes gid g ty v as).ok = true := by
  induction as generalizing s with
  | nil => exact w
  | cons p as ih => exact ih _ (ok_putBytes s _ _ _ w)

-- the ends of a meaning ----------------------------------------------------------

@[simp] theorem endCourse_mem (s : State) (gid : GId) : (s.endCourse gid).mem = s.mem := rfl
@[simp] theorem advance_mem (s : State) (gid : GId) (g : Group) (ce : Bool) : (s.advance gid g ce).mem = s.mem := by
  unfold State.advance; split
  · rfl
  · dsimp only; split <;> rfl
@[simp] theorem issueDone_mem (s : State) (gid : GId) : (s.issueDone gid).mem = s.mem := by
  unfold State.issueDone; dsimp only; split <;> rfl
@[simp] theorem park_mem (s : State) (gid : GId) (g : Group) : (s.park gid g).mem = s.mem := issueDone_mem ..
@[simp] theorem raise_mem (s : State) (gid : GId) (g : Group) (code : Nat) (lane : W32) (d0 : W64) (d1 : W32) : (s.raise gid g code lane d0 d1).mem = s.mem := rfl
@[simp] theorem fail_mem (s : State) (gid : GId) (g : Group) (code : Nat) : (s.fail gid g code).mem = s.mem := rfl
@[simp] theorem finish_mem (s : State) (gid : GId) (g : Group) (h : Hd) (m : Mask) (outs : List (Ty × List Lane)) (e : Ev) : (s.finish gid g h m outs e).mem = s.mem := by
  simp [State.finish]
@[simp] theorem deliver_mem (s : State) (gid : GId) (g : Group) (h : Hd) (x : Lane) : (s.deliver gid g h x).mem = s.mem := finish_mem ..
@[simp] theorem laneOp_mem (s : State) (gid : GId) (g : Group) (h : Hd) (ins : List (Ty × Opnd)) (tys : List Ty) (f : List Lane → LaneOut) :
    (s.laneOp gid g h ins tys f).mem = s.mem := by
  unfold State.laneOp; dsimp only; split
  · rfl
  · exact finish_mem ..
@[simp] theorem groupOp_mem (s : State) (gid : GId) (g : Group) (h : Hd) (ins : List (Ty × Opnd)) (f : List Rd → List (Ty × List Lane) × Ev) :
    (s.groupOp gid g h ins f).mem = s.mem := by
  unfold State.groupOp; dsimp only; split
  · rfl
  · exact finish_mem ..
/-- An instruction read once for the group keeps what its continuation keeps. -/
theorem ok_elect (s : State) (gid : GId) (g : Group) (ins : List (Ty × Opnd)) (k : List Lane → State) (w : s.ok = true) (h : ∀ xs, (k xs).ok = true) :
    (s.elect gid g ins k).ok = true := by
  unfold State.elect; dsimp only; split
  · exact w
  · exact h _
/-- A meaning of the issuing group keeps the form where its next state does. -/
theorem ok_withCur {s t : State} {f : GId → Group → State} (hf : ∀ gid g, (f gid g).ok = true) (h : withCur s f = .next t) : t.ok = true := by
  unfold withCur at h
  split at h
  · cases h
  · split at h
    · cases h
    · cases h; exact hf _ _

end Sys2Proof.Machine
end

