-- ==== Sys2Proof/Tests/Slice0.lean ====
section
/-! SUPPORT. Tests: ill-formed terms that WellFormed refuses, words written from the spec's encodings, results the spec works out, and for every statement states and operands that meet its hypotheses. -/

namespace Sys2Proof.Tests
open Sys2Proof Sys2Proof.Machine

set_option Elab.async false

-- well-formedness: an ill-formed term for each check ---------------------------------

/-- A head of a type. -/
def hd (ty : Ty) : Hd := { dst := .flinal, dst2 := .flinal, ty := ty, u := false, ce := false }
/-- The same with U. -/
def hdU (ty : Ty) : Hd := { hd ty with u := true }
/-- The same with CE. -/
def hdE (ty : Ty) : Hd := { hd ty with ce := true }
/-- A reference. -/
def r (n : BitVec 16) : Opnd := .ref n
/-- A literal. -/
def k (n : W32) : Opnd := .lit n
def allBad (l : List Instr) : Bool := l.all fun i => !instrWf i

/-- Events whose place does not exist (R2-R6), and transfers whose length is not their data's. -/
theorem test_bad_places : allBad [
    .translationDone 4 0, .translationDone 0 6, .translationDone 2 4, .xlmapMap 4, .xlmapUnmap 5, .courseIssue 2 32 0, .courseIssue 0 0 4, .bundleIssue ⟨0, 16⟩,
    .resultWriteback ⟨0, 16⟩, .courseEnd ⟨0, 16⟩, .faultDrainDone ⟨0, 16⟩, .handlerEntry ⟨0, 16⟩, .timedWaitExpiry ⟨0, 16⟩, .numWindowClose 0 0 2, .lockstepMeeting 0 4,
    .ctxAnswer 0 48 0, .preemptRequest 4 0 0, .preemptYield 3 32, .preemptLimit 1 48, .alogClear 0 0 0 3 0, .alogClear 0 0 2 0 0, .sagTrip 0 6, .sagClear 2 4,
    .sagRecoveryStep 4 0, .slopeWindow 4 0, .slopeYield 4, .thermalThrottle 4 0, .thermalTrip 4, .bankModeWrite 0 48 0 0, .bankModeSwitchDone 2 32 0, .qbindWrite 4 0 0,
    .l2SplitWrite 4 0 0, .l2SplitDone 4 0, .stagewinWrite 4 0 0, .stagewinZeroed 4 0, .hostMemoryAccess 0 2 (some [0]), .linkNarrow 4, .linkWiden 4, .dieAbsentReply 0 48 0,
    .mxCommandDone 0 0 2, .reelPassage 0 0 48, .reelNokey 4 0 0, .energyLoRead .host 6, .energyHiRead .host 6, .jobcntLoRead .host 6, .jobcntHiRead .host 7,
    .energyAccumulatorUpdate 6 0, .inboundPeerTransfer 0 0 1 (some [])] = true := by decide +kernel
/-- Registers of a place that does not exist. -/
theorem test_bad_registers : ([.spnEvt 0 6 0, .spnXlkey 4 0, .numWindow 0 48 0, .numLimit 0 0 2 0, .numCount 4 0 0 0, .numStatus 2 32 0, .ctxTrapbase 0 48, .ctxTraperr 4 0,
    .hodInflight 1 48, .mxeCadence 2 32, .pwrSlope 4, .pwrStatus 4, .pwrFll 0 6, .pwrSag 2 4, .pwrEnergyWrap 6].all fun x => !instrWf (.registerWrite x 0)) = true := by
  decide +kernel
/-- Control: counts beyond 24, a void parameter, operands that do not match the count, a literal where only a reference stands, CE clear on a row flagged E. -/
theorem test_bad_control : allBad [
    .blk (List.replicate 25 .i32), .blk [.void], .br 0 25 (List.replicate 5 (r 0)), .br 0 2 [r 0], .br 0 1 [k 0], .cbr (k 0) 0 0 0 0 [], .cbr (r 0) 0 0 13 12 (List.replicate 3 (r 0)),
    .cbr (r 0) 0 0 1 0 [], .cbr (r 0) 0 0 1 0 [k 0], .switch (k 0) 0 0 1, .switch (r 0) 0 0 0, .retValues (k 0) none, .retValues (r 0) (some (k 0)),
    .call (hdE .hnd) false 0 0 [], .call (hd .i32) false 0 0 [], .call (hdE .i32) false 0 25 (List.replicate 4 (r 0)), .call (hdE .i32) false 0 2 [r 0],
    .call (hdE .i32) false 0 1 [k 0], .call { hdE .i32 with u := true } false 0 0 [], .args [], .args (List.replicate 7 (r 0)), .args [k 0]] = true := by decide +kernel
/-- Integer and address rows: a type outside the row's set, a literal too wide or where the row has none, a saturating pointer sum. -/
theorem test_bad_integer : allBad [
    .add (hd .f32) .wrap (r 0) (r 0), .add (hd .i8) .wrap (r 0) (k 256), .add (hd .ptr) .satS (r 0) (r 0), .sub (hd .i1) .wrap (r 0) (r 0), .sub (hd .i32) .wrap (k 0) (r 0),
    .mul (hd .ptr) .low (r 0) (r 0), .mad (hd .i32) (r 0) (r 0) (k 0), .div (hd .f16) false (r 0) (r 0), .divrem (hd .ptr) false (r 0) (r 0), .rem (hd .f32) true (r 0) (r 0),
    .neg (hd .f32) false (r 0), .abs (hd .i32) false (k 0), .min (hd .f32) true (r 0) (r 0), .max (hd .i16) true (r 0) (k 65536), .addc (hd .i64) (r 0) (r 0) (k 0),
    .subb (hd .f64) (r 0) (r 0) (r 0), .and (hd .f32) (r 0) (r 0), .or (hd .i1) (r 0) (k 2), .xor (hd .ptr) (r 0) (r 0), .andn (hd .f16) (r 0) (r 0), .not (hd .f32) (r 0),
    .shl (hd .i1) (r 0) (r 0), .shr (hd .f32) true (r 0) (r 0), .rot (hd .i8) false (r 0) (k 256), .popc (hd .f32) (r 0), .clz (hd .i32) (k 0), .ctz (hd .ptr) (r 0),
    .brev (hd .f64) (r 0), .bfx (hd .i32) false (r 0) (r 0) (k 0), .bfi (hd .f32) (r 0) (r 0) (r 0) (r 0), .cmp (hd .f32) .eq (r 0) (r 0), .sel (hd .i32) (k 0) (r 0) (r 0),
    .const (hd .i1) 2, .const (hd .hnd) 0, .const (hd .i32) 0x100000000, .ext (hd .f32) true (r 0), .trunc (hd .i32) (k 0), .ptoi (hd .i32) (r 0), .itop (hd .i64) (r 0),
    .ptrIdx (hd .i64) true 0 (r 0) (r 0)] = true := by decide +kernel
/-- Floating, conversion, lane and exchange rows. -/
theorem test_bad_float : allBad [
    .addFloat (hd .i32) .rne (r 0) (r 0), .subFloat (hd .f16) .rne (r 0) (k 65536), .mulFloat (hd .ptr) .rne (r 0) (r 0), .fma (hd .f32) .rne (r 0) (r 0) (k 0),
    .divFloat (hd .i64) .rne (r 0) (r 0), .sqrt (hd .f32) .rne (k 0), .rcp (hd .f64) (r 0), .rsqrt (hd .i32) (r 0), .minFloat (hd .i32) (r 0) (r 0), .maxFloat (hd .bf16) (r 0) (k 65536),
    .negFloat (hd .i32) (r 0), .absFloat (hd .f32) (k 0), .copysign (hd .f32) (r 0) (k 0), .cmpFloat (hd .i32) .lt (r 0) (r 0), .class (hd .i1) 0 (r 0), .rint (hd .i32) .rne (r 0),
    .exp2 (hd .f64) (r 0), .log2 (hd .f64) (r 0), .sin (hd .f64) (r 0), .cos (hd .f64) (r 0), .tanh (hd .f64) (r 0), .sigm (hd .f64) (r 0), .amax (hd .i32) (r 0) (r 0) (r 0) (r 0),
    .amin (hd .f32) (k 0) (r 0) (r 0) (r 0), .cvt (hd .q4) .rne false false (r 0), .cvtSlot (hd .q4) 0 false (r 0), .q4Pack (hd .i32) 0 (r 0) none, .q4Pack (hdU .q4) 0 (r 0) none,
    .q4Pack (hd .q4) 0 (r 0) (some (k 0)), .q4Unpack (hd .f64) 0 (r 0) (r 0) none, .q4Unpack (hd .f32) 0 (r 0) (k 0) none, .q4Make (hd .i32) (r 0) (r 0), .q4Elem (hd .q4) (r 0),
    .q4Scale (hd .i32) (r 0), .bitcast (hd .q4) (r 0), .shfl (hdU .i32) .idx (r 0) (r 0), .shfl (hd .void) .idx (r 0) (r 0), .vote (hd .i1) .ballot (r 0), .vote (hd .i32) .any (r 0),
    .scan (hd .ptr) false .add (r 0), .xred (hd .f32) .xor (r 0), .xamax (hd .i32) false (r 0) (r 0), .first (hd .void) (r 0), .active (hd .i64), .emit (hdE .i32) 0 (r 0) none,
    .emit (hdE .i32) 4 (r 0) none, .emit (hdE .i32) 1 (r 0) (some (r 0)), .emit (hd .i32) 1 (r 0) none] = true := by decide +kernel
/-- Memory, atomic, synchronisation, Hod, Reel, matrix and system rows. -/
theorem test_bad_memory : allBad [
    .ld (hd .void) 0 false .lane (r 0), .ld (hd .i32) 0 false .group (r 0), .st (hd .i32) 0 false .group (r 0) (r 0), .st (hd .i32) 0 false .lane (k 0) (r 0), .ldk (hd .hnd) 0 false .lane (r 0) 0,
    .stk (hd .i32) 0 false .lane (r 0) (k 0) 0, .gather (hdU .i32) 0 0 false .x1 (r 0) (r 0), .scatter (hd .void) 0 0 false .x1 (r 0) (r 0) (r 0), .prefetch (hd .i32) 0 .l2 (r 0),
    .ptrExport (hd .i64) 0 (r 0), .ptrCast (hd .i64) 0 .global (r 0), .atom (hd .f32) 0 .add .relaxed .lane (r 0) (r 0), .atom (hd .i32) 0 .fadd .relaxed .lane (r 0) (r 0),
    .atom (hd .i32) 0 .add .relaxed .group (r 0) (r 0), .cas (hd .f32) 0 .relaxed .lane (r 0) (r 0) (r 0), .red (hd .i32) 0 .xchg .relaxed .lane (r 0) (r 0),
    .red (hd .i32) 0 .add .acquire .group (r 0) (r 0), .fence (hd .void) .relaxed .group, .fence (hd .i32) .release .group, .bar (hd .i1) 0 (r 0) (r 0), .bar (hdE .i32) 0 (r 0) (r 0),
    .barArrive (hd .i1) 0 (r 0) (r 0), .barWait 0 (k 0), .barWaitTimed (hdE .void) 0 (r 0) (r 0), .xbInit (hd .i32) (r 0) (r 0), .xbExpect (hd .void) (r 0) (k 0), .xbWait (k 0),
    .xbWaitTimed (hd .i1) (r 0) (r 0), .spoolClaim (hd .i64) (r 0), .spoolCommit (hd .i32) (r 0) (r 0), .spoolWaitfilled (hd .ptr) (r 0), .spoolRelease (hd .void) (r 0) (k 0),
    .spoolWaitfree (k 0), .hodKick (hd .void) 0 (k 0), .hodBind (hd .i32) 0 (r 0), .sread (hd .i32) (r 0), .hodPut (hd .i32) 0 (r 0), .hodGet (hd .void) 0 (k 0),
    .reelBoard (hd .i32) (r 0) (r 0), .reelAlight (hd .i32) (r 0) (r 0) (r 0) (r 0), .reelCapture (hdE .i32) .read 0 .relaxed (r 0) (r 0) (r 0) (r 0), .mxLdst (hd .i32) 0 (r 0),
    .mxStream (hd .hnd) 0 (k 0), .mxStreamBound (hd .hnd) 0 (r 0) (k 0), .mxSpgather (hd .void) 0 (r 0), .mxCompress (hd .ptr) 0 (r 0), .mxDrain (hd .i32) 0 (r 0),
    .mxDrainAdd (hdU .hnd) 0 (r 0), .mxWait (k 0), .ctxSpill (k 0), .ctxFill (k 0), .ctxBank (k 0), .ctxDivSave true (k 0), .ctxDivRestore false (k 0), .ctxBarSave false (k 0),
    .ctxBarRestore true (k 0), .doffIssue (hd .i32) (r 0) (r 0), .doffIssue (hdE .i64) (r 0) (r 0), .trapDetail 0 (k 0), .rdctr (hd .i32) 0, .rdcap (hd .i32) (k 0)] = true := by
  decide +kernel
/-- Native-only ops: s0, s1 and registers beyond the files are no destination (R250). -/
theorem test_bad_native : allBad [.nLi true 1 0 0, .nLi true 64 0 0, .nLi false 255 0 0, .nLi false 0 0 2, .nLi false 16 0 8, .nLi false 1 0 16, .nMov true 1 0 0, .nMov false 1 0 4,
    .nMov false 16 0 2, .nBcast 255 0 0, .nBcast 0 64 0, .nBcast 0 0 2, .nBfpk true 0 0 0, .nBfpk false 255 0 0, .nSpill 0 0 4, .nFill 0 0 4] = true := by decide +kernel
/-- A destination register is no Flinal head, and well-formed terms pass. -/
theorem test_heads : instrWf (.popc { hd .i32 with dst := .reg .vec 1 } (r 0)) = false ∧ instrWf (.popc (hdU .i32) (r 0)) = true ∧ instrWf (.nLi true 2 0 0) = true := by decide +kernel

-- one step on a small state ------------------------------------------------------------

/-- The machine with one group of job 1 issuing, in a function without words. -/
def s0 : State := State.reset.withWords []
def gid0 : GId := ⟨0, 0⟩
def g0 : Group := { Group.fresh 0 0 1 [] with status := .ready, begun := true }
/-- The group changed. -/
def grp (f : Group → Group) (s : State) : State := s.setGroup gid0 (f ((s.group gid0).getD g0))
/-- The team changed. -/
def tm (f : Team → Team) (s : State) : State := s.setTeam 0 (f (s.team 0))
/-- The launch changed. -/
def la (f : Launch → Launch) (s : State) : State := s.setLaunch 0 (f (s.launch 0))
/-- A field of the launch record. -/
def rec' (o n x : Nat) : State → State := la fun l => { l with record := setFld l.record o n x }
/-- The group of a state. -/
def gof (s : State) : Group := (s.group gid0).getD g0
/-- Values 0, 1, … of the group's frame: a type and the lanes' bits. -/
def valsOf : Nat → List (Ty × List Lane) → SMap Val
  | _, [] => []
  | n, x :: xs => (n, ⟨x.1, x.2, none⟩) :: valsOf (n + 1) xs
def vals (l : List (Ty × List Lane)) (s : State) : State := grp (fun g => g.setFrame { g.frame with vals := valsOf 0 l }) s
/-- One value in every lane. -/
def u (ty : Ty) (x : Lane) : Ty × List Lane := (ty, List.replicate 32 x)
def next (o : Host.Outcome State Fault Refusal) : State := match o with | .next t => t | _ => State.reset
/-- The value that an instruction defines, in a lane, and the events it counts by class. -/
def res (i : Instr) (s : State) (l : Nat) : Lane × List Nat :=
  let t := next (exec i s)
  let n := s.defNum gid0 (gof s)
  (laneAt (SMap.get Val.undef (gof t).frame.vals n).lanes l, (List.range 8).map fun c => (gof t).evs.getD c 0)
/-- The second value. -/
def res2 (i : Instr) (s : State) (l : Nat) : Lane :=
  laneAt (SMap.get Val.undef (gof (next (exec i s))).frame.vals (s.defNum gid0 (gof s) + 1)).lanes l
/-- Classes counted (R67). -/
def ev (l : List Nat) : List Nat := (List.range 8).map fun c => if l.contains c then 1 else 0
/-- An instruction of two operands delivers x in lane 0, counting the classes l. -/
def does (ty : Ty) (i : Instr) (a b x : Lane) (l : List Nat) : Bool := res i (vals [u ty a, u ty b] s0) 0 == (x, ev l)
/-- The group stopped with a code, at its point. -/
def stopped (i : Instr) (s : State) (code : Nat) : Bool :=
  match (gof (next (exec i s))).trap with
  | some t => t.code == code && (gof (next (exec i s))).status == .stopping
  | none => false

/-- R94's worked i32 cases, quotient and remainder with their events. -/
theorem test_division : ([(0xFFFFFFF9, 2, false, 0xFFFFFFFD, 0xFFFFFFFF, []), (7, 0xFFFFFFFE, false, 0xFFFFFFFD, 1, []), (0xFFFFFFF9, 2, true, 0x7FFFFFFC, 1, []),
    (5, 0, false, 0xFFFFFFFF, 5, [7]), (0x80000000, 0xFFFFFFFF, false, 0x80000000, 0, [7])].all fun (a, b, un, q, m, l) =>
      does .i32 (.div (hd .i32) un (r 0) (r 1)) a b q l && does .i32 (.rem (hd .i32) un (r 0) (r 1)) a b m l && does .i32 (.divrem (hd .i32) un (r 0) (r 1)) a b q l
        && res2 (.divrem (hd .i32) un (r 0) (r 1)) (vals [u .i32 a, u .i32 b] s0) 0 == m) = true := by decide +kernel
/-- R92, R93, R95-R97: wraps, clamps, the high product, the most negative number, carry and borrow. -/
theorem test_sums : (does .i8 (.add (hd .i8) .wrap (r 0) (r 1)) 0xFF 2 1 [] && does .i8 (.add (hd .i8) .satS (r 0) (r 1)) 0x7F 1 0x7F [4] &&
    does .i8 (.sub (hd .i8) .satU (r 0) (r 1)) 1 2 0 [4] && does .i8 (.sub (hd .i8) .wrap (r 0) (r 1)) 1 2 0xFF [] && does .i16 (.mul (hd .i16) .hiS (r 0) (r 1)) 0x8000 0x8000 0x4000 [] &&
    does .i16 (.mul (hd .i16) .hiU (r 0) (r 1)) 0xFFFF 0xFFFF 0xFFFE [] && does .i32 (.mad (hd .i32) (r 0) (r 1) (r 1)) 3 4 16 [] && does .i8 (.neg (hd .i8) true (r 0)) 0x80 0 0x7F [4] &&
    does .i8 (.abs (hd .i8) false (r 0)) 0x80 0 0x80 [] && does .i32 (.min (hd .i32) false (r 0) (r 1)) 1 0xFFFFFFFF 0xFFFFFFFF [] &&
    does .i32 (.max (hd .i32) true (r 0) (r 1)) 1 0xFFFFFFFF 0xFFFFFFFF [] && does .i64 (.addc (hd .i64) (r 0) (r 1) (r 0xFFFF)) 0xFFFFFFFFFFFFFFFF 0 0 [] &&
    (res2 (.addc (hd .i64) (r 0) (r 1) (r 0xFFFF)) (vals [u .i64 0xFFFFFFFFFFFFFFFF, u .i64 0] s0) 0 == 1) && does .i32 (.subb (hd .i32) (r 0) (r 1) (r 0xFFFF)) 5 5 0xFFFFFFFF [] &&
    (res2 (.subb (hd .i32) (r 0) (r 1) (r 0xFFFF)) (vals [u .i32 5, u .i32 5] s0) 0 == 1)) = true := by decide +kernel
/-- R98-R105: shifts by the full width and more, rotations modulo the width, counts of zero, fields clipped to the value, compares by both readings, widths. -/
theorem test_bits : (does .i32 (.shl (hd .i32) (r 0) (r 1)) 1 32 0 [] && does .i32 (.shr (hd .i32) true (r 0) (r 1)) 0x80000000 40 0xFFFFFFFF [] &&
    does .i32 (.shr (hd .i32) false (r 0) (r 1)) 0x80000000 31 1 [] && does .i8 (.rot (hd .i8) false (r 0) (r 1)) 0x81 9 0x03 [] && does .i8 (.rot (hd .i8) true (r 0) (r 1)) 0x81 1 0xC0 [] &&
    does .i32 (.popc (hd .i32) (r 0)) 0xF0F0 0 8 [] && does .i16 (.clz (hd .i16) (r 0)) 0 0 16 [] && does .i16 (.ctz (hd .i16) (r 0)) 0x10 0 4 [] && does .i8 (.brev (hd .i8) (r 0)) 0x13 0 0xC8 [] &&
    does .i32 (.bfx (hd .i32) true (r 0) (k 28) (r 1)) 0x90000000 8 0xFFFFFFF9 [] && does .i32 (.bfi (hd .i32) (r 0) (r 1) (k 4) (k 8)) 0xFFFFFFFF 0 0xFFFFF00F [] &&
    does .i32 (.andn (hd .i32) (r 0) (r 1)) 0xFF 0x0F 0xF0 [] && does .i32 (.cmp (hd .i32) .ltS (r 0) (r 1)) 0xFFFFFFFF 0 1 [] && does .i32 (.cmp (hd .i32) .ltU (r 0) (r 1)) 0xFFFFFFFF 0 0 [] &&
    does .i32 (.sel (hd .i32) (r 0xFFFF) (r 0) (r 1)) 7 8 7 [] && does .i8 (.ext (hd .i32) true (r 0)) 0x80 0 0xFFFFFF80 [] && does .i64 (.trunc (hd .i8) (r 0)) 0x1234 0 0x34 [] &&
    does .i32 (.const (hdU .i64) 0x100000000) 0 0 0x100000000 [] && does .ptr (.ptrIdx (hd .ptr) true 3 (r 0) (r 1)) 0x100 2 0x110 [] &&
    does .ptr (.ptrCast (hd .ptr) 0 .scratch (r 0)) 0x123 0 0xFE00000000000123 []) = true := by decide +kernel
/-- R57, R106-R113: ties to even and the directed modes, exact zero sums, infinities and NaNs, division by zero, one rounding in fma. -/
theorem test_float : (does .f32 (.addFloat (hd .f32) .rne (r 0) (r 1)) 0x4B800000 0x3F800000 0x4B800000 [] && does .f32 (.addFloat (hd .f32) .rup (r 0) (r 1)) 0x4B800000 0x3F800000 0x4B800001 [] &&
    does .f32 (.subFloat (hd .f32) .rdn (r 0) (r 0)) 0x3F800000 0 0x80000000 [] && does .f32 (.addFloat (hd .f32) .rne (r 0) (r 1)) 0x7F800000 0xFF800000 0x7FC00000 [0] &&
    does .f32 (.mulFloat (hd .f32) .rtz (r 0) (r 1)) 0x7F7FFFFF 0x40000000 0x7F7FFFFF [2] && does .f32 (.divFloat (hd .f32) .rne (r 0) (r 1)) 0x3F800000 0x80000000 0xFF800000 [1] &&
    does .f32 (.divFloat (hd .f32) .rne (r 0) (r 1)) 0 0 0x7FC00000 [0] && does .f16 (.fma (hd .f16) .rne (r 0) (r 0) (r 1)) 0x3C01 0xBC02 0x0010 [] &&
    does .f32 (.sqrt (hd .f32) .rne (r 0)) 0x40800000 0 0x40000000 [] && does .f32 (.sqrt (hd .f32) .rne (r 0)) 0x80000000 0 0x80000000 [] &&
    does .f32 (.rcp (hd .f32) (r 0)) 0x40000000 0 0x3F000000 [] && does .f32 (.maxFloat (hd .f32) (r 0) (r 1)) 0x80000000 0 0 [] && does .f32 (.minFloat (hd .f32) (r 0) (r 1)) 0x7FC00001 1 1 [] &&
    does .f32 (.negFloat (hd .f32) (r 0)) 0x7F800001 0 0xFF800001 [] && does .f32 (.cmpFloat (hd .f32) .lt (r 0) (r 1)) 0x7FC00000 0 0 [] &&
    does .f32 (.rint (hd .f32) .rne (r 0)) 0x40200000 0 0x40000000 [] && does .f32 (.log2 (hd .f32) (r 0)) 0 0 0xFF800000 [1] && does .f32 (.exp2 (hd .f32) (r 0)) 0x40400000 0 0x41000000 []) = true := by
  decide +kernel
/-- R53's worked block: the word 0x6C3A_0F21 under the scale 0x7A0, element by element in f32, and R49's and R59's conversions. -/
theorem test_blocks : ((([(0, 0x3F200000), (1, 0x3FA00000), (2, 0xC0F00000), (3, 0), (4, 0xBFA00000), (5, 0x3FF00000), (6, 0xC0200000), (7, 0x40A00000)] : List (Nat × Nat)).all fun (i, x) =>
      (deliver .f32 (.plain .rne) (q4Elem 0x6C3A0F21 0x7A0 i (.fin false 1 1)).1).1 == x)
    && does .i32 (.q4Make (hd .q4) (r 0) (r 1)) 0x6C3A0F21 0x7A0 0x7A06C3A0F21 [] && does .q4 (.q4Scale (hd .i16) (r 0)) 0x7A06C3A0F21 0 0x7A0 []
    && does .f32 (.cvt (hd .i8) .rtz false true (r 0)) 0x43480000 0 0x7F [4] && does .f32 (.cvt (hd .i8) .rne false true (r 0)) 0x7FC00000 0 0 [0]
    && does .i32 (.cvt (hd .f32) .rne false true (r 0)) 0xFFFFFFFF 0 0xBF800000 []) = true := by decide +kernel
/-- R62's sums: one operation of K = 64, and the split at 21. -/
theorem test_chunks : (let one : FVal × FVal := (.fin false 1 1, .fin false 1 1)
    let z : FVal × FVal := (.fin false 0 1, .fin false 0 1)
    let big : FVal × FVal := (.fin false 4096 1, .fin false 4096 1)
    let a : List (FVal × FVal) := big :: List.replicate 19 z ++ [one]
    (chunkSum 0 (a ++ [one] ++ List.replicate 10 z)).1 == 0x4B800001 && (chunkSum (chunkSum 0 a).1 (one :: List.replicate 31 z)).1 == 0x4B800000) = true := by decide +kernel
/-- R66's lanes: argmax over lanes 0-7 is (0x7E00, 1); without lanes 1 and 6 (3.0, 3); argmin over lanes 2 and 4 is (-0, 4). -/
theorem test_argmax : (let xs : List Lane := [0x3C00, 0x7E01, 0, 0x4200, 0x8000, 0x4200, 0xFE00, 0x3C00]
    let s (m : Mask) := grp (fun g => { g with active := m }) (vals [(.f16, xs), (.i32, lanes32.map (BitVec.ofNat 64))] s0)
    let f (mn : Bool) (m : Mask) (l : Nat) := ((res (.xamax (hd .f16) mn (r 0) (r 1)) (s m) l).1, res2 (.xamax (hd .f16) mn (r 0) (r 1)) (s m) l)
    f false 0xFF 0 == (0x7E00, 1) && f false 0xBD 0 == (0x4200, 3) && f true 0x14 2 == (0x8000, 4)) = true := by decide +kernel
/-- R121-R127: exchange among the active lanes. -/
theorem test_exchange : (let s := grp (fun g => { g with active := 0xF }) (vals [(.i32, lanes32.map (BitVec.ofNat 64)), u .i32 1, (.i1, [1, 0, 1, 0])] s0)
    (res (.shfl (hd .i32) .up (r 0) (r 1)) s 3).1 == 2 && (res (.shfl (hd .i32) .up (r 0) (r 1)) s 0).1 == 0 && (res (.shfl (hd .i32) .xor (r 0) (r 1)) s 2).1 == 3 &&
    (res (.vote (hd .i32) .ballot (r 2)) s 0).1 == 5 && (res (.vote (hd .i1) .any (r 2)) s 0).1 == 1 && (res (.vote (hd .i1) .all (r 2)) s 0).1 == 0 &&
    (res (.xred (hd .i32) .add (r 0)) s 1).1 == 6 && (res (.scan (hd .i32) true .add (r 0)) s 3).1 == 3 && (res (.first (hd .i32) (r 0)) s 2).1 == 0 && (res (.active (hd .i32)) s 0).1 == 0xF) = true := by
  decide +kernel

-- hypotheses that are met: the data statements --------------------------------------------

theorem issues_of {s : State} {g : Group} (h1 : s.cur = some gid0) (h2 : s.group gid0 = some g) : Issues s gid0 g := ⟨h1, h2⟩
/-- The state's own group issues. -/
abbrev Runs (s : State) : Prop := s.cur = some gid0 ∧ s.group gid0 = some (gof s)
/-- The operands are not lost. -/
abbrev Whole (s : State) (ins : List (Ty × Opnd)) : Prop := (ins.all fun i => (s.read gid0 (gof s) i.1 i.2).lost == none) = true
theorem sound_of {s : State} {ins : List (Ty × Opnd)} (h : Whole s ins) : Sound s gid0 (gof s) ins := by
  intro i hi; simpa using List.all_eq_true.mp h i hi
theorem runs_of {s : State} (h : Runs s) : Issues s gid0 (gof s) := h

/-- Values 0-5: i32 lane numbers, an i32, an f32, an i1 by lane, pointers into scratch 4 bytes apart, an i64. -/
def sv : State := vals [(.i32, lanes32.map (BitVec.ofNat 64)), u .i32 7, u .f32 0x3F800000, (.i1, lanes32.map fun l => BitVec.ofNat 64 (l % 2)),
  (.ptr, lanes32.map fun l => BitVec.ofNat 64 (0xFE00000000000000 + 4 * l)), u .i64 9] (rec' 452 4 256 s0)
theorem runs_sv : Issues sv gid0 (gof sv) := runs_of (by decide +kernel)

theorem witness_IntegerSums : Issues sv gid0 (gof sv) ∧ Ty.i32.isI = true ∧ Sound sv gid0 (gof sv) [(.i32, r 0), (.i32, r 1)] ∧
    Sound sv gid0 (gof sv) [(.ptr, r 4), (.i64, r 5)] ∧ Sound sv gid0 (gof sv) [(.i32, r 0), (.i32, r 1), (.i1, r 3)] :=
  ⟨runs_sv, rfl, sound_of (by decide +kernel), sound_of (by decide +kernel), sound_of (by decide +kernel)⟩
theorem witness_IntegerProducts : Issues sv gid0 (gof sv) ∧ Ty.i32.isI = true ∧ Sound sv gid0 (gof sv) [(.i32, r 0), (.i32, r 1), (.i32, r 0)] :=
  ⟨runs_sv, rfl, sound_of (by decide +kernel)⟩
theorem witness_IntegerDivision : Issues sv gid0 (gof sv) ∧ Ty.i32.isI = true ∧ Sound sv gid0 (gof sv) [(.i32, r 1), (.i32, r 0)] ∧
    opnd sv gid0 (gof sv) .i32 (r 0) 0 = 0 ∧ opnd sv gid0 (gof sv) .i32 (r 0) 31 = 31 := ⟨runs_sv, rfl, sound_of (by decide +kernel), by decide +kernel, by decide +kernel⟩
theorem witness_IntegerOrder : Issues sv gid0 (gof sv) ∧ Ty.i32.isI = true ∧ Ty.ptr = .ptr ∧ Ty.f32.isA = true ∧ Sound sv gid0 (gof sv) [(.i32, r 0), (.i32, r 1), (.i1, r 3)] ∧
    Sound sv gid0 (gof sv) [(.ptr, r 4), (.ptr, r 4), (.i1, r 3)] := ⟨runs_sv, rfl, rfl, rfl, sound_of (by decide +kernel), sound_of (by decide +kernel)⟩
theorem witness_IntegerBits : Issues sv gid0 (gof sv) ∧ Ty.i1.isB = true ∧ Ty.i32.isI = true ∧ Sound sv gid0 (gof sv) [(.i1, r 3), (.i1, r 3)] ∧
    Sound sv gid0 (gof sv) [(.i32, r 0), (.i32, k 32)] := ⟨runs_sv, rfl, rfl, sound_of (by decide +kernel), sound_of (by decide +kernel)⟩
theorem witness_IntegerFields : Issues sv gid0 (gof sv) ∧ Ty.i32.isI = true ∧ Sound sv gid0 (gof sv) [(.i32, r 0), (.i32, r 1), (.i32, r 0), (.i32, r 1)] :=
  ⟨runs_sv, rfl, sound_of (by decide +kernel)⟩
theorem witness_WidthsAndPointers : Issues sv gid0 (gof sv) ∧ opndTy (gof sv) .i64 (r 0) = .i32 ∧ Sound sv gid0 (gof sv) [(.i32, r 0)] ∧
    Ty.i32.bits < Ty.i64.bits ∧ Ty.i8.bits < Ty.i32.bits ∧ Ty.i32.bits = Ty.f32.bits ∧ Sound sv gid0 (gof sv) [(.ptr, r 4), (.i32, r 0)] ∧ Sound sv gid0 (gof sv) [(.i64, r 5)] :=
  ⟨runs_sv, by decide +kernel, sound_of (by decide +kernel), by decide, by decide, by decide, sound_of (by decide +kernel), sound_of (by decide +kernel)⟩
theorem witness_FloatArithmetic : Issues sv gid0 (gof sv) ∧ Ty.f64.isF = true ∧ Ty.f32.isF = true ∧ Ty.f32.isH = true ∧
    Sound sv gid0 (gof sv) [(.f32, r 2), (.f32, r 2), (.f32, r 2)] := ⟨runs_sv, rfl, rfl, rfl, sound_of (by decide +kernel)⟩
theorem witness_FloatExactValues : (0 : Nat) < 1 ∧ Fmt.f16 ∈ formatsF ∧ 0x7BFF < 2 ^ Fmt.f16.bits ∧ (∃ n d, Fmt.f16.decode 0x7BFF = .fin false n d) ∧
    (∃ n d, Fmt.f16.decode 0x8001 = .fin true n d) := ⟨by decide, by decide, by decide, ⟨_, _, rfl⟩, ⟨_, _, rfl⟩⟩
theorem witness_FloatSpecialCases : Fmt.f64 ∈ formatsF ∧ (FVal.nan true).isNan = true ∧ (0 : Nat) < 1 := by decide
theorem witness_FloatChoice : Issues sv gid0 (gof sv) ∧ Ty.f32.isF = true ∧ Sound sv gid0 (gof sv) [(.f32, r 2), (.i32, r 0), (.f32, r 2), (.i32, r 1)] :=
  ⟨runs_sv, rfl, sound_of (by decide +kernel)⟩

/-- A slot of FP4 elements (ELEM 13) in slot 0 and one of f16 in slot 1; slot 2 stays empty. -/
def sq : State := rec' 336 1 (Ty.f16.code.toNat) (rec' 320 1 13 (vals [u .f32 0x40F00000, u .q4 0x7A06C3A0F21, u .i32 3, u .i16 0x7A0, u .bf16 0x3F80] s0))
theorem runs_sq : Issues sq gid0 (gof sq) := runs_of (by decide +kernel)
theorem witness_Conversions : Issues sq gid0 (gof sq) ∧ (sq.slotOf gid0 0).elem = 13 ∧ (sq.slotOf gid0 0).isEmpty = false ∧ (sq.slotOf gid0 2).isEmpty = true ∧
    (sq.slotOf gid0 1).elem = Ty.f16.code.toNat ∧ (sq.slotOf gid0 1).elem ≠ 13 ∧ ((Ty.f16.code.toNat == (sq.slotOf gid0 1).elem) != (Ty.f32.code.toNat == (sq.slotOf gid0 1).elem)) = true ∧
    ((Ty.f32.code.toNat == (sq.slotOf gid0 1).elem) != (Ty.f32.code.toNat == (sq.slotOf gid0 1).elem)) = false ∧
    Sound sq gid0 (gof sq) [(.f32, r 0), (.bf16, r 4)] ∧ Sound sq gid0 (gof sq) [(.q4, r 1), (.i32, r 2), (.bf16, r 4)] ∧ Sound sq gid0 (gof sq) [(.i32, r 2), (.i16, r 3)] :=
  ⟨runs_sq, by decide +kernel, by decide +kernel, by decide +kernel, by decide +kernel, by decide +kernel, by decide +kernel, by decide +kernel,
    sound_of (by decide +kernel), sound_of (by decide +kernel), sound_of (by decide +kernel)⟩
theorem witness_FloatToInteger : Fmt.ofTy .f32 = some .f32 ∧ Ty.i8.isI = true ∧ (fval .f32 0x7FC00000).isNan = true ∧ fval .f32 0x7F800000 = .inf false ∧ fval .f32 0xFF800000 = .inf true ∧
    (∃ n d, fval .f32 0xC3000000 = .fin true n d) := ⟨rfl, rfl, by decide +kernel, by decide +kernel, by decide +kernel, ⟨_, _, rfl⟩⟩
theorem witness_LaneExchange : Issues sv gid0 (gof sv) ∧ (gof sv).active ≠ 0 ∧ Ty.i32.isI = true ∧ Sound sv gid0 (gof sv) [(.i32, r 0), (.i32, r 1)] ∧ Sound sv gid0 (gof sv) [(.i1, r 3)] ∧
    Sound sv gid0 (gof sv) [(.i32, r 0)] := ⟨runs_sv, by decide +kernel, rfl, sound_of (by decide +kernel), sound_of (by decide +kernel), sound_of (by decide +kernel)⟩

/-- The lanes' scratch addresses of value 4. -/
def lanesAt (s : State) (n : BitVec 16) : List (Nat × W64) := (lanesOf (gof s).active).map fun l => (l, opnd s gid0 (gof s) .ptr (r n) l)
theorem calm_sv : Calm sv gid0 (gof sv) := ⟨by decide +kernel, by decide +kernel⟩
/-- Pointer by lane, base plus offset, base plus scaled index: every lane passes its checks. -/
theorem witness_Loads : Issues sv gid0 (gof sv) ∧ Ty.i32.isA = true ∧ Calm sv gid0 (gof sv) ∧ Sound sv gid0 (gof sv) [(.ptr, r 4), (gIdxTy 2, r 0)] ∧
    sv.checkLanes gid0 (gof sv) .read 4 false (lanesAt sv 4) = .ok ∧ sv.poisonLanes gid0 (gof sv) (lanesAt sv 4) = none ∧
    sv.checkLanes gid0 (gof sv) .read 4 false ((lanesAt sv 4).map fun p => (p.1, p.2 + (128 : W32).signExtend 64)) = .ok ∧
    sv.checkLanes gid0 (gof sv) .read 4 false ((lanesAt sv 4).map fun p => (p.1, p.2 + BitVec.ofNat 64 p.1 * BitVec.ofNat 64 4)) = .ok :=
  ⟨runs_sv, rfl, calm_sv, sound_of (by decide +kernel), by decide +kernel, by decide +kernel, by decide +kernel, by decide +kernel⟩

/-- One GiB of job 1 mapped from address 0, readable and writable, by tables in host memory (R316): a level-0 entry and a level-1 leaf. -/
def mapped (s : State) : State :=
  { (s.setJob 1 { JobRegs.reset with root := 0x8000100000000000 }) with
      mem := [(0x100000000000, 0x01), (0x100000000001, 0x80), (0x100000000005, 0x10), (0x100000008000, 0x0F), (0x100000008003, 0x40), (0x100000008005, 0x10)] }
def who0 : Who := ⟨1, 0, 0, 0, 0, []⟩
theorem test_walk : (mapped s0).walk 1 .write 0x1234 = .ok 0x100040001234 ∧ s0.walk 1 .read 0 = .fault Code.pageMiss := by decide +kernel
/-- The walk of such tables, whatever else memory holds. -/
theorem walk_of_tables (s : State) (m : SMap Byte) (p : Pln) (va : Nat) (acc : Acc) (hv : va < 2 ^ 30)
    (hr : (s.job 1).root = 0x8000100000000000) (hb : s.boot.hbmStacks = 0) (ht : s.boot.tier = [])
    (e0 : leNat (SMap.bytes m 0x100000000000 8) = 0x100000008001) (e1 : leNat (SMap.bytes m 0x100000008000 8) = 0x10004000000F) :
    ({ s with mem := m, pln := p } : State).walk 1 acc va = .ok (0x100040000000 + va) := by
  have f0 : fieldNat va 51 42 = 0 := by unfold fieldNat; omega
  have f1 : fieldNat va 41 30 = 0 := by unfold fieldNat; omega
  have hva : va % 2 ^ 52 = va := Nat.mod_eq_of_lt (by omega)
  have hj : (({ s with mem := m, pln := p } : State).job 1).root = 0x8000100000000000 := hr
  have a0 : (fieldNat (0x8000100000000000 : W64).toNat 51 13 * 8192 + 8 * 0) = 0x100000000000 := by decide
  have hsz : ({ s with mem := m, pln := p } : State).hbmSize = 0 := by simp [State.hbmSize, hb]; decide
  have hts : ({ s with mem := m, pln := p } : State).tierSize = 0 := by simp [State.tierSize, ht]
  have v1 : entryAddr 0x100000008001 + 8 * 0 = 0x100000008000 := by decide
  have p0 : ({ s with mem := m, pln := p } : State).paOk (entryAddr 0x100000008001) = true := by simp [State.paOk, State.isHbm, State.isTier, hsz, hts]; decide
  have r0 : ({ s with mem := m, pln := p } : State).reserved (entryAddr 0x100000008001) = false := by simp [State.reserved, hsz]
  have r1 : ({ s with mem := m, pln := p } : State).reserved (entryAddr 0x10004000000F) = false := by simp [State.reserved, hsz]
  have p1 : ({ s with mem := m, pln := p } : State).leafOk 0x10004000000F 30 = true := by
    simp [State.leafOk, State.paOk, State.isHbm, State.isTier, hsz, hts]; decide
  unfold State.walk
  rw [hj, hva]
  simp only [levels, State.walkGo, f0, f1, a0, e0, r0, p0, v1, e1, r1, p1]
  have c : (0x8000100000000000 : W64).toNat / 2 ^ 63 ≠ 0 := by decide
  rw [if_neg c]
  have l : leafAccess acc va 0x10004000000F 30 = .ok (0x100040000000 + va) := by
    have : va % 2 ^ 30 = va := Nat.mod_eq_of_lt hv
    cases acc <;> (simp only [leafAccess, this]; rfl)
  rw [← l]
  rfl
/-- Writing the mapped bytes cannot touch the tables: they are read from other addresses. -/
theorem tablesApart_mapped : TablesApart (mapped s0) 1 0x1000 4 0x100040001000 := by
  intro m hm p i hi acc
  have h (a n : Nat) (ha : a + n < 0x100040001000) : SMap.bytes m a n = SMap.bytes (mapped s0).mem a n := by
    induction n generalizing a with
    | zero => rfl
    | succ n ih => simp only [SMap.bytes, hm a (.inl (by omega)), ih (a + 1) (by omega)]
  have hn : (0x1000 + BitVec.ofNat 64 i : W64).toNat = 0x1000 + i := by
    have : (0x1000 : W64).toNat = 0x1000 := rfl
    simp only [BitVec.toNat_add, BitVec.toNat_ofNat, this]; omega
  rw [hn, walk_of_tables (mapped s0) m p (0x1000 + i) acc (by omega) (by decide +kernel) (by decide +kernel) (by decide +kernel)
    (by rw [h _ _ (by decide)]; decide +kernel) (by rw [h _ _ (by decide)]; decide +kernel)]
  simp only [Walk.ok.injEq]; omega
theorem witness_Stores : Issues sv gid0 (gof sv) ∧ Ty.i32.isA = true ∧ Calm sv gid0 (gof sv) ∧ Sound sv gid0 (gof sv) [(.ptr, r 4), (gIdxTy 2, r 0), (.i32, r 1)] ∧ (gof sv).nat.on = false ∧
    sv.checkLanes gid0 (gof sv) .write 4 false (lanesAt sv 4) = .ok ∧ winOf 0xFE00000000000000 = .scratch ∧ (0xFE000000000000FC : W64).toNat % 2 ^ 56 + 8 ≤ 2 ^ 56 ∧
    winOf 0x1000 = .global ∧ (0x1000 : W64).toNat + 8 ≤ 2 ^ 52 ∧ TablesApart (mapped s0) 1 0x1000 4 0x100040001000 :=
  ⟨runs_sv, rfl, calm_sv, sound_of (by decide +kernel), by decide +kernel, by decide +kernel, by decide, by decide, by decide, by decide, tablesApart_mapped⟩
theorem witness_AccessFaults : Issues sv gid0 (gof sv) ∧ Calm sv gid0 (gof sv) ∧ Sound sv gid0 (gof sv) [(.ptr, r 4), (.i32, r 1)] ∧
    (let small := rec' 452 4 64 sv
     small.checkLanes gid0 (gof small) .read 4 false (lanesAt small 4) = .fault Code.addrRange 16 0xFE00000000000040 ∧
     small.checkLanes gid0 (gof small) .write 4 false (lanesAt small 4) = .fault Code.addrRange 16 0xFE00000000000040) ∧
    (let w : Who := ⟨1, 0, 0, 0, 0, []⟩
     let c : State := { sv with dsp := { sv.dsp with modules := [{ oneWordModule [] with consts := [1, 2, 3, 4] }] } }
     winOf 0x0110000000000000 = .none ∧ winOf 0x0010000000000000 = .none ∧ winOf 0xFE000000000000FE ≠ .none ∧ c.winSize w .scratch < offOf 0xFE000000000000FE + 4 ∧
     offOf 0xFE000000000000FA + 4 ≤ c.winSize w .scratch ∧ (0xFE000000000000FA : W64).toNat % 4 ≠ 0 ∧
     winOf 0xFD00000000000000 = .const ∧ offOf 0xFD00000000000000 + 4 ≤ c.winSize w .const ∧ (0xFD00000000000000 : W64).toNat % 4 = 0 ∧ Acc.write ≠ .read ∧
     winOf 0xFE000000000000FC ≠ .const ∧ offOf 0xFE000000000000FC + 4 ≤ c.winSize w .scratch) ∧
    (let lost := grp (fun g => g.setFrame { g.frame with vals := [(0, ⟨.i32, List.replicate 32 0, some 5⟩)] }) s0
     Runs lost ∧ (lost.read gid0 (gof lost) .i32 (r 0)).lost = some (5, 0) ∧ (lost.read gid0 (gof lost) .ptr (r 0)).lost = some (5, 0)) :=
  ⟨runs_sv, calm_sv, sound_of (by decide +kernel), by decide +kernel, by decide +kernel, by decide +kernel⟩

/-- The same values with lane 3 alone active. -/
def sone : State := grp (fun g => { g with active := 8 }) sv
theorem witness_AtomicOperations : Ty.i8.isI = true ∧ Issues sone gid0 (gof sone) ∧ Calm sone gid0 (gof sone) ∧ Sound sone gid0 (gof sone) [(.ptr, r 4), (.i32, r 1), (.i32, r 0)] ∧
    lanesOf (gof sone).active = [3] ∧ sone.checkLanes gid0 (gof sone) .rw 4 false [(3, opnd sone gid0 (gof sone) .ptr (r 4) 3)] = .ok ∧
    sone.poisonLanes gid0 (gof sone) [(3, opnd sone gid0 (gof sone) .ptr (r 4) 3)] = none :=
  ⟨rfl, runs_of (by decide +kernel), ⟨by decide +kernel, by decide +kernel⟩, sound_of (by decide +kernel), by decide +kernel, by decide +kernel, by decide +kernel⟩

/-- A reduction still to perform, at an address. -/
def redAt (a : W64) : Red := ⟨a, 0, 0, .add, .i32, 5, 0, 0, 1⟩
theorem witness_Reductions : Issues sv gid0 (gof sv) ∧ Calm sv gid0 (gof sv) ∧ Sound sv gid0 (gof sv) [(.ptr, r 4), (.i32, r 1)] ∧
    sv.checkLanes gid0 (gof sv) .rw 4 true (lanesAt sv 4) = .ok ∧
    ((tm (fun t => { t with reds := [redAt 0x1000] }) sv).team 0).reds = [redAt 0x1000] ∧ winOf 0x1000 = .global ∧
    sv.checkPages 1 .rw false (pagesOf (0x1000 : W64).toNat 4) = .fault Code.pageMiss ∧ winOf 0xFE00000000000000 ≠ .global ∧
    sv.poisonAt ⟨1, 0, 0, 0, 0, []⟩ 0xFE00000000000000 = none ∧ (mapped sv).checkPages 1 .rw false (pagesOf (0x1000 : W64).toNat 4) = .ok ∧
    (mapped sv).poisonAt ⟨1, 0, 0, 0, 0, []⟩ 0x1000 = none :=
  ⟨runs_sv, calm_sv, sound_of (by decide +kernel), by decide +kernel, by decide +kernel, by decide, by decide +kernel, by decide, by decide +kernel, by decide +kernel, by decide +kernel⟩

/-- A launch with EXPORT and 64 private bytes a lane, and pointers of which lane 1's is private. -/
def sexp : State := rec' 456 4 64 (rec' 2 2 2 (vals [(.ptr, lanes32.map fun l => if l = 1 then 0xFF0000000000003F else 0x10)] s0))
theorem witness_FencesPrefetchesAndExports : Issues sv gid0 (gof sv) ∧ Calm sv gid0 (gof sv) ∧
    (let logged := sv.logAsync 0 0 ⟨0, 0, 1, 0, 0, 0, 0⟩
     Runs logged ∧ ((logged.team 0).reds.filter fun r => r.g == 0) = [] ∧ logged.asyncCode gid0 (gof logged) = some Code.redAsync) ∧
    Sound sv gid0 (gof sv) [(.ptr, r 4)] ∧ Issues sexp gid0 (gof sexp) ∧ Sound sexp gid0 (gof sexp) [(.ptr, r 0)] ∧
    (∀ l ∈ lanesOf (gof sexp).active, winOf (opnd sexp gid0 (gof sexp) .ptr (r 0) l) = .priv →
      (sexp.launch (sexp.team 0).lid).exportOk = true ∧ offOf (opnd sexp gid0 (gof sexp) .ptr (r 0) l) < (sexp.who gid0 (gof sexp) l).privSize) ∧
    winOf (opnd sexp gid0 (gof sexp) .ptr (r 0) 1) = .priv :=
  ⟨runs_sv, calm_sv, by decide +kernel, sound_of (by decide +kernel), runs_of (by decide +kernel), sound_of (by decide +kernel), by decide +kernel, by decide +kernel⟩
theorem witness_ComputingLeavesTheRest : Issues sv gid0 (gof sv) ∧ (∀ ty, ∀ o ∈ [r 0, r 1, r 0, r 1], (sv.read gid0 (gof sv) ty o).lost = none) ∧
    ∃ t, exec (.add (hd .i32) .wrap (r 0) (r 1)) sv = .next t := by
  refine ⟨runs_sv, ?_, ⟨_, rfl⟩⟩
  intro ty o h; cases ty <;> revert o <;> decide +kernel
theorem witness_ResultsLandInTheirValues : sv.group gid0 = some (gof sv) ∧ (gof sv).nat.on = false ∧ (hd .i32).dst = .flinal ∧ (hdE .i32).dst = .flinal := by decide +kernel

/-- R145, R151, R154: what lane 2 stores by a pointer lies in its four scratch bytes, little-endian, and reads back; the gather of lane 3 with scale 4 finds lane 3's word. -/
theorem test_store_load : (let t := next (exec (.st (hd .i32) 0 false .lane (r 4) (r 0)) sv)
    ((List.range 4).map fun i => t.at (.scratch 0 (8 + i))) == [2, 0, 0, 0] && t.at (.scratch 0 124) == 31 && (res (.ld (hd .i32) 0 false .lane (r 4)) t 9).1 == 9 &&
    (res (.gather (hd .i32) 0 2 false .x4 (r 0xFFE9) (r 0)) t 3).1 == 3 && (res (.ldk (hd .i8) 0 false .lane (r 0xFFE9) 12) t 0).1 == 3) = true := by decide +kernel
/-- R158: atoms of one lane: the old value comes back, the new one is in memory; cas writes on equal bits only. -/
theorem test_atomics : (let a := next (exec (.atom (hd .i32) 0 .add .relaxed .lane (r 4) (r 1)) sone)
    a.at (.scratch 0 12) == 7 && (res (.atom (hd .i32) 0 .add .relaxed .lane (r 4) (r 1)) sone 3).1 == 0 &&
    (next (exec (.cas (hd .i32) 0 .relaxed .lane (r 4) (r 1) (r 3)) a)).at (.scratch 0 12) == 1 &&
    (next (exec (.cas (hd .i32) 0 .relaxed .lane (r 4) (r 0) (r 1)) a)).at (.scratch 0 12) == 7) = true := by decide +kernel
/-- R147: a lane beyond the window stops the group with its address; one that is not aligned does too; nothing is stored. -/
theorem test_access_faults : (let small := rec' 452 4 64 sv
    stopped (.st (hd .i32) 0 false .lane (r 4) (r 0)) small Code.addrRange && (next (exec (.st (hd .i32) 0 false .lane (r 4) (r 0)) small)).at (.scratch 0 4) == 0 &&
    stopped (.ld (hd .i64) 0 false .lane (r 4)) sv Code.addrAlign && stopped (.ld (hd .i32) 0 false .lane (r 5)) s0 Code.pageMiss) = true := by decide +kernel

-- control ------------------------------------------------------------------------------------

/-- A diamond: block 0 parts to blocks 1 and 2, which meet in block 3. The group stands at the cbr. -/
def diamond : List W32 :=
  encode (.blk []) ++ encode (.cbr (r 3) 1 2 0 0 []) ++ encode (.blk []) ++ encode (.br 3 0 []) ++ encode (.blk []) ++ encode (.br 3 0 []) ++ encode (.blk []) ++ encode .ret
def sd (f : Group → Group) : State :=
  let s := State.reset.withWords diamond
  grp (fun g => f (g.setFrame { g.frame with word := 1, vals := (gof sv).frame.vals })) s
theorem witness_UniformBranchesJump : (let s := sd id
     Runs s ∧ (gof s).active ≠ 0 ∧ Whole s [(.i1, r 0xFFFF), (.i32, r 1)] ∧ (gof s).top.map DivEntry.p ≠ some 1 ∧ (s.blocksAt gid0 (gof s)).length = 4 ∧
     (∀ l, l < 32 → (gof s).active.getLsbD l → (opndBits s gid0 (gof s) .i1 (r 0xFFFF) l).getLsbD 0 = true) ∧ (1 : BitVec 16) ≠ 2 ∧
     (∀ l, l < 32 → (gof s).active.getLsbD l → (opndBits s gid0 (gof s) .i1 (r 0xFFFE) l).getLsbD 0 = false) ∧ (gof s).nat.on = false ∧
     (∀ l, l < 32 → (gof s).active.getLsbD l → (opnd s gid0 (gof s) .i32 (k 3) l).toNat = 3) ∧ (3 : Nat) < (4 : BitVec 10).toNat ∧
     (∀ l, l < 32 → (gof s).active.getLsbD l → (4 : BitVec 10).toNat ≤ (opnd s gid0 (gof s) .i32 (k 4) l).toNat)) := by decide +kernel
/-- At most 32 entries: a full stack, and one short of it. -/
def full (n : Nat) (g : Group) : Group := { g with div := List.replicate n ⟨9, 0, 0, []⟩ }
theorem witness_DivergentBranches : ([sd id, sd (full 32), sd (full 31)].all fun s =>
    let c (l : Nat) : Bool := (opndBits s gid0 (gof s) .i1 (r 3) l).getLsbD 0
    let mt := maskOf ((lanesOf (gof s).active).filter c)
    decide (Runs s) && decide (Whole s [(.i1, r 3)]) && mt == 0xAAAAAAAA && (gof s).active &&& ~~~ mt == 0x55555555 &&
    ipdom (cfg (items (s.wordsOf gid0 (gof s) (gof s).frame.func))) (gof s).frame.block == 3 && decide ((gof s).top.map DivEntry.p ≠ some 3)) = true ∧
    (gof (sd (full 32))).div.length = 32 ∧ (gof (sd (full 31))).div.length < 32 ∧ (1 : BitVec 16).toNat ≠ 3 ∧ (3 : BitVec 16).toNat = 3 := by decide +kernel
/-- R133, R136: the odd lanes take block 1 first, and the even ones wait for block 2. -/
theorem test_diverge : (let g := gof (next (exec (.cbr (r 3) 1 2 0 0 []) (sd id)))
    g.frame.block == 1 && g.frame.word == 4 && g.active == 0xAAAAAAAA && g.div == [⟨3, 0, 0, [(2, 0x55555555)]⟩] &&
    stopped (.cbr (r 3) 1 2 0 0 []) (sd (full 32)) Code.divDepth) = true := by decide +kernel

/-- A callee of one block with an entry in the cache of its class. -/
def scall (n : Nat) : State :=
  let s : State := { sv with dsp := { sv.dsp with modules := [{ oneWordModule diamond with funcs := (oneWordModule diamond).funcs ++
    [{ words := encode (.blk [.i32]) ++ encode .ret, kind := 0, nvals := n, nblocks := 1, nparam := 1, nspool := 0, attrs := [], refused := 0 }] }] } }
  { s with cache1 := { Cache.reset with entries := [⟨s.keyOf gid0 (gof s) 1 noResume, 0, 0, 0, false, 0, 1, 0⟩] } }
/-- The same group in the callee, called from block 0. -/
def sret : State := grp (fun g => { g with frames := [⟨1, 1, 0, g.frame.vals, 0, []⟩, { g.frame with word := 4 }] }) (scall 64)
theorem witness_CallsAndReturns : (let s := scall 64
     Runs s ∧ (match (s.lookup gid0 (gof s) (s.keyOf gid0 (gof s) 1 noResume)).1 with | .hit _ => true | _ => false) = true ∧ (gof s).frames ≠ []) ∧
    Runs sret ∧ (gof sret).frames.length = 2 ∧ (gof sret).top = none ∧ (gof sret).active ≠ 0 ∧ (gof sret).frame.rets = [] := by decide +kernel
/-- R140: a returned value goes to the caller's, and the caller goes on after its call. -/
theorem test_return : (let h := gof (next (exec (.retValues (r 1) none) sret))
    h.frame.func == 0 && h.frame.word == 4 && h.frames.length == 1 && laneAt (SMap.get Val.undef h.frame.vals 0).lanes 5 == 7) = true := by decide +kernel
theorem witness_ExitEndsLanes : (let s := rec' 452 4 256 s0
     Runs s ∧ ((s.team 0).reds.filter fun r => r.g == 0) = [] ∧ s.asyncCode gid0 (gof s) = none ∧ (gof s).div = [] ∧ (gof s).depth = 0 ∧ (gof s).saved = none) := by decide +kernel
theorem witness_SoftwareStops : Issues sv gid0 (gof sv) ∧ Sound sv gid0 (gof sv) [(.i32, r 1)] := ⟨runs_sv, sound_of (by decide +kernel)⟩
theorem witness_RaisingStopsTheGroup : Issues sv gid0 (gof sv) := runs_sv
/-- R142, R143: the codes of unreachable and trap, and trap's code and detail in the stop's record fields. -/
theorem test_traps : (stopped .unreachable sv 0x0204 && stopped (.trap 5) sv 0x0501 &&
    (match (gof (next (exec (.trapDetail 5 (r 1)) sv))).trap with | some t => t.d0 == 7 && t.d1 == 5 && t.reason == 2 | none => false)) = true := by decide +kernel

-- exceptions -----------------------------------------------------------------------------------

/-- A stop as it is raised. -/
def stop0 : Trap := { code := 0x0204, reason := 1, lane := 0xFFFFFFFF, d0 := 0, d1 := 0, word := 0, func := 0, double := false, opn := false }
/-- Job 0's tables in place, trap records at virtual address 0x10000, and a handler of job 1 in a module of job 0. -/
def shand (s : State) : State :=
  let m : Module := { handle := 2, job := 0, consts := [], funcs := [{ words := encode (.blk [.ptr]) ++ encode .tret, kind := 2, nvals := 8, nblocks := 1, nparam := 1, nspool := 0, attrs := [], refused := 0 }] }
  let s1 := mapped { s with dsp := { s.dsp with modules := s.dsp.modules ++ [m] } }
  let s2 := (s1.setJob 0 (s1.job 1)).setJob 1 { s1.job 1 with hmod := 2, hfunc := 0x80000000, route := 0 }
  s2.setCore 0 0 { s2.core 0 0 with trapbase := 0x10000 }
def stopping (g : Group) : Group := { g with status := .stopping, trap := some stop0 }
/-- A stop that goes to the handler, one that goes to the host, and one whose record has no page. -/
theorem witness_DrainedStopsAreReported : (let h := grp stopping (shand s0)
     let n := grp stopping (mapped s0)
     let p := grp stopping s0
     (h.group gid0 = some (gof h) ∧ (gof h).status = .stopping ∧ (gof h).trap = some stop0 ∧ h.halting (h.team 0).job = false ∧
       h.check ⟨0, 0, 0, 0, 0, []⟩ .write 0x10000 64 64 = .ok ∧ h.toHost gid0 stop0 = false) ∧
     ((gof n).status = .stopping ∧ (n.setJob 0 (n.job 1)).check ⟨0, 0, 0, 0, 0, []⟩ .write 0 64 64 = .ok ∧ n.toHost gid0 stop0 = true) ∧
     p.check ⟨0, 0, 0, 0, 0, []⟩ .write 0 64 64 ≠ .ok) ∧
    (let h := grp stopping (shand s0)
     (h.withdraw gid0).leaveMeetings gid0 = h) := by decide +kernel
theorem witness_HandlersAreEntered : (let h := grp stopping (shand s0)
    h.group gid0 = some (gof h) ∧ (gof h).status = .stopping ∧ (gof h).trap = some stop0 ∧ h.halting (h.team 0).job = false ∧ h.handler (h.team 0).job.toNat = some (2, 0)) := by decide +kernel
/-- A group in its handler, the interrupted context beside it. -/
def ctx0 : Ctx := { frames := [⟨0, 3, 0, [], 0, []⟩], div := [], active := 0xFF, trap := stop0, hasPoint := true, nat := .clear, waits := .clear, filled := false, begun := false }
def shin : State := grp (fun g => { g with saved := some ctx0, active := 0xFFFFFFFF }) (shand sv)
theorem witness_TretResumes : Issues sv gid0 (gof sv) ∧ (gof sv).saved = none ∧ (let s := shin
    Runs s ∧ (gof s).saved = some ctx0 ∧ ctx0.trap.code ≠ Code.trap ∧ (gof s).bankDone = false ∧ (gof s).preStop = false ∧ (s.team 0).fenced = false ∧
    s.checkSeg (supervisor gid0) .read false 0 4 (s.recAddr gid0 (gof s) + 44, 4) = .ok ∧ leNat (s.getBytes (supervisor gid0) (s.recAddr gid0 (gof s) + 44) 4) = 0) :=
  ⟨runs_sv, by decide +kernel, by decide +kernel⟩
/-- R218, R411: after tret the group stands where it was stopped, with its lanes, and waits for the translation of its function, which no entry holds. -/
theorem test_tret : (let g := gof (next (exec .tret shin))
    g.frame.word == 3 && g.active == 0xFF && g.saved == none && g.status == .xlat && stopped .tret sv 0x0228) = true := by decide +kernel
def held (g : Group) : Group := { g with status := .held, trap := some stop0 }
theorem witness_HostAnswersHeldGroups : (let s := grp held s0
    (0x80000000 : W32).getLsbD 31 = true ∧ fieldNat (0x80000000 : W32).toNat 7 6 = 0 ∧ fieldNat (0x80000080 : W32).toNat 7 6 = 2 ∧ fieldNat (0x800000C0 : W32).toNat 7 6 = 3 ∧
    (0x40 : W32).getLsbD 31 = false ∧
    ((s.bankGroups 0 0 ((0x80000000 : W32).toNat % 64 / 32)).find? fun i => match s.group i with
        | some x => x.status == .held && x.pos == (0x80000000 : W32).toNat % 64 % 32
        | none => false) = some gid0 ∧
    s.group gid0 = some (gof s) ∧ (gof s).saved = none ∧ (gof s).trap = some stop0 ∧ (gof s).noPoint = false ∧ stop0.code ≠ Code.trap ∧ (s.team 0).fenced = false) := by
  decide +kernel
/-- R408: the record of a drained stop stands at the group's place: its code, then its reason. -/
theorem test_record : (let t := next (exec (.faultDrainDone gid0) (grp stopping (shand s0)))
    ((List.range 4).map fun i => SMap.get 0 t.mem (0x100040010000 + i)) == [0x04, 0x02, 1, 0] && t.agenda == [.handlerEntry gid0]) = true := by decide +kernel

-- synchronisation ------------------------------------------------------------------------------

/-- Two groups of 32 lanes, the first issuing, with 256 bytes of scratch; value 0 the full lane mask, 1 the group mask, 2 a limit, 3 a pointer to 16 scratch bytes, 4 a spool, 5 a slot, 6 a phase. -/
def sbar (f : Team → Team) : State :=
  tm (fun t => f { t with groups := t.groups ++ [{ Group.fresh 0 1 1 [] with status := .ready }], spools := [⟨2, 16, 64, 1, 0, 1, 0, [], []⟩] })
    (rec' 448 1 2 (vals [u .i32 0xFFFFFFFF, u .i32 3, u .i64 100, u .ptr 0xFE00000000000010, u .hnd 0x0300000000000000, u .ptr 0xFE00000000000040, u .i32 0xFFFFFFFF] (rec' 452 4 256 s0)))
/-- An i32 operand read once for the group. -/
def el32 (s : State) (o : Opnd) : W32 := elected s gid0 (gof s) .i32 o
def bar0 (b : Bar) (t : Team) : Team := { t with bars := b :: t.bars.drop 1 }
theorem witness_BarriersMeet : (let s := sbar id
     Runs s ∧ Whole s [(.i32, r 0), (.i32, r 1)] ∧ ((s.team 0).reds.filter fun r => r.g == 0) = [] ∧ s.asyncCode gid0 (gof s) = none ∧ (s.team 0).bars.length = 16 ∧ (s.die 0).arrivals = [] ∧
     elected s gid0 (gof s) .i32 (r 0) = 0xFFFFFFFF ∧ elected s gid0 (gof s) .i32 (r 1) = 3 ∧
     (3 : W32).extractLsb' 16 15 = 0 ∧ ((3 : W32).extractLsb' 0 16).toNat < 2 ^ (s.team 0).groups.length ∧ ((3 : W32).extractLsb' 0 16).getLsbD 0 = true ∧
     (0xFFFFFFFF : W32) &&& ~~~ (gof s).ended = (gof s).active ∧ (s.barOf 0 0).opn = false ∧ (gof s).waits.bar = none ∧
     (3 : BitVec 16) &&& ~~~ (1 ||| (s.team 0).retired) ≠ 0) ∧
    (let last := sbar (bar0 { Bar.reset with opn := true, m := 3, arrived := 2 })
     Runs last ∧ (last.barOf 0 0).opn = true ∧ (last.barOf 0 0).arrived.getLsbD 0 = false ∧ (last.barOf 0 0).m = 3 ∧ (3 : BitVec 16) &&& ~~~ (((last.barOf 0 0).arrived ||| 1) ||| (last.team 0).retired) = 0) ∧
    (let again := sbar (bar0 { Bar.reset with opn := true, m := 3, arrived := 1 })
     (again.barOf 0 0).arrived.getLsbD 0 = true) ∧
    (let other := sbar (bar0 { Bar.reset with opn := true, m := 7, arrived := 2 })
     (other.barOf 0 0).m ≠ 3) ∧ (4 : W32).extractLsb' 0 16 = 4 ∧ ¬ (4 : BitVec 16).toNat < 2 ^ 2 ∧
    (let done := grp (fun g => { g with waits := { g.waits with bar := some ⟨0, 0, true, true⟩ } }) (sbar (bar0 { Bar.reset with c := 1 }))
     (gof done).waits.bar = some ⟨0, 0, true, true⟩ ∧ ((done.barOf 0 0).c - 0).toNat = 1) ∧
    (let parked := grp (fun g => { g with waits := { g.waits with bar := some ⟨0, 0, false, false⟩ } }) (sbar id)
     ((parked.barOf 0 0).c - 0).toNat = 0) := by decide +kernel
/-- R364: the first arrival parks, the last completes the phase, and a group that is not a member stops. -/
theorem test_barrier : (let first := next (exec (.bar (hdE .i1) 0 (r 0) (r 1)) (sbar id))
    (gof first).status == .wait && (first.barOf 0 0).arrived == 1 &&
    (let last := next (exec (.bar (hdE .i1) 0 (r 0) (r 1)) (sbar (bar0 { Bar.reset with opn := true, m := 3, arrived := 2 })))
     (last.barOf 0 0).c == 1 && (last.barOf 0 0).opn == false && laneAt (SMap.get Val.undef (gof last).frame.vals 0).lanes 0 == 1) &&
    stopped (.barArrive (hd .i32) 0 (r 0) (k 2)) (sbar id) 0x0220) = true := by decide +kernel
/-- A phase that is one past, and one not yet reached; a time limit not begun, over, and running. -/
theorem witness_WaitsReturn : (let s := sbar id
     Runs s ∧ (gof s).nat.on = false ∧ Whole s [(.i32, r 6), (.i64, r 2), (.ptr, r 3), (.hnd, r 4)] ∧ ((s.barOf 0 0).c - el32 s (r 6)).toNat = 1 ∧
     ((s.barOf 0 0).c - el32 s (k 0)).toNat = 0 ∧ (gof s).waits.tstart = none ∧ (s.bay 0 (bayOf 0)).cycles.toNat < 0 + 100 ∧
     (elected s gid0 (gof s) .ptr (r 3)).toNat / 2 ^ 56 = 0xFE ∧ (elected s gid0 (gof s) .ptr (r 3)).toNat % 16 = 0 ∧ 16 + 16 ≤ (s.launch 0).scratch ∧
     (s.team 0).word (16 + 8) = 0 ∧ (s.team 0).word 16 = 0 ∧ (elected s gid0 (gof s) .hnd (r 4)).toNat / 2 ^ 56 = 3 ∧ (s.team 0).spools[0]? = some ⟨2, 16, 64, 1, 0, 1, 0, [], []⟩ ∧
     ((1 : W32) - 0).toNat < 2) ∧
    (let counted := tm (fun t => { t with scratch := [(16, 1)] }) (sbar id)
     (counted.team 0).word 16 ≠ 0) ∧
    (let passed := grp (fun g => { g with status := .wait, waits := { g.waits with tstart := some (0, 0) } }) (sbar id)
     (gof passed).status = .wait ∧ (gof passed).waits.tstart = some (0, 0) ∧ 0 + 0 ≤ (passed.bay 0 (bayOf 0)).cycles.toNat ∧ 0 + 0 < 2 ^ 64) ∧
    ¬ (elected (sbar id) gid0 (gof (sbar id)) .ptr (k 8)).toNat / 2 ^ 56 = 0xFE ∧ 2 ≤ ((2 : W32) - 0).toNat := by decide +kernel
/-- R338, R371: a wait on a count of zero goes on; on another it parks; a timed wait whose limit is 0 delivers 0. -/
theorem test_waits : (let counted := tm (fun t => { t with scratch := [(16, 1)] }) (sbar id)
    (next (exec (.xbWait (r 3)) (sbar id))).agenda == [.courseEnd gid0] && (gof (next (exec (.xbWait (r 3)) counted))).status == .wait &&
    (res (.xbWaitTimed (hdE .i1) (r 3) (k 0)) counted 0).1 == 0 && (res (.xbWaitTimed (hdE .i1) (r 3) (k 0)) (sbar id) 0).1 == 1 && stopped (.xbWait (r 5)) (rec' 452 4 64 (sbar id)) 0x021C) = true := by
  decide +kernel
/-- Spools with a slot to claim and none, filled and not, committed and released in order and out of place; phases of one group. -/
theorem witness_ByteCountsSpoolsAndPhases : (let s := sbar id
     Runs s ∧ ((s.team 0).reds.filter fun r => r.g == 0) = [] ∧ s.asyncCode gid0 (gof s) = none ∧ (gof s).nat.on = false ∧ Whole s [(.ptr, r 3), (.i32, r 1), (.hnd, r 4), (.ptr, r 5)] ∧
     (elected s gid0 (gof s) .ptr (r 3)).toNat / 2 ^ 56 = 0xFE ∧ (elected s gid0 (gof s) .hnd (r 4)).toNat / 2 ^ 56 = 3 ∧
     ((s.team 0).spools[0]?.map fun q => decide ((q.claim - q.head).toNat < q.n) && q.take != q.tail && q.tail != q.claim && elected s gid0 (gof s) .ptr (r 5) == BitVec.ofNat 64 (0xFE * 2 ^ 56 + q.base + q.tail.toNat % q.n * q.b)
       && !q.filled.contains q.tail && q.head != q.take && elected s gid0 (gof s) .ptr (r 5) == BitVec.ofNat 64 (0xFE * 2 ^ 56 + q.base + q.head.toNat % q.n * q.b) && !q.freed.contains q.head) = some true ∧
     (s.launch 0).phased = false) ∧
    (let whole := tm (fun t => { t with spools := [⟨2, 16, 64, 2, 2, 2, 0, [], []⟩] }) (sbar id)
     ((whole.team 0).spools[0]?.map fun q => decide (q.n ≤ (q.claim - q.head).toNat) && q.take == q.tail && (q.claim - q.tail).toNat == 0) = some true) := by decide +kernel
/-- R345, R346: a claim gives the next slot, a full spool gives 0, a slot that is not claimed cannot be committed. -/
theorem test_spools : ((res (.spoolClaim (hd .ptr) (r 4)) (sbar id) 0).1 == 0xFE00000000000050 &&
    (res (.spoolClaim (hd .ptr) (r 4)) (tm (fun t => { t with spools := [⟨2, 16, 64, 2, 2, 2, 0, [], []⟩] }) (sbar id)) 0).1 == 0 &&
    ((next (exec (.spoolCommit (hd .void) (r 4) (r 5)) (sbar id))).team 0).spools.map Spool.tail == [1] && stopped (.spoolCommit (hd .void) (r 4) (r 3)) (sbar id) 0x021D) = true := by decide +kernel
/-- A launch whose kernel declares phases (R372): phase 1 writes bytes 0-15, phase 2 reads bytes 8-23, phase 3 nothing; group 1 holds phase 2. -/
def sphase : State :=
  let it (p dir lo hi : Nat) : List Byte := natLe 6 1 ++ natLe p 1 ++ natLe dir 1 ++ [0] ++ natLe lo 4 ++ natLe hi 4 ++ natLe 0 4
  let m := oneWordModule []
  let s := tm (fun t => { t with groups := t.groups.map fun g => if g.pos = 1 then { g with phase := some 2 } else g }) (rec' 464 8 1 (rec' 2 2 1 (rec' 8 8 1 (sbar id))))
  { s with dsp := { s.dsp with modules := [{ m with funcs := m.funcs.map fun f => { f with attrs := [it 1 1 0 16, it 2 0 8 24] } }] } }
theorem witness_phases : Runs sphase ∧ (sphase.launch 0).phased = true ∧ ((sphase.team 0).phasesHeld 0).all (fun q => !sphase.conflict 0 3 q) = true ∧
    (sphase.team 0).phasesHeld 0 = [2] ∧ sphase.conflict 0 1 2 = true := by decide +kernel
/-- R373: phase 1 conflicts with the phase held, phase 3 does not. -/
theorem test_phases : (stopped (.phaseDecl 1) sphase 0x0222 && (gof (next (exec (.phaseDecl 3) sphase))).phase == some 3) = true := by decide +kernel

-- Hods, streams, emits -------------------------------------------------------------------------

/-- A copy request of R331. -/
def hreq (op flags len src dst xb pat : Nat) : List Byte :=
  natLe op 1 ++ natLe flags 1 ++ [0, 0] ++ natLe len 4 ++ natLe src 8 ++ natLe dst 8 ++ natLe xb 8 ++ natLe pat 4 ++ List.replicate 28 0
/-- The next GiB of job 1 lies behind peer link 0 (R333), which is up. -/
def peered (s : State) : State :=
  { s with mem := s.mem ++ [(0x100000008008, 0x1F), (0x10000000800B, 0x40), (0x10000000800D, 0x10)], boot := { s.boot with peersPresent := 1, peersUp := 1 } }
/-- Bytes in scratch, by rising addresses: the bytes that are not 0 are listed. -/
def lay (l : List (Nat × List Byte)) (s : State) : State :=
  tm (fun t => { t with scratch := l.flatMap fun p => ((List.range p.2.length).zip p.2).filterMap fun q => if q.2 = 0 then none else some (p.1 + q.1, q.2) }) s
/-- Ring entry 0 of Hod 0 is a FILL of 32 bytes at scratch 0x3000; a put, a get and a bind stand at 0x2000; a stream of 64 bytes and a spool of 32-byte slots. -/
def shod : State :=
  let s := vals [u .i32 1, u .ptr 0xFE00000000002000, u .ptr 0xFE00000000002040, u .ptr 0xFE00000000002080, u .hnd 0x0200000000000000, u .i32 65, u .hnd 0x0300000000000000, (.i8, lanes32.map (BitVec.ofNat 64))]
    (rec' 452 4 16384 (peered (mapped s0)))
  lay [(0, hreq 2 0 32 0 0xFE00000000003000 0 0x01020304), (0x2000, hreq 0 0 16 0xFE00000000003000 0x40000000 0 0), (0x2040, hreq 0 0 16 0x40000000 0xFE00000000003000 0 0),
      (0x2080, hreq 0 0 32 0xFE00000000003000 0 0 0)]
    (tm (fun t => { t with streams := [⟨64, (List.range 64).map (BitVec.ofNat 8), 0, 64, false, 0, 47⟩], spools := [⟨2, 32, 64, 0, 0, 0, 0, [], []⟩] }) s)
def okPlan (x : HodRes) : Bool := match x with | .ok _ => true | _ => false
def req0 (s : State) (o : Opnd) : List Byte := s.getBytes (s.who gid0 (gof s) 0) (elected s gid0 (gof s) .ptr o) 64
def w0 (s : State) : Who := { s.who gid0 (gof s) 0 with privSize := 0 }
/-- A copy of the FILL in flight, and the ring with one entry kicked. -/
def fill0 : Copy := ⟨hreq 2 0 32 0 0xFE00000000003000 0 0x01020304, 0xFE00000000000000, [], [], 0, .kicked, 0, 1, none, [0, 1], [], false, true, false, 0⟩
def skick : State := tm (fun t => { t with hod0 := ⟨1, 0, [⟨0, none, 1⟩]⟩ }) shod
def scopy : State := tm (fun t => { t with copies := [fill0] }) shod
theorem witness_HodCopies : (let s := shod
     Runs s ∧ (gof s).nat.on = false ∧ Whole s [(.i32, r 0), (.ptr, r 1), (.hnd, r 4)] ∧ 4096 * (0 + 1) ≤ (s.launch 0).scratch ∧ el32 s (r 0) = 1 ∧ el32 s (r 5) = 65 ∧
     ((s.team 0).ring 0).kicks.length + 1 + (s.team 0).heldCount 0 ≤ 64 ∧ s.inflight 0 0 < 256 ∧ (s.freeFifo 0 0).isSome = true ∧
     s.checkSeg (s.who gid0 (gof s) 0) .read false 0 64 (0xFE00000000002000, 64) = .ok ∧ okPlan (s.hodIssue (w0 s) 0 none (req0 s (r 1)) .put) = true ∧
     okPlan (s.hodIssue (w0 s) 0 none (req0 s (r 2)) .get) = true ∧ okPlan (s.hodIssue (w0 s) 0 none (req0 s (r 3)) .bind) = true ∧
     (elected s gid0 (gof s) .hnd (r 4)).toNat / 2 ^ 56 = 2 ∧ ((s.team 0).streams[0]?.map fun x => !x.busy && decide (x.taken < x.len) && decide (32 ≤ x.buf.length)) = some true) ∧
    (let stream (x : Stream) : State := tm (fun t => { t with streams := [x] }) shod
     ((stream ⟨64, [], 0, 0, true, 0, 47⟩).team 0).streams.map Stream.busy = [true] ∧ ((stream ⟨64, [], 64, 64, false, 0, 47⟩).team 0).streams.map (fun x => decide (x.len ≤ x.taken)) = [true] ∧
     ((stream ⟨64, [], 0, 0, false, 0, 47⟩).team 0).streams.map (fun x => decide (x.buf.length < Nat.min 32 (x.len - x.taken)) && x.fail == 0) = [true]) ∧
    (let s := skick
     (s.team 0).fenced = false ∧ (s.team 0).state = .resident ∧ (s.heldReady 0 0 0 (s.team 0).copies 0).isNone = true ∧ ((s.team 0).ring 0).kicks = [⟨0, none, 1⟩] ∧
     okPlan (s.hodIssue ⟨1, 0, 0, 0, 0, []⟩ 0 none (SMap.bytes (s.team 0).scratch 0 64) .kick) = true) ∧
    (let s := scopy
     (s.team 0).copies[0]? = some fill0 ∧ fill0.left.contains 1 = true ∧ s.away (s.team 0).job = false ∧ opc fill0.req = 2 ∧ reqDstg fill0.req = false ∧ reqXb fill0.req = 0 ∧
     winOf (reqDst fill0.req + BitVec.ofNat 64 (16 * 1)) = .scratch ∧ s.checkSeg (fill0.who 0) .write true 0 1 (reqDst fill0.req + BitVec.ofNat 64 (16 * 1), 16) = .ok) := by decide +kernel
/-- R332, R343: chunk 1 of the fill writes its pattern; sread of i8 gives lane 5 byte 5; 65 entries do not fit the ring. -/
theorem test_hods : (let t := next (exec (.hodChunkDone 0 0 1) scopy)
    ((List.range 5).map fun i => SMap.get 0 (t.team 0).scratch (0x300F + i)) == [0, 4, 3, 2, 1] && (t.team 0).copies.map Copy.left == [[0]] &&
    (res (.sread (hdE .i8) (r 4)) shod 5).1 == 5 && stopped (.hodKick (hd .void) 0 (r 5)) shod Code.hodRing &&
    SMap.get 0 ((next (exec (.hodFetch 0 0) skick)).team 0).scratch 0 == 0xFF) = true := by decide +kernel
/-- An emit to the spool: a free slot, no slot, a slot too small. -/
theorem witness_emits : (let s := shod
     let record : List Byte := (List.range 32).map (BitVec.ofNat 8)
     let small := tm (fun t => { t with spools := [⟨2, 16, 64, 0, 0, 0, 0, [], []⟩] }) s
     let taken := tm (fun t => { t with spools := [⟨2, 32, 64, 2, 0, 0, 0, [], []⟩] }) s
     Whole s [(.i8, r 7), (.hnd, r 6)] ∧ (elected s gid0 (gof s) .hnd (r 6)).toNat / 2 ^ 56 = 3 ∧ s.emitCan gid0 (gof s) 2 record (some 0) = .yes ∧ taken.emitCan gid0 (gof taken) 2 record (some 0) = .wait ∧
     small.emitCan gid0 (gof small) 2 record (some 0) = .fault Code.emitSize ∧ (s.team 0).spools[0]? = some ⟨2, 32, 64, 0, 0, 0, 0, [], []⟩ ∧ 64 + 2 * 32 ≤ 2 ^ 32) := by decide +kernel
/-- R128: the record lies in the claimed slot, and the slot is committed. -/
theorem test_emit : (let t := next (exec (.emit (hdE .i8) 4 (r 7) (some (r 6))) shod)
    SMap.get 0 (t.team 0).scratch (64 + 9) == 9 && (t.team 0).spools.map (fun q => (q.claim, q.tail)) == [(1, 1)]) = true := by decide +kernel

-- the Reel ---------------------------------------------------------------------------------------

/-- Values: key, hint, x, y, a payload in scratch, 0; a quota of 2 slots. -/
def sreel (f : Group → Group) : State :=
  grp f (rec' 460 4 2 (rec' 452 4 256 (vals [u .i64 5, u .i32 512, u .i64 7, u .i64 0x10000000000000, u .ptr 0xFE00000000000040, u .ptr 0] s0)))
def held2 (s : State) : State := la (fun l => { l with reelHeld := 2 }) s
def req1 (k : ReelKind) : ReelReq := ⟨k, 0, 0, 0, 1, 5, none, 0, 0, false, false, 1, 0, none⟩
def port (n : Nat) (k : ReelKind) (s : State) : State := s.setCore 0 0 { s.core 0 0 with port := List.replicate n (req1 k) }
theorem witness_ReelInstructions : (let s := sreel id
     Runs s ∧ ((s.team 0).reds.filter fun r => r.g == 0) = [] ∧ s.asyncCode gid0 (gof s) = none ∧
     Whole s [(.i64, r 0), (.i32, r 1), (.i64, r 2), (.i64, r 3), (.ptr, r 4), (.ptr, r 4), (.ptr, r 5)] ∧ (gof s).waits.reelRes = none ∧ (gof s).waits.reelReq = none ∧
     2 ^ 52 ≤ (elected s gid0 (gof s) .i64 (r 3)).toNat ∧ (elected s gid0 (gof s) .i64 (r 0)).toNat < 2 ^ 52 ∧ (s.launch 0).reelHeld < (s.launch 0).reelq ∧
     elected s gid0 (gof s) .ptr (r 4) ≠ 0 ∧ s.checkSeg (s.who gid0 (gof s) 0) .read false 0 64 (0xFE00000000000040, 64) = .ok ∧ winOf 0xFE00000000000040 ≠ .priv ∧
     s.reel.blocked.contains (s.team 0).job = false ∧ s.reel.byp.getLsbD 0 = false ∧ (s.core 0 0).port.length ≤ 11 ∧
     s.checkSeg (s.who gid0 (gof s) 0) .write false 0 64 (0xFE00000000000040, 64) = .ok ∧ winOf 0xFE00000000000040 = .scratch ∧ elected s gid0 (gof s) .ptr (r 5) = 0 ∧
     (∀ q ∈ (gof s).reelSince, q.2 ≤ (s.slot q.1).seams)) ∧
    ((held2 (sreel id)).launch 0).reelq ≤ ((held2 (sreel id)).launch 0).reelHeld ∧ 12 ≤ ((port 12 (.alight 0 0) (sreel id)).core 0 0).port.length ∧
    ((port 11 (.alight 0 0) (sreel id)).core 0 0).port.length ≤ 11 ∧ ((port 15 (.alight 0 0) (sreel id)).core 0 0).port.length < 16 ∧
    16 ≤ ((port 16 (.alight 0 0) (sreel id)).core 0 0).port.length ∧
    (gof (sreel fun g => { g with waits := { g.waits with reelRes := some 9 } })).waits.reelRes = some 9 := by decide +kernel
/-- R386, R388: a capture of a key beyond 52 bits stops; a full quota stops a board; a board parks its group with its payload at the stop. -/
theorem test_reel : (stopped (.reelCapture (hdE .i64) .read 0 .relaxed (r 3) (r 1) (r 2) (r 2)) (sreel id) 0x0224 && stopped (.reelBoard (hdE .i32) (r 0) (r 4)) (held2 (sreel id)) 0x0225 &&
    (let t := next (exec (.reelBoard (hdE .i32) (r 0) (r 4)) (sreel id))
     (gof t).status == .wait && (t.core 0 0).port.map ReelReq.key == [5])) = true := by decide +kernel
def live1 (st : SlotState) : ReelSlot := { ReelSlot.reset with st := st, job := 1, key := 5, fields := [3, 0, 0, 0, 0, 0, 0, 0], dst := 0xFE00000000000040 }
def ring (x : ReelSlot) (n : Nat) (k : ReelKind) : State :=
  let s := la (fun l => { l with reelHeld := 2 }) (port n k (sreel fun g => { g with status := .wait, waits := { g.waits with reelReq := some 0 } }))
  { s with time := 1, reel := { s.reel with slots := SMap.put ReelSlot.reset [] 1 x } }
/-- Slot 1 at stop 0 of CD0: a board, a capture and an alight that can act; at the seam a boarding slot and one that is written out; a search that failed. -/
theorem witness_ReelPassages : ([ring .reset 1 (.board [1, 2, 3, 4, 5, 6, 7, 8]), ring (live1 .live) 1 (.capture .add 0 7 0), ring (live1 .live) 1 (.alight 0xFE00000000000040 0)].all fun s =>
      ((s.core 0 0).port.find? fun q => s.reelCan 1 (s.slot 1) q).isSome && !s.reel.byp.getLsbD 0 && !(s.launch 0).det && (s.time + 512 - 1) % 512 == 0) = true ∧
    (let s : State := { ring (live1 .live) 1 (.capture .add 0 7 0) with time := 600 }
     (s.time + 512 - 1) % 512 ≠ 0 ∧ ¬ (s.time + 512 - 1) % 512 ≤ 0 ∧ (s.time + 512 - 1) % 512 ≤ 128 ∧ (1 : Nat) < 4) ∧
    (let s := ring (live1 .boarding) 0 .fence
     s.reel.sweep ≠ some (s.slot 1).job ∧ s.gridOver (s.slot 1).grid = false ∧ (s.slot 1).st = .boarding) ∧
    (let s := ring (live1 .alighting) 0 .fence
     let x := s.slot 1
     x.st = .alighting ∧ winOf x.dst = .scratch ∧ x.dst.toNat % 2 ^ 56 + 64 ≤ (s.launch (s.team x.dtid).lid).scratch ∧ x.dst.toNat % 64 = 0 ∧ x.done = 0 ∧ x.fields.length = 8 ∧ 1 < (s.launch x.grid).reelHeld) ∧
    (let s : State := (ring .reset 0 .fence).setCore 0 0 { (ring .reset 0 .fence).core 0 0 with port := [{ req1 (.capture .add 0 7 0) with passes := 512 }] }
     ((s.core 0 0).port[0]?.map fun q => decide (512 ≤ q.passes)) = some true ∧ (s.group gid0).isSome = true) := by decide +kernel
/-- R388, R389: the capture adds 7 to the field's 3 and delivers 3; the seam writes an alighting slot out and empties it. -/
theorem test_passage : (let t := next (exec (.reelPassage 1 0 0) (ring (live1 .live) 1 (.capture .add 0 7 0)))
    (t.slot 1).fields.getD 0 0 == 10 && (gof t).waits.reelRes == some 3 && (gof t).status == .ready &&
    (let v := next (exec (.seamPassage 1) (ring (live1 .alighting) 0 .fence))
     (v.slot 1).st == .empty && SMap.get 0 (v.team 0).scratch 64 == 3)) = true := by decide +kernel

-- the matrix engine --------------------------------------------------------------------------------

/-- A tensor record of R166: base, extents, strides from dimension 1, tile, slot 0. -/
def trec (base : Nat) (ext strides tile : List Nat) : List Byte :=
  natLe base 8 ++ (List.range 5).flatMap (fun i => natLe (ext.getD i 0) 4) ++ (List.range 4).flatMap (fun i => natLe (strides.getD i 0) 6) ++
  (List.range 5).flatMap (fun i => natLe (tile.getD i 0) 2) ++ natLe (8 * ext.length) 1 ++ [0]
def sc (n : Nat) : Nat := 0xFE00000000000000 + n
/-- A parameter block of R168: records, AUX pointers, ACC, FLAGS, SHAPE, SP_N, SP_K. -/
def pblk (r0 r1 a0 a1 flags shape spn spk : Nat) : List Byte :=
  natLe r0 8 ++ natLe r1 8 ++ List.replicate 16 0 ++ natLe a0 8 ++ natLe a1 8 ++ List.replicate 46 0 ++ natLe flags 1 ++ natLe shape 1 ++ [0, 0] ++ natLe spn 1 ++ natLe spk 1 ++ List.replicate 28 0
/-- Slot 0 holds unscaled i8; a 2 × 4 matrix at scratch 0x100, a sparse one of 3 values at 0x180; records from 0x800, arrays from 0xA00, parameter blocks from 0x1000. -/
def smx : State :=
  let s := vals [u .ptr 0xFE00000000001000, u .ptr 0xFE00000000001080, u .ptr 0xFE00000000001100, u .ptr 0xFE00000000001180, u .ptr 0xFE00000000001200, u .ptr 0xFE00000000001280,
      u .hnd 0x0200000000000000, u .hnd 0x0100000000000000] (rec' 324 1 4 (rec' 320 1 2 (rec' 452 4 16384 s0)))
  lay [(0x100, [1, 2, 3, 0xFF]), (0x110, [4, 5, 6, 7]), (0x180, [9, 8, 7]), (0x800, trec (sc 0x100) [4, 2] [16] [4, 2]), (0x840, trec (sc 0x180) [3] [] [3]), (0x880, trec (sc 0x200) [2, 2] [16] [2, 2]),
      (0x8C0, trec (sc 0x300) [2, 2] [16] [2, 2]), (0xA00, natLe 0 4 ++ natLe 2 4 ++ natLe 3 4), (0xA40, natLe 0 4 ++ natLe 2 4 ++ natLe 1 4),
      (0x1000, pblk (sc 0x800) 0 0 0 0x20 0 0 0), (0x1080, pblk (sc 0x800) 0 0 0 0x21 0 0 0), (0x1100, pblk (sc 0x840) 0 (sc 0xA00) (sc 0xA40) 0 0 2 4), (0x1180, pblk (sc 0x800) (sc 0x880) (sc 0xA80) 0 0 4 0 0),
      (0x1200, pblk (sc 0x8C0) 0 0 0 2 0 0 0), (0x1280, pblk (sc 0x8C0) 0 0 0 2 0 0 0)]
    (tm (fun t => { t with acct := 1, streams := [⟨64, [], 0, 0, false, 0, 47⟩], toks := [⟨true, false, none, 0, 0, none, false⟩, ⟨false, false, none, 0, 0, none, false⟩, ⟨true, true, none, 0, 0, none, true⟩] }) s)
/-- The bank with the matrix as its active plane, signed, and a tile of four sums. -/
def plane0 : Plane := ⟨true, 4, 2, 0, true, true, 0, [(0, some 1), (1, some 2), (2, some 3), (3, some 0xFFFFFFFFFFFFFFFF), (128, some 4), (129, some 5), (130, some 6), (131, some 7)]⟩
def tile0 : Tile := ⟨true, [(0, 15), (1, 25), (64, 25), (65, 126)], true, none⟩
def bk (f : Bank → Bank) (s : State) : State := s.setCore 0 0 ((s.core 0 0).setBank 0 (f ((s.core 0 0).bank 0)))
def sst : State := bk (fun b => { b with act := plane0, tiles := [(0, tile0)] }) smx
/-- A command of group 0 in bank 0's queue. -/
def qd (op : MxOp) (pb r0 r1 : Nat) (rowptr cols : List Nat) (s : State) : State :=
  bk (fun b => { b with queue := [⟨op, SMap.bytes (s.team 0).scratch pb 128, SMap.bytes (s.team 0).scratch r0 64, if r1 = 0 then [] else SMap.bytes (s.team 0).scratch r1 64, 0, 0, 0, 1, 1, [], rowptr, cols, []⟩] }) s
def qbank (s : State) : Bank := ((next (exec (.mxCommandDone 0 0 0) s)).core 0 0).bank 0
def qscr (s : State) : SMap Byte := ((next (exec (.mxCommandDone 0 0 0) s)).team 0).scratch
/-- MxReady as one conjunction, which evaluates. -/
theorem mxReady_of {s : State} {gid : GId} {g : Group} {op : MxOp} {slot : Nat} {p : W64} {b0 b1 : List Byte} {rowptr cols : List Nat}
    (h : (((s.team gid.tid).reds.filter fun r => r.g == gid.g) = []) ∧
    (op = .compress → s.boot.mode ≠ 0) ∧
    (s.checkSeg (s.who gid g 0) .read false 0 64 (p, 128) = .ok) ∧
    (winOf p ≠ .priv) ∧
    (s.checkSeg (s.who gid g 0) .read false 0 64 (pbRec0 (s.getBytes (s.who gid g 0) p 128), 64) = .ok) ∧
    (b0 = s.getBytes (s.who gid g 0) (pbRec0 (s.getBytes (s.who gid g 0) p 128)) 64) ∧
    (op = .compress → s.checkSeg (s.who gid g 0) .read false 0 64 (pbRec1 (s.getBytes (s.who gid g 0) p 128), 64) = .ok) ∧
    (b1 = if op = .compress then s.getBytes (s.who gid g 0) (pbRec1 (s.getBytes (s.who gid g 0) p 128)) 64 else []) ∧
    (paramOk op (s.getBytes (s.who gid g 0) p 128) ((s.launch (s.team gid.tid).lid).slot slot) = true) ∧
    (paramRec0Ok op (s.getBytes (s.who gid g 0) p 128) slot (Rec.ofBytes b0) = true) ∧
    (op = .compress → paramRec1Ok (s.getBytes (s.who gid g 0) p 128) (Rec.ofBytes b1) = true) ∧
    (pbXb (s.getBytes (s.who gid g 0) p 128) = 0 ∨ s.xbOk gid.tid (pbXb (s.getBytes (s.who gid g 0) p 128)) = true) ∧
    (rawForm op (s.getBytes (s.who gid g 0) p 128) = true ∨ ((s.launch (s.team gid.tid).lid).slot slot).isEmpty = false) ∧
    (rawForm op (s.getBytes (s.who gid g 0) p 128) = true ∨ (elemOk op ((s.launch (s.team gid.tid).lid).slot slot) = true ∧
     (Rec.ofBytes b0).slot = slot ∧ (op = .compress → (Rec.ofBytes b1).slot = slot))) ∧
    (s.planeMixed op ((s.launch (s.team gid.tid).lid).slot slot) (s.team gid.tid) gid.tid = false) ∧
    ((Rec.ofBytes b0).check (if rawForm op (s.getBytes (s.who gid g 0) p 128) then Elem.raw else ((s.launch (s.team gid.tid).lid).slot slot).elemOf)
     (orgOf (pbOrg (s.getBytes (s.who gid g 0) p 128)) 0) op.isDrain = none) ∧
    (op = .compress → (Rec.ofBytes b1).check ((s.launch (s.team gid.tid).lid).slot slot).elemOf
     (orgOf (pbOrg1 (s.getBytes (s.who gid g 0) p 128)) 0) true = none) ∧
    ((Rec.ofBytes b0).empty = false) ∧
    (op = .compress → (Rec.ofBytes b1).empty = false) ∧
    (s.shapeCheck op (s.getBytes (s.who gid g 0) p 128) ((s.launch (s.team gid.tid).lid).slot slot) (Rec.ofBytes b0) (Rec.ofBytes b1) (s.team gid.tid) gid.tid = none) ∧
    (rowptr = if op = .spgather then s.i32s { s.who gid g 0 with privSize := 0 } (pbAux0 (s.getBytes (s.who gid g 0) p 128)) (pbSpn (s.getBytes (s.who gid g 0) p 128) + 1) else []) ∧
    (cols = if op = .spgather then s.i32s { s.who gid g 0 with privSize := 0 } (pbAux1 (s.getBytes (s.who gid g 0) p 128)) ((Rec.ofBytes b0).t 0) else []) ∧
    (op = .spgather →
     s.checkTouches { s.who gid g 0 with privSize := 0 } none ((touches op (s.getBytes (s.who gid g 0) p 128) ((s.launch (s.team gid.tid).lid).slot slot)
     (Rec.ofBytes b0) (Rec.ofBytes b1)).filter fun x => x.opnd == 4 || x.opnd == 5) = .ok ∧
     sparseOk (pbSpn (s.getBytes (s.who gid g 0) p 128)) (pbSpk (s.getBytes (s.who gid g 0) p 128)) ((Rec.ofBytes b0).t 0) rowptr cols = true) ∧
    (g.credits ≠ 0) ∧
    (s.checkTouches { s.who gid g 0 with privSize := 0 } g.phase
     (touches op (s.getBytes (s.who gid g 0) p 128) ((s.launch (s.team gid.tid).lid).slot slot) (Rec.ofBytes b0) (Rec.ofBytes b1)) = .ok) ∧
    (s.mxHeld (s.team gid.tid) op (s.getBytes (s.who gid g 0) p 128) = false)) :
    MxReady s gid g op slot p b0 b1 rowptr cols := by
  obtain ⟨h0, h1, h2, h3, h4, h5, h6, h7, h8, h9, h10, h11, h12, h13, h14, h15, h16, h17, h18, h19, h20, h21, h22, h23, h24, h25⟩ := h
  exact ⟨h0, h1, h2, h3, h4, h5, h6, h7, h8, h9, h10, h11, h12, h13, h14, h15, h16, h17, h18, h19, h20, h21, h22, h23, h24, h25⟩
def readyAt (s : State) (op : MxOp) (p : BitVec 16) (r0 r1 : Nat) (rowptr cols : List Nat) : Prop :=
  MxReady s gid0 (gof s) op 0 (elected s gid0 (gof s) .ptr (r p)) (SMap.bytes (s.team 0).scratch r0 64) (if r1 = 0 then [] else SMap.bytes (s.team 0).scratch r1 64) rowptr cols
theorem ready_ldst : readyAt smx .ldst 0 0x800 0 [] [] := mxReady_of (by decide +kernel)
theorem ready_stream : readyAt sst .stream 1 0x800 0 [] [] := mxReady_of (by decide +kernel)
theorem ready_bound : readyAt sst (.bound 0) 1 0x800 0 [] [] := mxReady_of (by decide +kernel)
theorem ready_spgather : readyAt smx .spgather 2 0x840 0 [0, 2, 3] [0, 2, 1] := mxReady_of (by decide +kernel)
theorem ready_compress : readyAt smx .compress 3 0x800 0x880 [] [] := mxReady_of (by decide +kernel)
theorem ready_drain : readyAt smx .drain 4 0x8C0 0 [] [] := mxReady_of (by decide +kernel)
theorem ready_drainAdd : readyAt smx .drainAdd 5 0x8C0 0 [] [] := mxReady_of (by decide +kernel)
theorem witness_MatrixCommands : Runs smx ∧ Whole smx [(.ptr, r 0), (.hnd, r 6), (.hnd, r 7)] ∧ (elected smx gid0 (gof smx) .hnd (r 6)).toNat / 2 ^ 56 = 2 ∧
    (smx.team 0).streams.map Stream.busy = [false] ∧ (elected smx gid0 (gof smx) .hnd (r 7)).toNat / 2 ^ 56 = 1 ∧ (smx.team 0).toks.map (fun k => (k.retired, k.done)) = [(false, true), (false, false), (true, true)] ∧
    ((smx.core 0 0).bank 0).queue = [] ∧ (((next (exec (.mxLdst (hd .hnd) 0 (r 0)) smx)).core 0 0).bank 0).queue ≠ [] ∧
    (elected smx gid0 (gof smx) .hnd (r 6)).toNat / 2 ^ 56 ≠ 1 := by decide +kernel
/-- One command in the queue of bank 0, which can be performed. -/
def doable (s : State) (op : MxOp) : Bool := match ((s.core 0 0).bank 0).queue with
  | [c] => c.op == op && (s.team c.tid).sock == 0 && (s.team c.tid).core == 0 && (s.team c.tid).bank == 0 && c.arrived s && s.cmdPoison c == none && pbXb c.pb == 0 &&
    ((s.team c.tid).toks[c.tok]?).isSome && (s.group ⟨c.tid, c.g⟩).isSome
  | _ => false
theorem witness_MatrixCompletion : (doable (qd .ldst 0x1000 0x800 0 [] [] smx) .ldst && doable (qd .stream 0x1080 0x800 0 [] [] sst) .stream &&
    doable (qd .spgather 0x1100 0x840 0 [0, 2, 3] [0, 2, 1] smx) .spgather && doable (qd .drain 0x1200 0x8C0 0 [] [] sst) .drain && doable (qd .drainAdd 0x1280 0x8C0 0 [] [] sst) .drainAdd) = true ∧
    Fmt.f32.decode 0x3F800000 = .fin false (2 ^ 23) (2 ^ 23) ∧ (0 : Nat) < 2 ^ 23 := by decide +kernel
/-- R174: the plane of the matrix, signed. -/
theorem test_plane : (qbank (qd .ldst 0x1000 0x800 0 [] [] smx)).shd = plane0 := by decide +kernel
/-- R176: the product of the matrix with itself transposed. -/
theorem test_product : ((qbank (qd .stream 0x1080 0x800 0 [] [] sst)).tile 0).cells = tile0.cells := by decide +kernel
/-- R182: a raw drain stores the sums. -/
theorem test_drain : (let m := qscr (qd .drain 0x1200 0x8C0 0 [] [] sst)
    (SMap.bytes m 0x300 8, SMap.bytes m 0x310 8) == ([15, 0, 0, 0, 25, 0, 0, 0], [25, 0, 0, 0, 126, 0, 0, 0])) = true := by decide +kernel
/-- R180: the stationary matrix that sparse rows make. -/
theorem test_sparse : (qbank (qd .spgather 0x1100 0x840 0 [0, 2, 3] [0, 2, 1] smx)).shd.cells = [(0, some 9), (2, some 8), (129, some 7)] := by decide +kernel
/-- R181: the kept values and their places, 2 of 4. -/
theorem test_compress : (let m := qscr (qd .compress 0x1180 0x800 0x880 [] [] smx)
    (SMap.bytes m 0x200 2, SMap.bytes m 0x210 2, SMap.bytes m 0xA80 2) == ([2, 3], [6, 7], [0x21, 0x32])) = true := by decide +kernel

-- contexts, native code, courses, translation, pre-emption --------------------------------------------

/-- A Doff area of job 2 at virtual address 0x100000, 8192 bytes, in mapped memory (R433); job 2 has a live launch. -/
def area (s : State) : State :=
  { (s.setLaunch 1 { oneLaunch with job := 2, order := 1 }) with mem := s.mem ++ [(0x100040100000, 0x44), (0x100040100001, 0x4F), (0x100040100002, 0x46), (0x100040100003, 0x46), (0x100040100004, 1), (0x100040100006, 2), (0x100040100009, 0x20)] }
/-- Bytes listed from an address of physical memory, the zeros left out. -/
def cells (a : Nat) (bs : List Byte) : SMap Byte := ((List.range bs.length).zip bs).filterMap fun q => if q.2 = 0 then none else some (a + q.1, q.2)
/-- In the handler: value 0 a pointer to zeros, 1 a bank, 2 a job, 3 an area, 4 a pointer to a saved context. The function of the context is words of void operations. -/
def sctx : State :=
  let s := area (shand (vals [u .ptr 0x20000, u .i32 0, u .i32 2, u .ptr 0x100000, u .ptr 0x21000, u .i32 1] (State.reset.withWords (encode (.blk []) ++ encode .exit))))
  let s := grp (fun g => { g with saved := some { ctx0 with frames := [⟨0, 1, 0, [], 0, []⟩] } }) s
  let b := s.groupSection gid0 (gof s) (s.flinalCtx gid0 (gof s) { ctx0 with frames := [⟨0, 1, 0, [], 0, []⟩] }) []
  { s with mem := (s.mem.filter fun p => decide (p.1 < 0x100040021000)) ++ cells 0x100040021000 b ++ s.mem.filter fun p => decide (0x100040021000 ≤ p.1) }
def whoL (s : State) : Who := s.who gid0 (gof s) (lowest (gof s).active)
def cx0 (s : State) : Ctx := (gof s).saved.getD ctx0
theorem witness_ContextInstructions : (let s := sctx
    Runs s ∧ ((s.team 0).reds.filter fun r => r.g == 0) = [] ∧ Whole s [(.ptr, r 0), (.i32, r 1), (.i32, r 2), (.ptr, r 3), (.i32, r 5)] ∧ (gof s).saved = some (cx0 s) ∧ (gof sv).saved = none ∧
    winOf 0x20000 = .global ∧ elected s gid0 (gof s) .ptr (r 0) = 0x20000 ∧ s.checkSeg (whoL s) .write false 0 64 (0x20000, 272) = .ok ∧ s.checkSeg (whoL s) .read false 0 64 (0x20000, 272) = .ok ∧
    ((s.team 0).readBars (List.replicate 272 0)).isSome = true ∧ (s.team 0).spools = [] ∧ (s.die 0).arrivals = [] ∧ fld (s.getBytes (whoL s) 0x20000 8) 0 4 = 0 ∧
    s.divLen (whoL s) 0x20000 0 8 = (.ok, some 8) ∧ (cx0 s).nat.on = false ∧
    divOk (fun d => (blocksOf (items (s.teamWords 0 ((cx0 s).frames.reverse.getD d ⟨0, 0, 0, [], 0, []⟩).func))).length) (cx0 s).frames.length (cx0 s).active (gof s).ended [] = true ∧
    (elected s gid0 (gof s) .i32 (r 1)).toNat = (s.team 0).bank ∧ (elected s gid0 (gof s) .i32 (r 2)).toNat ≠ (s.team 0).bank ∧ (s.team 0).state = .resident ∧ (gof s).nat.on = false ∧
    (gof s).drained = false ∧ (s.team 0).groups = [gof s] ∧ (s.team 0).fenced = false ∧ (s.team 0).reds = [] ∧ s.teamStill ((cx0 s).trap.code == 0x0601) 0 = true ∧ (gof s).stops = [] ∧ (s.team 0).inDrain = false ∧ (∀ x ∈ (s.team 0).copies, x.held = false)) ∧
    (let s : State := { sctx with dsp := { sctx.dsp with mode := 1 } }
     s.dsp.mode ≠ 0) := by decide +kernel
theorem witness_ctx_fill : (let s := sctx
    s.checkSeg (whoL s) .read false 0 64 (0x21000, 64) = .ok ∧ (let m := Nat.max 64 (fld (s.getBytes (whoL s) 0x21000 64) 4 4)
      let bs := s.getBytes (whoL s) 0x21000 m
      s.checkSeg (whoL s) .read false 0 64 (0x21000, m) = .ok ∧ (s.fillCtx gid0 (cx0 s) bs).isSome = true ∧ fld bs 28 4 = 0 ∧ fld bs 32 4 = 0) ∧
    (s.fillCtx gid0 (cx0 s) (s.getBytes (whoL s) 0x20000 64)) = none) := by decide +kernel
/-- R432: a job of its own gets 3, a job without launches 2, a good area 0. -/
theorem test_doff_check : sctx.doffCheck (some 1) 1 0x100000 = 3 ∧ sctx.doffCheck (some 1) 5 0x100000 = 2 ∧ sctx.doffCheck (some 1) 2 0x100000 = 0 := by decide +kernel

/-- A group on the native level: scalar 0 is the spill pointer, one result outstanding. -/
def snat (sp : W64) : State :=
  grp (fun g => { g with nat := { NatWin.clear with on := true, retried := true, s := if sp = 0 then [] else [(0, sp)], pend := if sp = 0 then [⟨.vec, 3, List.replicate 32 7, 0xF, none⟩] else [] } }) s0
theorem vec_length (n : Nat) : ((gof (snat 0)).nat.vec n).length = 32 ∧ ((gof (snat 8)).nat.vec n).length = 32 := by
  have a : (gof (snat 0)).nat.v = [] := by decide +kernel
  have b : (gof (snat 8)).nat.v = [] := by decide +kernel
  exact ⟨by unfold NatWin.vec; rw [a]; rfl, by unfold NatWin.vec; rw [b]; rfl⟩
theorem witness_NativeOps : (Runs (snat 0) ∧ (gof (snat 0)).nat.pend = [⟨.vec, 3, List.replicate 32 7, 0xF, none⟩] ∧ Runs (snat 8) ∧ (gof (snat 8)).nat.pend = []) ∧
    ((8 : BitVec 8).getLsbD 3 = true ∧ (7 : BitVec 8).getLsbD 3 = false ∧ (1 : BitVec 8).toNat % 4 ≤ 1 ∧ (2 : BitVec 8).getLsbD 1 = true ∧ (1 : BitVec 8).getLsbD 1 = false ∧ (1 : BitVec 8).getLsbD 0 = true ∧
    (0 : BitVec 8).getLsbD 0 = false) ∧ ((gof (snat 8)).nat.scalar 0).toNat + 4 * (0xFFDE : BitVec 16).toNat + slotSize 0 ≤ 262144 ∧
    262144 < ((gof (snat 8)).nat.scalar 0).toNat + 4 * (0xFFDF : BitVec 16).toNat + slotSize 0 := by decide +kernel

/-- The group waits to be chosen. -/
def spick (st : GStatus) : State := { grp (fun g => { g with status := st }) s0 with cur := none }
def meet0 (l : List Nat) (s : State) : State := s.setCore 0 0 { s.core 0 0 with meetings := [⟨0, 0, 0, 0, l, []⟩] }
def nb0 (e : Bool) : NBundle := { sync := false, w := false, e := e, ops := [] }
/-- A native group whose entry is in the cache of its class. -/
def snate : State := { snat 0 with cache1 := { Cache.reset with entries := [⟨⟨1, 0, 1, 0, 0xFFFFFF, 0⟩, 0, 0, 0, false, 0, 1, 0⟩] } }
theorem witness_CoursesIssue :
    ((((spick .ready).choose 0 0 0).map fun p => p.1) = some gid0 ∧ ((spick .ready).rotation 0 0 0).all (fun x => x == gid0) = true ∧ (spick .ready).isReady gid0 = true ∧ (spick .ready).cur = none ∧
      (gof (spick .ready)).preStop = false ∧ (gof (spick .ready)).numTrap = [] ∧ (spick .ready).meetingHolds 0 0 0 = false) ∧
    (∃ e ∈ (snate.cache (classOf (snate.team 0).sock)).entries, e.id = (gof snate).nat.entry) ∧ Runs snate ∧ ((spick .wait).choose 0 0 0).isNone = true ∧
    (Runs (snat 0) ∧ (gof (snat 0)).nat.on = true ∧ (gof (snat 0)).nat.retried = true) ∧ ((nb0 true).ops.isEmpty = true ∧ (nb0 true).e = true ∧ (nb0 false).e = false) ∧
    (s0.team 0).state ≠ .done ∧
    (let c (w n : Nat) := ((bk (fun b => { b with window := BitVec.ofNat 32 w, retired := BitVec.ofNat 32 n }) s0).core 0 0).bank 0
     (c 5 5).window ≠ 0 ∧ (c 5 5).window.toNat ≤ (c 5 5).retired.toNat ∧ (c 0 5).window = 0 ∧ (c 5 4).retired.toNat < (c 5 4).window.toNat) ∧
    ([0, 1, 2, 3].all fun i => (meet0 [0] s0).settledFor ⟨0, 0, 0, 0, [0], []⟩ i) = true ∧ (meet0 [] s0).settledFor ⟨0, 0, 0, 0, [], []⟩ 0 = false ∧
    ((meet0 [0] s0).core 0 0).openMeeting 0 0 = some ⟨0, 0, 0, 0, [0], []⟩ ∧ (s0.core 0 0).openMeeting 0 0 = none ∧ (meet0 [0] { s0 with cur := none }).clusterBusy ⟨0, 0, 0, 0, [0], []⟩ = false := by decide +kernel
/-- R67: the sixth course fills a window of six, counters saturate, and a full window closes. -/
theorem test_courses : (let s := grp (fun g => { g with evs := [3] }) (bk (fun b => { b with window := 6, retired := 5, counts := [(0, 0xFFFFFFFE)] }) s0)
    let t := next (exec (.courseEnd gid0) s)
    let b := (t.core 0 0).bank 0
    (SMap.get 0 b.counts 0, b.retired) == (0xFFFFFFFF, 6) && (gof t).courses == 1) = true := by decide +kernel

/-- A key of the function in class 1, claimed by bay 0 of CD0 for the group; an entry that is pinned because it is mapped. -/
def key0 : XKey := ⟨1, 0, 1, 0, 0xFFFFFF, 0⟩
def ent0 (st n : Nat) : XEntry := ⟨key0, 7, 0, 0, false, st, n, 0⟩
def scl (es : List XEntry) : State :=
  { grp (fun g => { g with status := .xlat }) s0 with cache1 := { s0.cache1 with claims := [⟨key0, 0, 0, [gid0], none⟩], entries := es } }
/-- The map registers name the key. -/
def smap : State := (scl [ent0 0 1]).setDie 0 { (scl []).die 0 with xlkey := [(0, 1), (2, 0x10000), (3, 0xFFFFFF)], xlmap := some key0 }
theorem witness_TranslationEvents : (classOf 0 = 1 ∧ ((scl []).cache 1).claims.find? (fun k => k.sock == 0 && k.bay == 0) = some ⟨key0, 0, 0, [gid0], none⟩ ∧ (gof (scl [])).look = 0 ∧ (gof (scl [])).status = .xlat ∧
      (s0.cache 1).claims.find? (fun k => k.sock == 0 && k.bay == 0) = none) ∧
    granOf 64 = 1 ∧ 0 + granOf 64 ≤ granules ∧ granules - 1 + granOf 64 ≤ granules ∧
    ((scl [ent0 0 1]).cache 1).entries.find? (fun e => e.id == 7) = some (ent0 0 1) ∧ (((scl [ent0 0 1]).cache 1).entries.map XEntry.id).Nodup ∧ smap.pinned (ent0 0 1) = true ∧
    (s0.inS 0 = true ∧ s0.inS 3 = false) ∧ (smap.die 0).xlKey = key0 ∧ ((smap.cache 1).entries.any fun e => e.key == (smap.die 0).xlKey) = true ∧
    ((s0.cache 1).entries.any fun e => e.key == (s0.die 0).xlKey) = false := by decide +kernel
/-- R227: a function that is refused gets an entry of one granule with its code, first free from 0, and its group issues again. -/
theorem test_refused_entry : (let s : State := { scl [] with dsp := { (scl []).dsp with modules := [{ oneWordModule [] with funcs := [{ words := [], kind := 0, nvals := 0, nblocks := 0, nparam := 0, nspool := 0, attrs := [], refused := Code.ofXl .block }] }] } }
    let t := next (exec (.translationDone 0 0) s)
    ((t.cache 1).entries.map fun e => (e.refused, e.start, e.grans)) == [(Code.ofXl .block, 0, 1)] && (t.cache 1).claims.isEmpty && (gof t).status == .ready) = true := by decide +kernel

/-- R237, R240, R242, R257: two constants of slot A, the sum one bundle later and the exit alone: four bundles behind a header of 64 bytes, with a record of 16 bytes at the entry, whose first course begins there, and one at the exit, which names faults. -/
theorem test_translation : (let s := State.reset.withWords (encode (.blk []) ++ encode (.const (hd .i32) 5) ++ encode (.const (hd .i32) 7) ++ encode (.add (hd .i32) .wrap (r 0) (r 1)) ++ encode .exit)
    let b := s.body ⟨1, 0, 1, 64, 0xFFFFFF, 0⟩
    b.bundles.length == 4 && b.size == 64 + 4 * 16 + 2 * 16 && b.points.map (fun p => (p.kind, p.bundle, p.word)) == [(3, 0, 1), (4, 3, 7)]) = true := by decide +kernel

/-- The core's CTX_PREEMPT as given. -/
def spre (v : W32) (s : State) : State := s.setCore 0 0 { s.core 0 0 with preempt := v }
/-- A saved context of the launch's team at virtual address 0x22000, for DSP_RESTORE. -/
def srest : State :=
  let s := (mapped s0).setTeam 0 { (s0.team 0) with state := .saved, groups := [{ g0 with bankDone := true }] }
  let s := s.setJob 0 (s.job 1)
  { s with mem := s.mem ++ cells 0x100040022000 (natLe 1 2 ++ natLe 1 2 ++ [0, 0, 0, 0, 0, 1, 1, 0]) }
theorem witness_PreemptionEvents : ((spre 0x80000005 s0).core 0 0).preempt.getLsbD 31 = true ∧ (s0.core 0 0).preempt.getLsbD 31 = false ∧ s0.inS 0 = true ∧ s0.inS 3 = false ∧
    ((spre 0x80000005 s0).core 0 0).preBank = some 0 ∧ ((spre 0x81000000 s0).core 0 0).preBank = some 1 ∧ (s0.core 0 0).preBank = none ∧ (s0.core 0 0).b0.atYield = true ∧
    ((bk (fun b => { b with tiles := [(0, tile0)] }) s0).core 0 0).b0.atYield = false ∧ ((spre 0x80000005 s0).core 0 0).preempt.toNat % 2 ^ 24 ≠ 0 ∧ ((spre 0x81000000 s0).core 0 0).preempt.toNat % 2 ^ 24 = 0 ∧
    s0.bankGroups 0 0 0 = [gid0] ∧ (spick .wait).canStop gid0 (gof (spick .wait)) = true ∧ (gof (spick .wait)).preStopped = false ∧ s0.canStop gid0 (gof s0) = false ∧ (gof s0).status ≠ .out ∧ (gof s0).preStopped = false ∧
    (0x80000000 : W32).getLsbD 31 = true ∧ (0x80000000 : W64).getLsbD 63 = false ∧ s0.dsp.restore.getLsbD 63 = false ∧ s0.restoreTarget 0x8000000000022000 = none ∧
    (srest.restoreTarget 0x8000000000022000).isSome = true := by decide +kernel
/-- R416: the yield point stops the waiting group with reason 3. -/
theorem test_preempt : (let g := gof (next (exec (.preemptYield 0 0) (spre 0x80000005 (spick .wait))))
    g.status == .stopping && g.trap.map (fun t => (t.code, t.reason)) == some (Code.preempt, 3)) = true := by decide +kernel

-- the machine's events ----------------------------------------------------------------------------------

def bo (f : Boot → Boot) (s : State) : State := { s with boot := f s.boot }
def stage (n : Nat) (s : State) : State := bo (fun b => { b with stage := n }) s
/-- CD0 and CD2 present, the power on. -/
def two : State := (s0.setDie 0 { s0.die 0 with present := true }).setDie 2 { s0.die 2 with present := true }
theorem witness_BootStages : (([1, 2, 3, 4, 5, 6, 7, 8, 9, 10].all fun n => (stage n two).boot.stage != 0) = true ∧ (stage 0 two).boot.stage = 0) ∧
    ((stage 4 two).boot.skipped 8 || ([⟨8, 1, 0, 0⟩] : List BootFail).any fun f => f.sock.toNat == 8) = true ∧ ((stage 4 two).boot.skipped 15 = false ∧ two.presentDies = [0, 2]) ∧
    (bo (fun b => { b with valid := true, fail := 1, sock := 15, tries := 3 }) two).boot.recRequired = true ∧
    (bo (fun b => { b with recovery := some (7, 3) }) two).boot.recovery = some (7, 3) ∧ two.boot.recovery = none ∧
    ((bo (fun b => { b with imgA := some (7, 1), rollback := 2 }) (stage 2 two)).boot.slotImg.2.toNat < (2 : W32).toNat) ∧ (stage 2 two).boot.slotImg.2.toNat = 0 := by decide +kernel
/-- R14, R15: the third failure of a required stage leaves recovery mode; one stack that fails is left out. -/
theorem test_boot : (let third := next (exec (.bootStageEnd [⟨15, 2, 0, 0⟩]) (stage 1 (bo (fun b => { b with valid := true, fail := 1, sock := 15, tries := 2 }) two)))
    let four := next (exec (.bootStageEnd [⟨9, 3, 0, 0⟩]) (stage 4 two))
    third.boot.mode == 3 && third.boot.tries == 3 && third.boot.fail == 1 && four.boot.stage == 5 && four.boot.hbmStacks == 0xFD && four.boot.sock == 9) = true := by decide +kernel

/-- An update of a part to the image of version 2. -/
def new2 (p : Part) : Update := ⟨p, .image 2, 0⟩
def upd (p : Part) (again : Bool) (s : State) : State := { s with updating := some ⟨new2 p, again⟩ }
theorem witness_TrustAndUpdates : (two.updating = none ∧ two.updates = []) ∧ ({ two with updates := [new2 .io1] } : State).updates = [new2 .io1] ∧
    (two.presentDies ≠ [2] ∧ two.dieFree 0 = false ∧ two.dieFree 2 = true) ∧ (upd .io1 true two).updating = some ⟨new2 .io1, true⟩ ∧ (∀ k, Part.io1 ≠ .die k) ∧
    (two.boot.mode ≠ 3 ∧ (bo (fun b => { b with mode := 3 }) two).boot.mode = 3 ∧ (two.setDie 0 Die.reset).presentDies = [2]) ∧
    ((upd (.die 2) false two).rst.phase = 0 ∧ two.inService (2 : BitVec 4).toNat = true ∧ (2 : BitVec 4).toNat < 4) :=
  ⟨by decide +kernel, by decide +kernel, by decide +kernel, by decide +kernel, nofun, by decide +kernel⟩
/-- R22: a commit of IO1 changes its version; a failure tries the image before. -/
theorem test_updates : ((next (exec (.updateCommit true) (upd .io1 false two))).boot.vers == [(5, 2)] && ((next (exec (.updateCommit false) (upd .io1 false two))).updating.map fun x => x.retried) == some true &&
    (next (exec (.updateCommit false) (upd .io1 true two))).updating.isNone) = true := by decide +kernel

/-- The least launch record of R190: version 1, module 1, kernel 0, a grid of one team. -/
def rec0 : List Byte := [1, 0] ++ natLe 0 6 ++ natLe 1 8 ++ natLe 0 8 ++ natLe 1 4 ++ natLe 1 4 ++ natLe 1 4 ++ List.replicate 988 0
/-- Queue 0 of job 1 holds that record at virtual address 0x30000; its module is of job 1 and the function a kernel. -/
def squeue (m : SMap Byte) : State :=
  let s := (bo (fun b => { b with mode := 0 }) (mapped s0)).setQueue 0 { Queue.reset with en := true, log2n := 1, job := 1, base := 0x30000, tail := 1 }
  { s with mem := s.mem ++ m, dsp := { s.dsp with modules := [{ oneWordModule (encode (.blk [])) with funcs := [{ words := encode (.blk []), kind := 1, nvals := 0, nblocks := 1, nparam := 0, nspool := 0, attrs := [], refused := 0 }] }] } }
def sq1 : State := squeue (cells 0x100040030000 rec0)
/-- Where the record has its fields that are not 0. -/
theorem queue_record : sq1.getBytes (dspWho 1) 0x30000 40 = rec0.take 40 := by decide +kernel
theorem witness_QueuesTakeRecords : sq1.boot.mode = 0 ∧ s0.boot.mode = 1 ∧ (sq1.queue 0).en = true ∧ (sq1.queue 0).head ≠ (sq1.queue 0).tail ∧ sq1.away (sq1.queue 0).job = false ∧ ((List.range 64).all fun m => m == 0 || !(sq1.queue m).en) = true ∧
    sq1.liveCount < 256 ∧ (sq1.queue 0).headAddr = 0x30000 ∧ sq1.dspCheck 1 .read 0x30000 1024 1 = .ok ∧ (∃ c, s0.dspCheck 1 .read 0x30000 1024 1 = .fault c) ∧
    (depsOf rec0 0 (sq1.queue 0)).any (sq1.depWaits 0) = false ∧ ((sq1.checkRecord 0 rec0).toOption.map Launch.deps) = some [] ∧ formBad rec0 = false ∧ ((s0.queue 0).en = false) := by
  refine ⟨?_, ?_, ?_, ?_, ?_, ?_, ?_, ?_, ?_, ⟨Code.pageMiss, ?_⟩, ?_, ?_, ?_, ?_⟩ <;> decide +kernel
/-- A dependence on a record of another queue that has not been taken waits; a launch that is not there does not. -/
theorem witness_queue_clauses : (depsOf (rec0.take 5 ++ [1] ++ (rec0.drop 6).take 58 ++ [0, 0, 0, 0, 1, 0, 0, 0] ++ rec0.drop 72) 0 (sq1.queue 0)).any ((sq1.setQueue 1 { sq1.queue 0 with en := false }).depWaits 0) = true ∧
    (match sq1.checkRecord 0 (rec0.set 0 2) with | .error x => x == (1, 0) | .ok _ => false) = true ∧ (match { sq1 with dsp := { sq1.dsp with modules := [] } }.checkRecord 0 rec0 with | .error x => x == (2, 0) | .ok _ => false) = true ∧
    sq1.doneWaits 1 0 = false ∧ (s0.launches.all fun p => p.2.live && p.2.module == 0) = true ∧ partValid 0 0 = true ∧ partValid 1 0 = false ∧ partValid 1 4 = true ∧ s0.partDies 0 = [0] := by decide +kernel

/-- A second launch of job 1 waits for a row; a reservation is due. -/
def splace (n : Nat) : State := { s0.setLaunch 0 { oneLaunch with started := [], passed := [(0, n)] } with teams := [] }
def l0 (s : State) : Launch := s.launch 0
theorem witness_TeamsComeAndGo : (let s := splace 64
     s.dsp.freed = [] ∧ s.dsp.restore.getLsbD 63 = false ∧ s.doff.busy = false ∧ s.dsp.reserve = [] ∧ s.liveSorted = [(0, l0 s)] ∧ (l0 s).det = false ∧ s.firstReady (l0 s) = some 0 ∧
     (((s.steered (l0 s)).findSome? fun c => (s.spotOn 0 0 c.1 c.2).map fun b => (c, b)) == some ((0, 0), (0, 0))) = true ∧ s.trimReserve.firstOf 0 = some (0, 0) ∧ 64 ≤ SMap.get 0 (l0 s).passed 0 ∧
     (coreList ((s.partDies 0).filter s.inService)).any (fun c => s.fitsEmpty (l0 s) c.1 c.2) = true) ∧
    (splace 63).trimReserve.firstOf 0 = some (0, 0) ∧ SMap.get 0 (l0 (splace 63)).passed 0 < 64 ∧ s0.trimReserve.firstOf 0 = none ∧
    (let s : State := { splace 0 with dsp := { (splace 0).dsp with freed := [(0, 0, 0, 0, 1)] } }
     s.inService 0 = true ∧ (s.freeRows 0 0 0).head? = some 0 ∧ s.trimReserve.offerPick 0 0 0 = some (0, 0)) ∧
    (let s := tm (fun t => { t with state := .loading }) s0
     (s.team 0).state = .loading ∧ (s.launch 0).exportOk = false) ∧
    (let s := tm (fun t => { t with state := .draining }) s0
     (s.team 0).state = .draining ∧ s.teamJoined 0 = true ∧ (s.launch 0).live = true ∧ (s.launch 0).status = none ∧ (s.launch 0).failed = false ∧ (s.launch 0).reelHeld = 0 ∧
     (s.launch 0).teams ≤ (s.launch 0).events.length + 1 ∧ (s.launch 0).vfy = false ∧ s.doneWaits 1 0 = false) ∧
    (let s := tm (fun t => { t with state := .draining, toks := [⟨false, false, none, 0, 0, none, false⟩] }) s0
     s.teamJoined 0 = false) ∧
    (let s := la (fun l => { l with record := setFld l.record 24 4 2 }) s0
     (s.launch 0).events.length + 1 < (s.launch 0).teams) := by decide +kernel
/-- A launch whose verification is due: the range cannot be read. -/
def svfy : State := { la (fun l => { l with vfy := true, vfyPages := 1, vfyReg := 0x40000000, vfyOut := 0x40, events := [0] }) (mapped s0) with teams := [] }
theorem witness_verify : svfy.liveLaunch 0 0 = some 0 ∧ (svfy.launch 0).vfy = true ∧ (svfy.launch 0).done = 0 ∧ svfy.outcome 0 = some 0 ∧ (svfy.verifyRec (svfy.launch 0)).isSome = true ∧
    svfy.dspCheck 1 .read 0x40000000 65536 1 = .fault Code.pageMiss ∧ svfy.dspCheck 1 .write 0x40 64 64 = .ok ∧ s0.liveLaunch 1 0 = none := by decide +kernel
/-- R199, R213: the team waiting is set up at row 0, runs, and its end writes the DONE status. -/
theorem test_teams : (let a := next (exec .placementPass (splace 0))
    let t := a.team a.dsp.nextTid
    let e := next (exec (.completionEvent 0) (tm (fun t => { t with state := .draining }) s0))
    a.teams.map (fun p => (p.2.state == .loading, p.2.row, p.2.bank)) == [(true, 0, 0)] && t.lid == 0 && (e.launch 0).live == false && (e.launch 0).status == some 0 && e.dsp.freed == [(0, 0, 0, 0, 1)]) = true := by
  decide +kernel

def dieAt (n : Nat) (f : Die → Die) (s : State) : State := s.setDie n (f (s.die n))
def bayAt (f : Bay → Bay) (s : State) : State := s.setBay 0 0 (f (s.bay 0 0))
def thm (f : Thm → Thm) (s : State) : State := { s with thm := f s.thm }
/-- Bay 0 of CD0 at CODE and TARGET 72. -/
def sfll : State := bayAt (fun b => { b with fll := fllWord 200 false 72 72 }) s0
def isBytes (d : Desc) (b : List Byte) : Bool := match d with | .bytes x => x == b | _ => false
def isBad (d : Desc) : Bool := match d with | .bad => true | _ => false
theorem witness_PowerAndSupply : (s0.inService 0 = true ∧ s0.inService 3 = false) ∧
    ((s0.bay 0 0).sagging = false ∧ (let b := (next (exec (.sagTrip 0 0) sfll)).bay 0 0
      b.sagging = true ∧ fllSag b.fll = true ∧ fllCode b.fll < fllTarget b.fll)) ∧
    ((dieAt 0 (fun d => { d with ovr := true, conflict := 16 }) s0).die 0).conflict = 16 ∧ ((dieAt 0 (fun d => { d with ovr := true, conflict := 15 }) s0).die 0).conflict < 16 ∧
    ((dieAt 0 (fun d => { d with ovr := true, rows := 2000, conflict := 14 }) s0).die 0).rows.toNat - ((dieAt 0 (fun d => { d with rows := 2000 }) s0).die 0).slope.toNat % 65536 - 0 > 0 ∧
    ((thm (fun t => { t with raise := some (1, 2, 999) }) s0).thm.raise = some (1, 2, 999) ∧ (thm (fun t => { t with raise := some (1, 2, 1000) }) s0).thm.raise = some (1, 2, 1000)) ∧
    ((dieAt 0 (fun d => { d with throttled := true }) s0).die 0).throttled = true ∧ (s0.die 0).throttled = false := by decide +kernel
/-- R301: a sag lowers CODE by DROP, 16 of 72. -/
theorem test_sag : (let b := (next (exec (.sagTrip 0 0) sfll)).bay 0 0
    (fllCode b.fll, fllTarget b.fll) == (56, 72)) = true := by decide +kernel
/-- R460: 105 °C raises GAP, 104 °C leaves it. -/
theorem test_throttle : ((next (exec (.thermalThrottle 0 105) s0)).die 0).throttled = true ∧ ((next (exec (.thermalThrottle 0 104) s0)).die 0).throttled = false := by decide +kernel

def energy0 (s : State) : State := { s with energy := [(0, ⟨0xFFFFFFFFFE, 7⟩)] }
theorem witness_CountersAndRegisters : (s0.hasEnergy 0 = true ∧ (6 : Nat) ≤ 6 ∧ s0.hasEnergy 3 = false) ∧ s0.eshadow .host 0 = none ∧ (s0.regThere (.pwrSlope 0) = true ∧ s0.regThere (.pwrSlope 3) = false) ∧
    (0x7FFFFFFF : W32).getLsbD 31 = false ∧ (0x80000000 : W32).getLsbD 31 = true := by decide +kernel
/-- R468, R469: the accumulator wraps; LO and HI of one reader are of one update. -/
theorem test_energy : (let t := next (exec (.energyAccumulatorUpdate 0 5) (energy0 s0))
    let a := next (exec (.energyLoRead .host 0) (energy0 s0))
    let b := next (exec (.energyAccumulatorUpdate 0 5) a)
    (t.energyOf 0).acc == 3 && (t.energyOf 0).wraps == 8 && (next (exec (.energyHiRead .host 0) b)).reads.any (fun x => x.req == .host && x.val == 0xFF)) = true := by decide +kernel

/-- A window of 16 pages staged in slice 0, still being zeroed; a store bank that waits for its mode; a request to the absent CD1. -/
def shier : State :=
  let s := dieAt 0 (fun d => { d with wins := [(1, ⟨0x8000000000100000, true⟩)], splits := [(0, ⟨4, true, 2⟩), (1, ⟨4, true, 6⟩)] }) (mapped s0)
  let s := s.setCore 0 0 ((s.core 0 0).setStore 0 3 ⟨true, 1, 2⟩)
  { s with pln := { s.pln with shootctl := 0x80000000, sent := [⟨0, 0, 1, 5⟩] } }
theorem witness_HierarchyEvents : (s0.inS 3 = false ∧ s0.inS 0 = true) ∧
    (let c := shier.core 0 0
     (c.store 0 3).pend = true ∧ shier.granUse 0 0 3 = 0 ∧ (c.store 0 2).pend = false ∧ (3 : Nat) < storeBanks 0 ∧ storeBanks 0 ≤ 63 ∧ (c.store 0 (storeBanks 0 - 1)).mode = 2) ∧
    (let d := shier.die 0
     (d.split 0).pend = true ∧ d.winBeyond 0 (d.split 0).want.toNat = false ∧ (d.split 1).stage.toNat ≤ (d.split 1).want.toNat ∧ (d.split 2).pend = false ∧ slicesOf 2 ≤ 15 ∧
     (d.win 1).zeroing = true ∧ (d.win 1).area = some (0, 0, 16) ∧ (d.win 2).zeroing = false) ∧
    ((0x8000000000010010 : W64).getLsbD 63 = true ∧ fieldNat (0x8000000000010010 : W64).toNat 27 16 = 1 ∧ 16 + 1 ≤ 128 * 4 ∧ (16 : Nat) ≤ 16) ∧
    (s0.physServed 0x100000000000 4 = true ∧ s0.physServed 0 4 = false ∧ (peered s0).boot.peersUp.getLsbD 0 = true ∧ (peered s0).boot.peersUp.getLsbD 1 = false) ∧
    (shier.pln.shootctl.getLsbD 31 = true ∧ shier.inUse 0 false 0 0 = false ∧ ({ shier with pln := { shier.pln with shootctl := 0x80001001 } } : State).inUse 1 false 0 1 = false ∧ s0.pln.shootctl.getLsbD 31 = false) ∧
    (shier.pln.sent[0]? = some ⟨0, 0, 1, 5⟩ ∧ shier.inService 1 = false ∧ shier.pln.sent[1]? = none) ∧
    (la (fun l => { l with record := setFld l.record 2 2 1 }) s0).launches.map (fun p => p.2.live) = [true] := by decide +kernel
/-- R456: the request goes to the home of its line; a store bank takes its mode. -/
theorem test_hier : ((next (exec (.dieAbsentReply 0 0 0) shier)).pln.sent == [⟨0, 0, 0, 5⟩] && ((next (exec (.bankModeSwitchDone 0 0 3) shier)).core 0 0).store 0 3 == ⟨false, 2, 2⟩) = true := by decide +kernel

/-- A 2 MiB page of job 1 at virtual address 0 and a descriptor in host memory that asks for it at another place, its status word behind it. -/
def desc (va job dest pa done : Nat) : List Byte := natLe va 8 ++ natLe job 2 ++ natLe dest 1 ++ natLe 0 5 ++ natLe pa 8 ++ natLe done 8
def smig (b : List Byte) : State :=
  let s := s0.setJob 1 { JobRegs.reset with root := 0x8000100000000000 }
  let s := s.setRing 1 { s.ring 1 with en := true, log2n := 1, base := 0x100000020000, tail := 1 }
  { s with mem := cells 0x100000000000 (natLe 0x100000008001 8) ++ cells 0x100000008000 (natLe 0x10000000C001 8) ++ cells 0x10000000C000 (natLe 0x10004000000F 8) ++ cells 0x100000020000 b }
def mreq (dest : Nat) : MigReq := ⟨1, 0, 1, dest, 0x100080000000, 0x100000030000, 2 ^ 21⟩
theorem witness_MigrationEvents : (let s := smig (desc 0 1 2 0x100080000000 0x100000030000)
    ((s.ring 1).en = true ∧ (s.ring 0).en = false ∧ (s.ring 1).head ≠ (s.ring 1).tail ∧ (12 : BitVec 4).toNat ≤ 12 ∧ 12 < (13 : BitVec 4).toNat ∧ (s.ring 1).base ≠ 0) ∧
    isBytes (s.descriptor 1) (desc 0 1 2 0x100080000000 0x100000030000) = true ∧ ((s.setRing 1 { s.ring 1 with base := 0x1000 }).descriptor 1 |> isBad) = true ∧
    ((s.readReq 1 (desc 0 1 2 0x100080000000 0x100000030000)).map (·.1)) = some (mreq 2) ∧ s.readReq 1 (desc 0x1000 1 2 0x100080000000 0) = none ∧
    s.mig.moves = [] ∧ s.inUse 1 false 0 32 = false ∧ s.shareHolds (mreq 2) = false ∧ ({ s with mig := { s.mig with moves := [mreq 2] } } : State).mig.moves = [mreq 2] ∧ (s.launches.map fun p => s.outcome p.1) = [none] ∧
    (mreq 2).asks = some 1 ∧ (mreq 0).asks = some 0 ∧ fieldNat 0x10004000000F 59 56 = 0 ∧ entryAddr 0x10004000000F + 2 ^ 21 ≤ 0x100080000000 ∧ (mreq 2).pa.toNat % 2 ^ 21 = 0 ∧ (mreq 2).pa.toNat < 2 ^ 52 ∧
    Memory.wf s.mem = true) := by decide +kernel
/-- R324: a page that lies in the range asked for is answered ALREADY; a page of 4 KiB in no table is a bad request. -/
theorem test_migration : (let t := next (exec (.migDescriptorTake 1) (smig (desc 0 1 2 0x100080000000 0x100000030000)))
    let v := next (exec (.migDescriptorTake 1) (smig (desc 0x40000000 1 2 0x100080000000 0x100000030000)))
    SMap.get 0 t.mem 0x100000030000 == 4 && SMap.get 0 v.mem 0x100000030000 == 3 && (t.ring 1).head == 1) = true := by decide +kernel

/-- The Doff engine with an operation on a job; its area of 4 MiB. -/
def wide (s : State) : State := { s with mem := s.mem.map fun p => if p.1 = 0x100040100009 then (0x10004010000A, 0x40) else p }
def doffing (job phase : Nat) (s : State) : State := { s with doff := { s.doff with busy := true, phase := BitVec.ofNat 3 phase, ctl := BitVec.ofNat 32 job, area := 0x100000, runArea := 0x100000 } }
def sdoff : State := area (shand s0)
def x2 (st dr : Bool) : Doffed := ⟨2, 0x100000, 0x2000, 0, 0, 4, st, dr, [1], []⟩
def doffedIn (x : Doffed) (s : State) : State := { s with doff := { s.doff with area := 0x100000, runArea := 0x100000, jobs := [x] } }
def pk : Packet := ⟨2, 0, 0, 0, 0, 1, 0, 0, 0, []⟩
def hdrState (n : Byte) (s : State) : State := { s with mem := (s.mem.filter fun p => decide (p.1 < 0x10004010000F)) ++ [(0x100040100018, n)] ++ s.mem.filter fun p => decide (0x10004010000F < p.1) }
theorem witness_DoffEngine :
    (sdoff.doff.busy = false ∧ (0x80000002 : W32).getLsbD 31 = true ∧ (0x80000002 : W32).toNat % 4096 = 2 ∧ sdoff.jobDieDown 2 = false ∧ sdoff.jobLaunches 2 = [1] ∧ (sdoff.doffed 2).isNone = true ∧ sdoff.areaOk 2 0x100000 = true) ∧
    (let s := hdrState 2 (doffedIn (x2 true false) sdoff)
     (s.doffed 2).isSome = true ∧ s.hdrOpen 0x100000 = true ∧ hdrIs (s.doffHdr 0x100000) 2 = true ∧ fld (s.doffHdr 0x100000) 24 4 = 2 ∧ fld (s.doffHdr 0x100000) 52 4 = 0 ∧
     fld (s.doffHdr 0x100000) 30 2 = s.dsp.mode.toNat ∧ (s.launch 1).live = true ∧ (s.launch 1).status = none) ∧
    (let s := doffing 2 1 sdoff
     s.doff.busy = true ∧ s.doff.phase = 1 ∧ s.jobTeams 2 = [] ∧ fld (s.doffHdr s.doff.runArea) 8 8 < s.doffMeasure.doff.need ∧ (doffing 2 1 (wide sdoff)).doffMeasure.doff.need ≤ fld ((doffing 2 1 (wide sdoff)).doffHdr 0x100000) 8 8) ∧
    (let s := doffing 1 1 shin
     s.jobTeams 1 = [0] ∧ (s.team 0).groups.any Group.inHandler = true) ∧ ((doffing 1 1 (area s0)).jobTeams 1).all (doffing 1 1 (area s0)).teamHalted = false ∧
    (let s : State := { doffing 1 2 sdoff with reel := { sdoff.reel with slots := SMap.put ReelSlot.reset [] 1 (live1 .live) } }
     (s.reel.slots.map fun p => (p.2.job, p.2.st)) = [(1, .live)]) ∧ sdoff.reel.slots = [] ∧ sdoff.reel.swept = [] ∧
    ([2, 3, 4, 5, 6].all fun n => (doffing 2 n sdoff).doff.busy && (doffing 2 n sdoff).doff.phase == BitVec.ofNat 3 n) = true ∧ (doffedIn (x2 false false) sdoff).doff.jobs.find? (fun x => x.job == (2 : BitVec 12)) = some (x2 false false) ∧
    (pk.job = 2 ∧ (x2 true true).draining = true ∧ (x2 true false).nlate < (x2 true false).lateCap ∧ ({ x2 true false with nlate := 4 }).lateCap ≤ ({ x2 true false with nlate := 4 }).nlate) ∧
    (∀ p ∈ sdoff.pln.packets, p.job ≠ 2) ∧ ({ sdoff with pln := { sdoff.pln with packets := [pk] } } : State).pln.packets.any (fun p => p.job == 2) = true ∧
    (sdoff.team 0).state ≠ .saved ∧ (sdoff.team 0).state ≠ .loading ∧ sdoff.reel.boards = [] := by decide +kernel
/-- R440: a late packet of a job that is Doffed is counted and reported with 0701H. -/
theorem test_late : (let t := next (exec (.latePacket pk) (doffedIn (x2 true false) sdoff))
    t.doff.code == 0x0701 && t.doff.jobs.map Doffed.nlate == [1] && t.irqs == [.doff]) = true := by decide +kernel

def rst (f : DieRst → DieRst) (s : State) : State := { s with rst := f s.rst }
theorem witness_DieResetEvents : (s0.rst.go = false ∧ (rst (fun r => { r with go := true }) s0).rst.go = true) ∧
    (let s := rst (fun r => { r with phase := 7, waiting := [(2, 0, false)] }) two
     s.rst.phase = 7 ∧ s.doff.busy = false ∧ s.rst.waiting = [(2, 0, false)] ∧ s.dieFree 2 = true ∧ s.presentDies.filter s.inService = [0, 2] ∧ (s.die 2).present = true) ∧
    ((s0.die 3).present = false ∧ (s0.die 3).leftOut = false ∧ s0.presentDies.filter s0.inService = [0] ∧ two.dieFree 0 = false ∧ 3 < (15 : BitVec 4).toNat) ∧
    (two.portsClear 2 = true ∧ (port 1 (.alight 0 0) two).portsClear 0 = false) ∧ ([1, 2, 3, 4, 5, 6].all fun n => (rst (fun r => { r with phase := BitVec.ofNat 4 n, dsock := 2 }) two).rst.phase.toNat == n) = true ∧
    (rst (fun r => { r with dsock := 3 }) two).rst.dsock.toNat < 4 ∧ two.updating = none ∧ (upd (.die 2) true two).updating = some ⟨new2 (.die 2), true⟩ ∧ (upd (.die 2) false two).updating = some ⟨new2 (.die 2), false⟩ ∧
    ((two.launch 0).live = true ∧ (two.launch 0).status = none) := by decide +kernel
/-- R454, R455: the last die in service is refused with 2, a busy one with 3; a die re-admitted counts. -/
theorem test_die_reset : (let ask (x : BitVec 4) (s : State) := (next (exec .dieResetStart (rst (fun r => { r with phase := 7, waiting := [(x, 0, false)] }) s))).rst
    let back := next (exec (.dieResetPhaseEnd true) (rst (fun r => { r with phase := 6, dsock := 2 }) two))
    (ask 0 s0).status == 2 && (ask 0 two).status == 3 && (ask 3 two).status == 1 && (ask 2 two).phase == 1 && back.rst.count == 1 && (back.die 2).inReset == false) = true := by decide +kernel

-- words, steps, the whole machine ------------------------------------------------------------------------

/-- Word 0 of R38, field by field: OP, TY, MD, AC, XW, CE, SX. -/
def wd (op : BitVec 8) (ty md : BitVec 4) (ac : BitVec 3) (xw : BitVec 2) (ce : BitVec 1) (sx : BitVec 10) : W32 := op ++ ty ++ md ++ ac ++ xw ++ ce ++ sx
/-- A reference word: operand 0 in [15:0], operand 1 in [31:16] (R39). -/
def wr (a b : BitVec 16) : W32 := b ++ a
def reads (ws : List W32) (i : Instr) : Bool := match decode ws with | .ok (j, n) => j == i && n == ws.length | .error _ => false
def refuses (ws : List W32) (c : XlCode) : Bool := match decode ws with | .error x => x == c | .ok _ => false
/-- R76, R77: control and blocks. -/
theorem test_words_control : (reads [wd 0x01 0 0 0 1 0 2, 0x00000084] (.blk [.i32, .f32]) && reads [wd 0x02 0 0 0 2 1 2, wr 3 5, wr 6 0] (.br 3 2 [r 5, r 6]) &&
    reads [wd 0x03 0 0 0 2 1 0, wr 5 1, wr 2 0] (.cbr (r 5) 1 2 0 0 []) && reads [wd 0x04 0 0 0 2 1 3, wr 5 1, wr 2 0] (.switch (r 5) 1 2 3) && reads [wd 0x06 0 0 0 0 1 0] .exit &&
    reads [wd 0x07 0 0 0 0 1 0] .unreachable && reads [wd 0x09 0 0 0 1 0 2, wr 5 6] (.args [r 5, r 6])) = true := by decide +kernel
/-- R78: integers and addresses; MD bit 16 takes the last operand from a literal word, bit 19 is U. -/
theorem test_words_integer : (reads [wd 0x10 4 0 0 1 0 1, wr 2 3] (.add (hd .i32) .satS (r 2) (r 3)) && reads [wd 0x11 3 0b1001 0 2 0 2, wr 2 0, 0xFFFF] (.sub (hdU .i16) .satU (r 2) (k 0xFFFF)) &&
    reads [wd 0x12 5 0 0 1 0 4, wr 1 2] (.mul (hd .i64) .satU (r 1) (r 2)) && reads [wd 0x1B 4 0 0 2 0 0, wr 1 2, wr 3 0] (.addc (hd .i32) (r 1) (r 2) (r 3)) &&
    reads [wd 0x26 2 0 0 1 0 1, wr 1 2] (.shr (hd .i8) true (r 1) (r 2)) && reads [wd 0x2D 4 0 0 2 0 0, wr 1 2, wr 3 4] (.bfi (hd .i32) (r 1) (r 2) (r 3) (r 4)) &&
    reads [wd 0x30 10 0 0 1 0 9, wr 1 2] (.cmp (hd .ptr) .geU (r 1) (r 2)) && reads [wd 0x32 5 0 0 2 0 0, 7, 1] (.const (hd .i64) 0x100000007) &&
    reads [wd 0x37 10 0 0 1 0 0b110, wr 1 2] (.ptrIdx (hd .ptr) true 2 (r 1) (r 2))) = true := by decide +kernel
/-- R79, R80: floating point and conversion. -/
theorem test_words_float : (reads [wd 0x40 8 1 0 2 0 3, wr 1 0, 0x3F800000] (.addFloat (hd .f32) .rdn (r 1) (k 0x3F800000)) && reads [wd 0x43 6 0 0 2 0 1, wr 1 2, wr 3 0] (.fma (hd .f16) .rtz (r 1) (r 2) (r 3)) &&
    reads [wd 0x4D 9 0 0 1 0 7, wr 1 2] (.cmpFloat (hd .f64) .uno (r 1) (r 2)) && reads [wd 0x4E 7 0 0 1 0 0x3FF, wr 1 0] (.class (hd .bf16) 0x3FF (r 1)) &&
    reads [wd 0x56 8 0 0 2 0 0, wr 1 2, wr 3 4] (.amax (hd .f32) (r 1) (r 2) (r 3) (r 4)) && reads [wd 0x60 4 0 0 1 0 0b1101, wr 1 0] (.cvt (hd .i32) .rtz true true (r 1)) &&
    reads [wd 0x61 6 0 5 1 0 1, wr 1 0] (.cvtSlot (hd .f16) 5 true (r 1)) && reads [wd 0x62 13 0 2 1 0 1, wr 1 2] (.q4Pack (hd .q4) 2 (r 1) (some (r 2))) &&
    reads [wd 0x63 8 8 1 1 0 0, wr 1 2] (.q4Unpack (hdU .f32) 1 (r 1) (r 2) none) && reads [wd 0x66 3 0 0 1 0 0, wr 1 0] (.q4Scale (hd .i16) (r 1))) = true := by decide +kernel
/-- R81: lane and exchange. -/
theorem test_words_lanes : (reads [wd 0x70 8 1 0 2 0 3, wr 1 0, 16] (.shfl (hd .f32) .xor (r 1) (k 16)) && reads [wd 0x71 4 0 0 1 0 3, wr 1 0] (.vote (hd .i32) .ballot (r 1)) &&
    reads [wd 0x72 4 0 0 1 0 0b1011, wr 1 0] (.scan (hd .i32) true .xor (r 1)) && reads [wd 0x74 6 0 0 1 0 1, wr 1 2] (.xamax (hd .f16) true (r 1) (r 2)) && reads [wd 0x76 4 0 0 0 0 0] (.active (hd .i32)) &&
    reads [wd 0x77 4 0 0 1 1 0b00111, wr 1 2] (.emit (hdE .i32) 7 (r 1) (some (r 2)))) = true := by decide +kernel
/-- R82: memory and atomics. -/
theorem test_words_memory : (reads [wd 0x80 4 0 3 1 0 0b0101, wr 1 0] (.ld (hd .i32) 3 true .team (r 1)) && reads [wd 0x81 8 0 0 1 0 0, wr 1 2] (.st (hd .f32) 0 false .lane (r 1) (r 2)) &&
    reads [wd 0x83 4 0 0 2 0 0, wr 1 2, 0xFFFFFFFC] (.stk (hd .i32) 0 false .lane (r 1) (r 2) 0xFFFFFFFC) && reads [wd 0x84 6 0 1 1 0 0b100101, wr 1 2] (.gather (hd .f16) 1 1 true .elem (r 1) (r 2)) &&
    reads [wd 0x86 0 0 0 1 0 2, wr 1 0] (.prefetch (hd .void) 0 .xlat (r 1)) && reads [wd 0x88 10 0 0 1 0 2, wr 1 0] (.ptrCast (hd .ptr) 0 .scratch (r 1)) &&
    reads [wd 0x90 8 0 0 1 0 0b101111011, wr 1 2] (.atom (hd .f32) 0 .fadd .acqrel .system (r 1) (r 2)) && reads [wd 0x91 5 0 0 2 0 0, wr 1 2, wr 3 0] (.cas (hd .i64) 0 .relaxed .lane (r 1) (r 2) (r 3)) &&
    reads [wd 0x92 4 0 0 1 0 0b010, wr 1 2] (.red (hd .i32) 0 .minU .relaxed .lane (r 1) (r 2)) && reads [wd 0x98 0 0 0 0 0 0b10011] (.fence (hd .void) .acqrel .package) &&
    refuses [wd 0x80 4 0 0 1 0 0b0100, wr 1 0] .opcode && refuses [wd 0x92 4 0 0 1 0 8, wr 1 2] .opcode) = true := by decide +kernel
/-- R83: synchronisation and spools; SX[9] is the timed form. -/
theorem test_words_sync : (reads [wd 0xA0 1 0 0 1 1 15, wr 1 2] (.bar (hdE .i1) 15 (r 1) (r 2)) && reads [wd 0xA1 4 0 0 1 0 3, wr 1 2] (.barArrive (hd .i32) 3 (r 1) (r 2)) &&
    reads [wd 0xA2 0 0 0 1 1 3, wr 1 0] (.barWait 3 (r 1)) && reads [wd 0xA2 1 0 0 1 1 0b1000000011, wr 1 2] (.barWaitTimed (hdE .i1) 3 (r 1) (r 2)) && reads [wd 0xA4 0 0 0 1 0 0, wr 1 2] (.xbInit (hd .void) (r 1) (r 2)) &&
    reads [wd 0xA8 10 0 0 1 0 0, wr 1 0] (.spoolClaim (hd .ptr) (r 1)) && refuses [wd 0xA2 1 0 0 1 1 3, wr 1 0] .opcode) = true := by decide +kernel
/-- R84: Hod, Reel and matrix. -/
theorem test_words_units : (reads [wd 0xB0 0 0 0 1 0 1, wr 1 0] (.hodKick (hd .void) 1 (r 1)) && reads [wd 0xB1 14 0 0 1 0 0, wr 1 0] (.hodBind (hd .hnd) 0 (r 1)) && reads [wd 0xB2 2 0 0 1 1 0, wr 1 0] (.sread (hdE .i8) (r 1)) &&
    reads [wd 0xB9 0 0 0 2 0 0, wr 1 2, wr 3 4] (.reelAlight (hd .void) (r 1) (r 2) (r 3) (r 4)) && reads [wd 0xBA 5 0 0 2 1 0b111110001, wr 1 2, wr 3 4] (.reelCapture (hdE .i64) .add 7 .acqrel (r 1) (r 2) (r 3) (r 4)) &&
    reads [wd 0xC0 14 0 6 1 0 0, wr 1 0] (.mxLdst (hd .hnd) 6 (r 1)) && reads [wd 0xC1 0 0 0 0 0 0] (.mxSwap false) && reads [wd 0xC2 14 0 1 1 0 1, wr 1 2] (.mxStreamBound (hd .hnd) 1 (r 1) (r 2)) &&
    reads [wd 0xC5 14 0 1 1 0 1, wr 1 0] (.mxDrainAdd (hd .hnd) 1 (r 1)) && reads [wd 0xC6 0 0 0 1 1 0, wr 1 0] (.mxWait (r 1)) && refuses [wd 0xBA 5 0 0 2 1 10, wr 1 2, wr 3 4] .opcode) = true := by decide +kernel
/-- R85: system and trap. -/
theorem test_words_system : (reads [wd 0xE0 0 0 0 0 1 0] .ctxDrain && reads [wd 0xE1 0 0 0 1 1 0, wr 1 0] (.ctxSpill (r 1)) && reads [wd 0xE4 0 0 0 1 0 1, wr 1 0] (.ctxDivRestore false (r 1)) && reads [wd 0xE6 0 0 0 0 1 0] .tret &&
    reads [wd 0xE8 0 0 0 0 1 1023] (.trap 1023) && reads [wd 0xE8 0 0 0 1 1 5, wr 1 0] (.trapDetail 5 (r 1)) && reads [wd 0xE9 5 0 0 0 0 23] (.rdctr (hd .i64) 23) &&
    reads [wd 0xEA 4 0 0 1 0 0, wr 1 0] (.rdcap (hd .i32) (r 1)) && reads [wd 0xEB 0 0 0 0 1 15] (.phaseDecl 15)) = true := by decide +kernel
/-- The table's own numbering: the first word lowest. -/
theorem test_table_words : decodeTableWord 64 0x0001000015400800 = some (.divrem (hd .i32) false (r 0) (r 1)) ∧ decodeTableWord 32 0 = none ∧ decodeTableWord 32 0xBB000400 = some .reelFence := by decide +kernel

/-- Steps: an event first, an instruction, a word that no encoding gives, a group on the native level, no group. -/
def ssum : State := vals [u .i32 5, u .i32 6] (State.reset.withFetchWord 64 0x0001000010400800)
theorem witness_StepRunsTheDecodedInstruction : (ssum.agenda = [] ∧ Runs ssum ∧ (gof ssum).nat.on = false) ∧
    (match decode ((ssum.wordsOf gid0 (gof ssum) (gof ssum).frame.func).drop (gof ssum).frame.word) with | .ok x => x == (.add (hd .i32) .wrap (r 0) (r 1), 2) | .error _ => false) = true ∧
    (let s := State.reset.withFetchWord 32 0
     s.agenda = [] ∧ Runs s ∧ (gof s).nat.on = false ∧ refuses ((s.wordsOf gid0 (gof s) (gof s).frame.func).drop (gof s).frame.word) .opcode = true) ∧
    ((snat 0).agenda = [] ∧ Runs (snat 0) ∧ (gof (snat 0)).nat.on = true) ∧ State.reset.cur = none ∧ State.reset.agenda = [] ∧
    (let s := grp (fun g => g.setFrame { g.frame with word := 4 }) ssum
     Runs s ∧ s.wordsOf gid0 (gof s) (gof s).frame.func ≠ [] ∧ (s.wordsOf gid0 (gof s) (gof s).frame.func).length ≤ (gof s).frame.word ∧ (gof s).nat.on = false) ∧
    (let s := State.reset.withFetchWord 32 0
     (gof s).frame.word < (s.wordsOf gid0 (gof s) (gof s).frame.func).length) ∧
    ({ State.reset with agenda := [.coldStart] } : State).agenda = .coldStart :: [] := by decide +kernel
/-- One step adds 5 and 6 and moves past the instruction's two words. -/
theorem test_step : (let g := gof (next (step ssum))
    laneAt (SMap.get Val.undef g.frame.vals (ssum.defNum gid0 (gof ssum))).lanes 31 == 11 && g.frame.word == 2) = true := by decide +kernel
theorem witness_EncodingAndDecodingAgree : instrWf (.reelCapture (hdE .i64) .incw 7 .acqrel (r 0xFFFF) (r 0) (r 1) (r 2)) = true ∧ (parts (.reelCapture (hdE .i64) .incw 7 .acqrel (r 0xFFFF) (r 0) (r 1) (r 2))).isSome = true ∧
    reads [wd 0xE8 0 0 0 0 1 1023] (.trap 1023) = true := by decide +kernel
theorem witness_MemoryFormKept : State.reset.ok = true ∧ (mapped s0).ok = true ∧ (match step State.reset with | .next t => t.ok | _ => false) = true := by decide +kernel

end Sys2Proof.Tests
end

section
/-! SUPPORT. What the integer lane functions of R92-R97, R102 deliver and count, as operations on words of the type's width. -/

namespace Sys2Proof.Proofs
open Sys2Proof.Machine

/-- A lane result delivers the w-bit word x, zero above it, and counts the events e. -/
def Shows {w : Nat} (o : LaneOut) (x : BitVec w) (e : Ev) : Prop := o.a = x.setWidth 64 ∧ o.ev = e
/-- The same for a lane result of two words. -/
def Shows2 {w v : Nat} (o : LaneOut) (x : BitVec w) (y : BitVec v) (e : Ev) : Prop := Shows o x e ∧ o.b = y.setWidth 64
/-- It delivers v clamped to lo to hi, and counts SATURATE where v lies outside (R92, R93, R95). -/
def ShowsClamped (w : Nat) (o : LaneOut) (lo hi v : Int) : Prop := Shows o (BitVec.ofInt w (clampInt lo hi v)) (satEv lo hi v)

-- the helpers of R89 ------------------------------------------------------------

theorem ofInt_uns (w : Nat) (a : Lane) : BitVec.ofInt w (uns w a) = a.setWidth w := by
  rw [uns_eq, BitVec.ofInt_natCast, BitVec.ofNat_toNat, BitVec.setWidth_eq]
theorem ofInt_sgn (w : Nat) (a : Lane) : BitVec.ofInt w (sgn w a) = a.setWidth w := by
  rw [sgn_eq, BitVec.ofInt_toInt]
theorem ofInt_sub (w : Nat) (x y : Int) : BitVec.ofInt w (x - y) = BitVec.ofInt w x - BitVec.ofInt w y := by
  rw [Int.sub_eq_add_neg, BitVec.ofInt_add, BitVec.ofInt_neg, BitVec.sub_eq_add_neg]
theorem minSgn_eq (w : Nat) : minSgn w = -(2 ^ (w - 1)) := by simp [minSgn]
theorem maxSgn_eq (w : Nat) : maxSgn w = 2 ^ (w - 1) - 1 := by simp [maxSgn]
theorem maxUns_eq (w : Nat) : maxUns w = 2 ^ w - 1 := by simp [maxUns]
theorem eq_zero_iff_uns (w : Nat) (a : Lane) : a.setWidth w = 0 ↔ uns w a = 0 := by
  rw [uns_eq, BitVec.toNat_eq]; rfl
/-- The most negative number by its value. -/
theorem eq_intMin_iff_sgn {w : Nat} (hw : 0 < w) (a : Lane) : a.setWidth w = BitVec.intMin w ↔ sgn w a = -(2 ^ (w - 1)) := by
  rw [← BitVec.toInt_inj, BitVec.toInt_intMin_of_pos hw, sgn_eq]
theorem eq_allOnes_iff_sgn {w : Nat} (hw : 0 < w) (a : Lane) : a.setWidth w = BitVec.allOnes w ↔ sgn w a = -1 := by
  rw [← BitVec.toInt_inj, BitVec.toInt_allOnes, if_pos hw, sgn_eq]
theorem neg_two_pow_le_sgn (w : Nat) (a : Lane) : -(2 ^ (w - 1)) ≤ sgn w a := by
  rw [sgn_eq]; exact BitVec.le_toInt _
theorem sgn_lt_two_pow (w : Nat) (a : Lane) : sgn w a < 2 ^ (w - 1) := by
  rw [sgn_eq]; exact Int.lt_of_le_sub_one BitVec.toInt_le

theorem shows_bits (w : Nat) (v : Int) : Shows (.ofNat (bits w v)) (BitVec.ofInt w v) 0 := ⟨bits_eq w v, rfl⟩
theorem shows_toNat {w : Nat} (x : BitVec w) : Shows (.ofNat x.toNat) x 0 := ⟨ofNat_toNat64 x, rfl⟩
theorem shows_of_lt {w n : Nat} (h : n < 2 ^ w) : Shows (.ofNat n) (BitVec.ofNat w n) 0 := by
  have hs := shows_toNat (BitVec.ofNat w n)
  rwa [BitVec.toNat_ofNat, Nat.mod_eq_of_lt h] at hs
theorem shows_bool (b : Bool) : Shows (.bool b) (if b then 1 else 0 : BitVec 1) 0 := by cases b <;> exact ⟨rfl, rfl⟩
theorem shows_clampSigned (w : Nat) (v : Int) :
    ShowsClamped w (clampEv w (minSgn w) (maxSgn w) v) (-(2 ^ (w - 1))) (2 ^ (w - 1) - 1) v := by
  rw [minSgn_eq, maxSgn_eq]; exact ⟨clampEv_a .., clampEv_ev ..⟩
theorem shows_clampUnsigned (w : Nat) (v : Int) : ShowsClamped w (clampEv w 0 (maxUns w) v) 0 (2 ^ w - 1) v := by
  rw [maxUns_eq]; exact ⟨clampEv_a .., clampEv_ev ..⟩

-- sums (R92, R97) -----------------------------------------------------------------

section Sums
variable (w : Nat) (a b c : Lane)

theorem addLane_wrap : Shows (addLane w .wrap a b) (a.setWidth w + b.setWidth w) 0 := by
  have h := shows_bits w (uns w a + uns w b)
  rwa [BitVec.ofInt_add, ofInt_uns, ofInt_uns] at h
theorem addLane_satS :
    ShowsClamped w (addLane w .satS a b) (-(2 ^ (w - 1))) (2 ^ (w - 1) - 1) ((a.setWidth w).toInt + (b.setWidth w).toInt) := by
  rw [← sgn_eq, ← sgn_eq]; exact shows_clampSigned w _
theorem addLane_satU :
    ShowsClamped w (addLane w .satU a b) 0 (2 ^ w - 1) ((a.setWidth w).toNat + (b.setWidth w).toNat) := by
  rw [← uns_eq, ← uns_eq]; exact shows_clampUnsigned w _
theorem subLane_wrap : Shows (subLane w .wrap a b) (a.setWidth w - b.setWidth w) 0 := by
  have h := shows_bits w (uns w a - uns w b)
  rwa [ofInt_sub, ofInt_uns, ofInt_uns] at h
theorem subLane_satS :
    ShowsClamped w (subLane w .satS a b) (-(2 ^ (w - 1))) (2 ^ (w - 1) - 1) ((a.setWidth w).toInt - (b.setWidth w).toInt) := by
  rw [← sgn_eq, ← sgn_eq]; exact shows_clampSigned w _
theorem subLane_satU :
    ShowsClamped w (subLane w .satU a b) 0 (2 ^ w - 1) ((a.setWidth w).toNat - (b.setWidth w).toNat) := by
  rw [← uns_eq, ← uns_eq]; exact shows_clampUnsigned w _

/-- An i1 that is 1 where a condition holds. -/
theorem ite_setWidth64 (p : Prop) [Decidable p] : (if p then 1 else 0 : Lane) = (if p then 1 else 0 : BitVec 1).setWidth 64 := by
  split <;> rfl
theorem addcLane_carry :
    Shows2 (addcLane w a b c) (a.setWidth w + b.setWidth w + (c.setWidth 1).setWidth w)
      (if 2 ^ w ≤ (a.setWidth w).toNat + (b.setWidth w).toNat + (c.setWidth 1).toNat then 1 else 0 : BitVec 1) 0 := by
  simp only [addcLane, uns_eq]
  refine ⟨⟨?_, rfl⟩, ite_setWidth64 _⟩
  rw [← ofNat_toNat64, BitVec.toNat_add, BitVec.toNat_add, BitVec.toNat_setWidth w (c.setWidth 1), Nat.mod_add_mod, Nat.add_mod_mod]
theorem subbLane_borrow :
    Shows2 (subbLane w a b c) (a.setWidth w - b.setWidth w - (c.setWidth 1).setWidth w)
      (if (a.setWidth w).toNat < (b.setWidth w).toNat + (c.setWidth 1).toNat then 1 else 0 : BitVec 1) 0 := by
  have hc : BitVec.ofInt w (uns 1 c) = (c.setWidth 1).setWidth w := by
    rw [uns_eq, BitVec.ofInt_natCast, BitVec.ofNat_toNat]
  have h := shows_bits w (uns w a - uns w b - uns 1 c)
  rw [ofInt_sub, ofInt_sub, ofInt_uns, ofInt_uns, hc] at h
  refine ⟨⟨h.1, rfl⟩, ?_⟩
  have ht : ((uns w a : Int) - uns w b - uns 1 c < 0) = ((a.setWidth w).toNat < (b.setWidth w).toNat + (c.setWidth 1).toNat) := by
    rw [← uns_eq, ← uns_eq, ← uns_eq]
    exact propext (by omega)
  rw [← ite_setWidth64]
  simp only [subbLane, ht]

end Sums

-- negation and magnitude (R95) ------------------------------------------------------

section Magnitude
variable {w : Nat} (a : Lane)

/-- A number above the signed range clamps to the highest, with SATURATE. -/
theorem clampSigned_above {o : LaneOut} {v : Int} (h : ShowsClamped w o (-(2 ^ (w - 1))) (2 ^ (w - 1) - 1) v) (hv : 2 ^ (w - 1) ≤ v) :
    Shows o (BitVec.intMax w) Ev.saturate := by
  have hp : (0 : Int) < 2 ^ (w - 1) := Int.pow_pos (by decide)
  have h1 : ¬ v < -(2 ^ (w - 1)) := by omega
  have h2 : 2 ^ (w - 1) - 1 < v := by omega
  have hm : BitVec.ofInt w (2 ^ (w - 1) - 1) = BitVec.intMax w := by
    rw [← BitVec.toInt_intMax, BitVec.ofInt_toInt]
  rwa [ShowsClamped, clampInt, satEv, if_neg h1, if_pos h2, if_pos (.inr h2), hm] at h
/-- A number in the signed range stays as it is. -/
theorem clampSigned_inside {o : LaneOut} {v : Int} (h : ShowsClamped w o (-(2 ^ (w - 1))) (2 ^ (w - 1) - 1) v)
    (hl : -(2 ^ (w - 1)) ≤ v) (hh : v < 2 ^ (w - 1)) : Shows o (BitVec.ofInt w v) 0 := by
  have h1 : ¬ v < -(2 ^ (w - 1)) := by omega
  have h2 : ¬ 2 ^ (w - 1) - 1 < v := by omega
  rwa [ShowsClamped, clampInt, satEv, if_neg h1, if_neg h2, if_neg (by simp only [h1, h2, or_self, not_false_eq_true])] at h
theorem ofInt_natAbs_sgn : BitVec.ofInt w (sgn w a).natAbs = if (a.setWidth w).msb then -a.setWidth w else a.setWidth w := by
  rw [BitVec.msb_eq_toInt, ← sgn_eq]
  by_cases h : sgn w a < 0
  · rw [if_pos (decide_eq_true h), Int.ofNat_natAbs_of_nonpos (Int.le_of_lt h), BitVec.ofInt_neg, ofInt_sgn]
  · rw [if_neg (by simpa using h), Int.natAbs_of_nonneg (Int.not_lt.mp h), ofInt_sgn]

theorem negLane_wrap : Shows (negLane w false a) (-a.setWidth w) 0 := by
  have h := shows_bits w (-sgn w a)
  rwa [BitVec.ofInt_neg, ofInt_sgn] at h
theorem absLane_wrap : Shows (absLane w false a) (if (a.setWidth w).msb then -a.setWidth w else a.setWidth w) 0 := by
  rw [← ofInt_natAbs_sgn]; exact shows_bits w _
theorem negLane_sat (hw : 0 < w) :
    Shows (negLane w true a) (if a.setWidth w = BitVec.intMin w then BitVec.intMax w else -a.setWidth w)
      (if a.setWidth w = BitVec.intMin w then Ev.saturate else 0) := by
  have h : ShowsClamped w (negLane w true a) _ _ (-sgn w a) := shows_clampSigned w _
  have hl := neg_two_pow_le_sgn w a
  have hh := sgn_lt_two_pow w a
  by_cases hx : a.setWidth w = BitVec.intMin w
  · rw [if_pos hx, if_pos hx]
    rw [eq_intMin_iff_sgn hw] at hx
    exact clampSigned_above h (by omega)
  · rw [if_neg hx, if_neg hx, ← ofInt_sgn w a, ← BitVec.ofInt_neg]
    rw [eq_intMin_iff_sgn hw] at hx
    exact clampSigned_inside h (by omega) (by omega)
theorem absLane_sat (hw : 0 < w) :
    Shows (absLane w true a)
      (if a.setWidth w = BitVec.intMin w then BitVec.intMax w else if (a.setWidth w).msb then -a.setWidth w else a.setWidth w)
      (if a.setWidth w = BitVec.intMin w then Ev.saturate else 0) := by
  have h : ShowsClamped w (absLane w true a) _ _ (sgn w a).natAbs := shows_clampSigned w _
  have hl := neg_two_pow_le_sgn w a
  have hh := sgn_lt_two_pow w a
  by_cases hx : a.setWidth w = BitVec.intMin w
  · rw [if_pos hx, if_pos hx]
    rw [eq_intMin_iff_sgn hw] at hx
    exact clampSigned_above h (by omega)
  · rw [if_neg hx, if_neg hx, ← ofInt_natAbs_sgn]
    rw [eq_intMin_iff_sgn hw] at hx
    exact clampSigned_inside h (by omega) (by omega)

end Magnitude

-- products (R93) ----------------------------------------------------------------------

section Products
variable (w : Nat) (a b c : Lane)

/-- The high half of a number of 2w bits is its quotient by 2^w. -/
theorem ofInt_ediv_two_pow (v : Int) : BitVec.ofInt w (v / (2 ^ w : Nat)) = (BitVec.ofInt (2 * w) v).extractLsb' w w := by
  have hp : (0 : Int) < (2 ^ w : Nat) := Int.natCast_pos.mpr (Nat.two_pow_pos w)
  have h2 : ((2 ^ (2 * w) : Nat) : Int) = (2 ^ w : Nat) * (2 ^ w : Nat) := by rw [Nat.two_mul, Nat.pow_add, Int.natCast_mul]
  obtain ⟨n, hn⟩ := Int.eq_ofNat_of_zero_le (Int.emod_nonneg v (b := (2 ^ (2 * w) : Nat)) (Int.natCast_ne_zero.mpr (Nat.ne_of_gt (Nat.two_pow_pos (2 * w)))))
  have hm : v / (2 ^ w : Nat) % (2 ^ w : Nat) = (n / 2 ^ w % 2 ^ w : Nat) := by
    rw [Int.natCast_emod, Int.natCast_ediv, ← hn, h2, Int.emod_def v, Int.mul_assoc, Int.sub_mul_ediv_left _ _ (Int.ne_of_gt hp),
      Int.ediv_mul_of_nonneg (Int.le_of_lt hp), ← Int.emod_def, Int.emod_emod]
  apply BitVec.eq_of_toNat_eq
  rw [BitVec.toNat_ofInt, BitVec.extractLsb'_toNat, BitVec.toNat_ofInt, hm, hn, Int.toNat_natCast, Int.toNat_natCast, Nat.shiftRight_eq_div_pow]
theorem mulLane_low : Shows (mulLane w .low a b) (a.setWidth w * b.setWidth w) 0 := by
  have h := shows_bits w (uns w a * uns w b)
  rwa [BitVec.ofInt_mul, ofInt_uns, ofInt_uns] at h
theorem mulLane_hiS :
    Shows (mulLane w .hiS a b) ((BitVec.ofInt (2 * w) ((a.setWidth w).toInt * (b.setWidth w).toInt)).extractLsb' w w) 0 := by
  rw [← ofInt_ediv_two_pow, ← sgn_eq, ← sgn_eq]; exact shows_bits w _
theorem mulLane_hiU :
    Shows (mulLane w .hiU a b) ((BitVec.ofNat (2 * w) ((a.setWidth w).toNat * (b.setWidth w).toNat)).extractLsb' w w) 0 := by
  rw [← BitVec.ofInt_natCast, ← ofInt_ediv_two_pow, ← uns_eq, ← uns_eq, Int.natCast_mul]; exact shows_bits w _
theorem mulLane_satS :
    ShowsClamped w (mulLane w .satS a b) (-(2 ^ (w - 1))) (2 ^ (w - 1) - 1) ((a.setWidth w).toInt * (b.setWidth w).toInt) := by
  rw [← sgn_eq, ← sgn_eq]; exact shows_clampSigned w _
theorem mulLane_satU :
    ShowsClamped w (mulLane w .satU a b) 0 (2 ^ w - 1) ((a.setWidth w).toNat * (b.setWidth w).toNat : Nat) := by
  rw [← uns_eq, ← uns_eq, Int.natCast_mul]; exact shows_clampUnsigned w _
theorem madLane_sum : Shows (madLane w a b c) (a.setWidth w * b.setWidth w + c.setWidth w) 0 := by
  have h := shows_bits w (uns w a * uns w b + uns w c)
  rwa [BitVec.ofInt_add, BitVec.ofInt_mul, ofInt_uns, ofInt_uns, ofInt_uns] at h

end Products

-- division (R94) ------------------------------------------------------------------------

section Division
variable {w : Nat} (a b : Lane)

theorem divRem_by_zero (un : Bool) (hb : b.setWidth w = 0) :
    Shows2 (divRem w un a b) (BitVec.allOnes w) (a.setWidth w) Ev.intdiv := by
  rw [divRem, if_pos ((eq_zero_iff_uns w b).mp hb)]
  refine ⟨⟨?_, rfl⟩, ?_⟩
  · rw [← ofNat_toNat64, BitVec.toNat_allOnes]
  · rw [uns_eq, ofNat_toNat64]
theorem divRem_unsigned (hb : b.setWidth w ≠ 0) :
    Shows2 (divRem w true a b) (a.setWidth w / b.setWidth w) (a.setWidth w % b.setWidth w) 0 := by
  rw [divRem, if_neg (mt (eq_zero_iff_uns w b).mpr hb), if_pos rfl]
  refine ⟨⟨?_, rfl⟩, ?_⟩
  · rw [← ofNat_toNat64, BitVec.toNat_udiv, uns_eq, uns_eq]
  · rw [← ofNat_toNat64, BitVec.toNat_umod, uns_eq, uns_eq]
theorem ofInt_tdiv_sgn : BitVec.ofInt w ((sgn w a).tdiv (sgn w b)) = (a.setWidth w).sdiv (b.setWidth w) := by
  apply BitVec.eq_of_toInt_eq
  rw [BitVec.toInt_ofInt, BitVec.toInt_sdiv, sgn_eq, sgn_eq]
theorem ofInt_tmod_sgn : BitVec.ofInt w ((sgn w a).tmod (sgn w b)) = (a.setWidth w).srem (b.setWidth w) := by
  rw [sgn_eq, sgn_eq, ← BitVec.toInt_srem, BitVec.ofInt_toInt]
/-- The overflow case: the most negative number by -1. -/
theorem divRem_overflow (hw : 0 < w) (ha : a.setWidth w = BitVec.intMin w) (hb : b.setWidth w = BitVec.allOnes w) :
    Shows2 (divRem w false a b) ((a.setWidth w).sdiv (b.setWidth w)) ((a.setWidth w).srem (b.setWidth w)) Ev.intdiv := by
  have hs : sgn w a = minSgn w ∧ sgn w b = -1 := by
    rw [minSgn_eq]; exact ⟨(eq_intMin_iff_sgn hw a).mp ha, (eq_allOnes_iff_sgn hw b).mp hb⟩
  have h0 : uns w b ≠ 0 := by
    rw [uns_eq, hb, BitVec.toNat_allOnes]
    have := Nat.one_lt_two_pow (Nat.ne_of_gt hw)
    omega
  have hq : (a.setWidth w).sdiv (b.setWidth w) = a.setWidth w := by
    rw [ha, hb, ← BitVec.neg_one_eq_allOnes, BitVec.intMin_sdiv_neg_one]
  have hr : (a.setWidth w).srem (b.setWidth w) = 0 := by
    rw [← ofInt_tmod_sgn, hs.2, Int.tmod_neg, Int.tmod_one]; rfl
  rw [divRem, if_neg h0, if_neg Bool.false_ne_true, if_pos hs, hq, hr]
  refine ⟨⟨?_, rfl⟩, ?_⟩
  · rw [uns_eq, ofNat_toNat64]
  · simp
theorem divRem_signed (hw : 0 < w) (hb : b.setWidth w ≠ 0) (ho : ¬(a.setWidth w = BitVec.intMin w ∧ b.setWidth w = BitVec.allOnes w)) :
    Shows2 (divRem w false a b) ((a.setWidth w).sdiv (b.setWidth w)) ((a.setWidth w).srem (b.setWidth w)) 0 := by
  rw [eq_intMin_iff_sgn hw, eq_allOnes_iff_sgn hw, ← minSgn_eq] at ho
  rw [divRem, if_neg (mt (eq_zero_iff_uns w b).mpr hb), if_neg Bool.false_ne_true, if_neg ho, ← ofInt_tdiv_sgn, ← ofInt_tmod_sgn]
  exact ⟨shows_bits w _, bits_eq w _⟩
/-- Quotient, remainder and INTDIV by the four cases of R94. -/
theorem divRem_cases (hw : 0 < w) (un : Bool) :
    Shows2 (divRem w un a b)
      (if b.setWidth w = 0 then BitVec.allOnes w else if un then a.setWidth w / b.setWidth w else (a.setWidth w).sdiv (b.setWidth w))
      (if b.setWidth w = 0 then a.setWidth w else if un then a.setWidth w % b.setWidth w else (a.setWidth w).srem (b.setWidth w))
      (if b.setWidth w = 0 ∨ (un = false ∧ a.setWidth w = BitVec.intMin w ∧ b.setWidth w = BitVec.allOnes w) then Ev.intdiv else 0) := by
  by_cases hb : b.setWidth w = 0
  · simpa only [hb, true_or, if_true] using divRem_by_zero a b un hb
  · cases un with
    | true => simpa only [hb, if_false, if_true, false_or, Bool.true_eq_false, false_and] using divRem_unsigned a b hb
    | false =>
      by_cases ho : a.setWidth w = BitVec.intMin w ∧ b.setWidth w = BitVec.allOnes w
      · simpa only [hb, eq_true ho, if_false, if_true, false_or, Bool.false_eq_true, and_self] using divRem_overflow a b hw ho.1 ho.2
      · simpa only [hb, ho, if_false, false_or, Bool.false_eq_true, and_false] using divRem_signed a b hw hb ho
theorem Shows2.snd {v : Nat} {o : LaneOut} {x : BitVec w} {y : BitVec v} {e : Ev} (h : Shows2 o x y e) : Shows o.snd y e :=
  ⟨h.2, h.1.2⟩

end Division

-- order (R96, R102) -----------------------------------------------------------------------

section Order
variable (w : Nat) (a b : Lane)

theorem minLane_word (un : Bool) :
    Shows (minLane w un a b)
      (if (if un then (b.setWidth w).ult (a.setWidth w) else (b.setWidth w).slt (a.setWidth w)) then b.setWidth w else a.setWidth w) 0 := by
  rw [BitVec.ult_eq_decide, BitVec.slt_eq_decide, minLane, sgn_eq, sgn_eq, uns_eq, uns_eq, ← apply_ite BitVec.toNat]
  exact shows_toNat _
theorem maxLane_word (un : Bool) :
    Shows (maxLane w un a b)
      (if (if un then (a.setWidth w).ult (b.setWidth w) else (a.setWidth w).slt (b.setWidth w)) then b.setWidth w else a.setWidth w) 0 := by
  rw [BitVec.ult_eq_decide, BitVec.slt_eq_decide, maxLane, sgn_eq, sgn_eq, uns_eq, uns_eq, ← apply_ite BitVec.toNat]
  exact shows_toNat _
theorem icmp_eq_cmpHolds (c : ICmp) : icmp w c a b = cmpHolds c (a.setWidth w) (b.setWidth w) := by
  have he : (uns w a == uns w b) = (a.setWidth w == b.setWidth w) := by
    rw [uns_eq, uns_eq, Bool.eq_iff_iff, beq_iff_eq, beq_iff_eq, BitVec.toNat_inj]
  cases c with
  | eq => exact he
  | ne => exact congrArg not he
  | ltS | gtS => simp only [icmp, cmpHolds, sgn_eq, BitVec.slt_eq_decide]
  | leS | geS => simp only [icmp, cmpHolds, sgn_eq, BitVec.sle_eq_decide]
  | ltU | gtU => simp only [icmp, cmpHolds, uns_eq, BitVec.ult_eq_decide]
  | leU | geU => simp only [icmp, cmpHolds, uns_eq, BitVec.ule_eq_decide]

end Order

end Sys2Proof.Proofs
end

section
/-! SUPPORT. What the bit instructions' lane functions of R98-R101 deliver, bit by bit and as operations on words of the type's width. -/

namespace Sys2Proof.Proofs
open Sys2Proof.Machine

section Bitwise
variable {w : Nat} (a b : Lane)

theorem bitLane_word (x : Lane) : Shows (bitLane w x) (x.setWidth w) 0 := by
  rw [bitLane, uns_eq]; exact shows_toNat _
theorem bitLane_and : Shows (bitLane w (a &&& b)) (a.setWidth w &&& b.setWidth w) 0 := by
  rw [← BitVec.setWidth_and]; exact bitLane_word _
theorem bitLane_or : Shows (bitLane w (a ||| b)) (a.setWidth w ||| b.setWidth w) 0 := by
  rw [← BitVec.setWidth_or]; exact bitLane_word _
theorem bitLane_xor : Shows (bitLane w (a ^^^ b)) (a.setWidth w ^^^ b.setWidth w) 0 := by
  rw [← BitVec.setWidth_xor]; exact bitLane_word _
theorem bitLane_not (hw : w ≤ 64) : Shows (bitLane w (~~~a)) (~~~(a.setWidth w)) 0 := by
  rw [← BitVec.setWidth_not hw]; exact bitLane_word _
theorem bitLane_andn (hw : w ≤ 64) : Shows (bitLane w (a &&& ~~~b)) (a.setWidth w &&& ~~~(b.setWidth w)) 0 := by
  rw [← BitVec.setWidth_not hw, ← BitVec.setWidth_and]; exact bitLane_word _

end Bitwise

-- shifts and rotations (R99) -----------------------------------------------------------

section Shifts
variable (w : Nat) (a n : Lane)

theorem shlLane_word : Shows (shlLane w a n) (a.setWidth w <<< (n.setWidth w).toNat) 0 := by
  have h : (a.setWidth w <<< (n.setWidth w).toNat).toNat = if w ≤ uns w n then 0 else uns w a * 2 ^ uns w n % 2 ^ w := by
    rw [uns_eq, uns_eq]
    by_cases hw : w ≤ (n.setWidth w).toNat
    · rw [if_pos hw, BitVec.shiftLeft_eq_zero hw]; rfl
    · rw [if_neg hw, BitVec.toNat_shiftLeft, Nat.shiftLeft_eq]
  rw [shlLane, ← h]; exact shows_toNat _
/-- A w-bit number shifted right by w or more is what it is shifted by w: 0, or -1 where it is negative. -/
theorem sgn_ediv_min (k : Nat) : sgn w a / (2 ^ Nat.min k w : Nat) = sgn w a / (2 ^ k : Nat) := by
  have hl := neg_two_pow_le_sgn w a
  have hh := sgn_lt_two_pow w a
  rcases Nat.le_total k w with hk | hk
  · rw [show Nat.min _ _ = _ from Nat.min_eq_left hk]
  · rw [show Nat.min _ _ = _ from Nat.min_eq_right hk]
    have h1 : (2 : Int) ^ (w - 1) ≤ (2 ^ w : Nat) := by
      exact_mod_cast Nat.pow_le_pow_right (n := 2) (by decide) (Nat.sub_le w 1)
    have h2 : ((2 ^ w : Nat) : Int) ≤ (2 ^ k : Nat) := by exact Int.ofNat_le.mpr (Nat.pow_le_pow_right (by decide) hk)
    rcases Int.lt_or_le (sgn w a) 0 with hs | hs
    · rw [Int.ediv_eq_neg_one_of_neg_of_le hs (by omega), Int.ediv_eq_neg_one_of_neg_of_le hs (by omega)]
    · rw [Int.ediv_eq_zero_of_lt hs (by omega), Int.ediv_eq_zero_of_lt hs (by omega)]
theorem shrLane_signed : Shows (shrLane w true a n) ((a.setWidth w).sshiftRight (n.setWidth w).toNat) 0 := by
  have h := shows_bits w (sgn w a / (2 ^ Nat.min (uns w n) w : Nat))
  rw [sgn_ediv_min, ← Int.shiftRight_eq_div_pow] at h
  rw [shrLane, if_pos rfl, sgn_ediv_min, ← Int.shiftRight_eq_div_pow]
  rw [sgn_eq, uns_eq] at h ⊢
  exact h
theorem shrLane_unsigned : Shows (shrLane w false a n) (a.setWidth w >>> (n.setWidth w).toNat) 0 := by
  have h : (a.setWidth w >>> (n.setWidth w).toNat).toNat = uns w a / 2 ^ Nat.min (uns w n) w := by
    rw [BitVec.toNat_ushiftRight, Nat.shiftRight_eq_div_pow, uns_eq, uns_eq]
    rcases Nat.le_total (n.setWidth w).toNat w with hk | hk
    · rw [show Nat.min _ _ = _ from Nat.min_eq_left hk]
    · have hx : (a.setWidth w).toNat < 2 ^ w := BitVec.isLt _
      rw [show Nat.min _ _ = _ from Nat.min_eq_right hk, Nat.div_eq_of_lt hx, Nat.div_eq_of_lt (Nat.lt_of_lt_of_le hx (Nat.pow_le_pow_right (by decide) hk))]
  rw [shrLane, if_neg Bool.false_ne_true, ← h]; exact shows_toNat _
/-- The bits moved up and those that come in below do not overlap: their sum is their union. -/
theorem rotate_sum_eq_or {w k x : Nat} (hk : k ≤ w) (hx : x < 2 ^ w) :
    x * 2 ^ k % 2 ^ w + x / 2 ^ (w - k) = x <<< k % 2 ^ w ||| x >>> (w - k) := by
  have hw : 2 ^ w = 2 ^ k * 2 ^ (w - k) := by rw [← Nat.pow_add, Nat.add_sub_cancel' hk]
  have hlow : x / 2 ^ (w - k) < 2 ^ k := Nat.div_lt_of_lt_mul (by rwa [Nat.mul_comm, ← hw])
  rw [Nat.shiftLeft_eq, Nat.shiftRight_eq_div_pow, Nat.mul_comm x, hw, Nat.mul_mod_mul_left, Nat.two_pow_add_eq_or_of_lt hlow]
theorem toNat_rotateLeft_sum {w : Nat} (hw : 0 < w) (x : BitVec w) (k : Nat) :
    (x.rotateLeft k).toNat = x.toNat * 2 ^ (k % w) % 2 ^ w + x.toNat / 2 ^ (w - k % w) := by
  rw [rotate_sum_eq_or (Nat.le_of_lt (Nat.mod_lt k hw)) x.isLt, BitVec.toNat_rotateLeft]
/-- Turning right by k is turning left by what is missing to w. -/
theorem rotateRight_eq_rotateLeft {w : Nat} (hw : 0 < w) (x : BitVec w) (k : Nat) : x.rotateRight k = x.rotateLeft ((w - k % w) % w) := by
  apply BitVec.eq_of_toNat_eq
  rw [BitVec.toNat_rotateRight, BitVec.toNat_rotateLeft, Nat.mod_mod]
  have hk := Nat.mod_lt k hw
  rcases Nat.eq_zero_or_pos (k % w) with h0 | hp
  · have hx := x.isLt
    simp [h0, Nat.shiftLeft_eq, Nat.shiftRight_eq_div_pow, Nat.div_eq_of_lt hx, Nat.mod_eq_of_lt hx]
  · rw [Nat.mod_eq_of_lt (Nat.sub_lt hw hp), Nat.sub_sub_self (Nat.le_of_lt hk), Nat.or_comm]
theorem rotLane_left (hw : 0 < w) : Shows (rotLane w false a n) ((a.setWidth w).rotateLeft (n.setWidth w).toNat) 0 := by
  rw [rotLane, if_neg Bool.false_ne_true, uns_eq, uns_eq, ← toNat_rotateLeft_sum hw]; exact shows_toNat _
theorem rotLane_right (hw : 0 < w) : Shows (rotLane w true a n) ((a.setWidth w).rotateRight (n.setWidth w).toNat) 0 := by
  have h := toNat_rotateLeft_sum hw (a.setWidth w) ((w - (n.setWidth w).toNat % w) % w)
  rw [Nat.mod_mod] at h
  rw [rotLane, if_pos rfl, uns_eq, uns_eq, ← h, rotateRight_eq_rotateLeft hw]; exact shows_toNat _

end Shifts

-- counts and reversal (R100) -------------------------------------------------------------

section Counts
variable (w : Nat) (a : Lane)

theorem testBit_uns (i : Nat) : (uns w a).testBit i = (a.setWidth w).getLsbD i := by rw [uns_eq, BitVec.testBit_toNat]
theorem testBit_uns_of_ge {i : Nat} (h : w ≤ i) : (uns w a).testBit i = false := by rw [testBit_uns, BitVec.getLsbD_of_ge _ _ h]
/-- A count of at most w shows as it is. -/
theorem shows_count {w k : Nat} (h : k ≤ w) : Shows (.ofNat k) (BitVec.ofNat w k) 0 := shows_of_lt (Nat.lt_of_le_of_lt h Nat.lt_two_pow_self)
theorem popc_word :
    Shows (.ofNat (popcNat w (uns w a))) (BitVec.ofNat w ((List.range w).filter fun i => (a.setWidth w).getLsbD i).length) 0 := by
  have h : popcNat w (uns w a) ≤ w := Nat.le_trans (List.length_filter_le _ _) (Nat.le_of_eq List.length_range)
  simpa only [popcNat, testBit_uns] using shows_count h

/-- clz: no bit stands in the top k, and the next one is set. -/
theorem clzNat_spec {w x : Nat} (hx : x < 2 ^ w) :
    clzNat w x ≤ w ∧ (∀ i, w - clzNat w x ≤ i → i < w → x.testBit i = false) ∧ (clzNat w x < w → x.testBit (w - 1 - clzNat w x) = true) := by
  rw [clzNat, Nat.mod_eq_of_lt hx]
  by_cases h0 : x = 0
  · rw [if_pos h0, h0]
    exact ⟨Nat.le_refl w, fun i _ _ => Nat.zero_testBit i, fun h => absurd h (Nat.lt_irrefl w)⟩
  · have hl : x.log2 < w := (Nat.log2_lt h0).mpr hx
    rw [if_neg h0]
    refine ⟨by omega, fun i hi _ => ?_, fun _ => ?_⟩
    · exact Nat.testBit_lt_two_pow (Nat.lt_of_lt_of_le Nat.lt_log2_self (Nat.pow_le_pow_right (by decide) (by omega)))
    · rw [show w - 1 - (w - 1 - x.log2) = x.log2 by omega]
      exact Nat.testBit_log2 h0
/-- ctz: no bit stands in the low k, and the next one is set. -/
theorem ctzNat_spec (w x : Nat) :
    ctzNat w x ≤ w ∧ (∀ i, i < ctzNat w x → x.testBit i = false) ∧ (ctzNat w x < w → x.testBit (ctzNat w x) = true) := by
  rw [ctzNat]
  cases h : (List.range w).find? fun i => x.testBit i with
  | none =>
    rw [List.find?_range_eq_none] at h
    exact ⟨Nat.le_refl w, fun i hi => Bool.not_eq_true' _ ▸ h i hi, fun hk => absurd hk (Nat.lt_irrefl w)⟩
  | some k =>
    obtain ⟨hk, hw, hlow⟩ := List.find?_range_eq_some.mp h
    exact ⟨Nat.le_of_lt (List.mem_range.mp hw), fun i hi => Bool.not_eq_true' _ ▸ hlow i hi, fun _ => hk⟩

theorem clz_bits :
    clzNat w (uns w a) ≤ w ∧ (∀ i, w - clzNat w (uns w a) ≤ i → i < w → (a.setWidth w).getLsbD i = false) ∧
      (clzNat w (uns w a) < w → (a.setWidth w).getLsbD (w - 1 - clzNat w (uns w a)) = true) := by
  simpa only [testBit_uns] using clzNat_spec (x := uns w a) (Nat.mod_lt _ (Nat.two_pow_pos _))
theorem ctz_bits :
    ctzNat w (uns w a) ≤ w ∧ (∀ i, i < ctzNat w (uns w a) → (a.setWidth w).getLsbD i = false) ∧
      (ctzNat w (uns w a) < w → (a.setWidth w).getLsbD (ctzNat w (uns w a)) = true) := by
  simpa only [testBit_uns] using ctzNat_spec w (uns w a)

/-- What brev's fold holds after n bits: the low n bits of x, reversed into the top n of w. -/
theorem brevFold_spec (w x n : Nat) (hn : n ≤ w) :
    ∃ q, (List.range n).foldl (fun r i => if x.testBit i then r + 2 ^ (w - 1 - i) else r) 0 = 2 ^ (w - n) * q ∧
      ∀ j, q.testBit j = (decide (j < n) && x.testBit (n - 1 - j)) := by
  induction n with
  | zero => exact ⟨0, by simp, by simp⟩
  | succ n ih =>
    obtain ⟨q, hq, hbits⟩ := ih (by omega)
    refine ⟨2 ^ 1 * q + (x.testBit n).toNat, ?_, fun j => ?_⟩
    · rw [List.range_succ, List.foldl_append, hq, List.foldl_cons, List.foldl_nil, show w - n = w - (n + 1) + 1 by omega, Nat.pow_succ,
        show w - 1 - n = w - (n + 1) by omega, Nat.mul_add, ← Nat.mul_assoc, Nat.pow_one]
      cases x.testBit n with
      | true => rw [if_pos rfl, Bool.toNat_true, Nat.mul_one]
      | false => rw [if_neg Bool.false_ne_true, Bool.toNat_false, Nat.mul_zero]; rfl
    · rw [Nat.testBit_two_pow_mul_add q (Bool.toNat_lt _)]
      cases j with
      | zero =>
        rw [if_pos Nat.zero_lt_one, decide_eq_true (Nat.succ_pos n), Bool.true_and, show n + 1 - 1 - 0 = n from rfl]
        cases x.testBit n <;> rfl
      | succ j =>
        rw [if_neg (by omega), hbits, show n + 1 - 1 - (j + 1) = n - 1 - j by omega, show j + 1 - 1 = j from rfl]
        exact congrArg (· && x.testBit (n - 1 - j)) (decide_eq_decide.mpr (by omega))
theorem brevNat_word : brevNat w (uns w a) = ((a.setWidth w).reverse).toNat := by
  obtain ⟨q, hq, hbits⟩ := brevFold_spec w (uns w a) w (Nat.le_refl w)
  rw [Nat.sub_self, Nat.pow_zero, Nat.one_mul] at hq
  apply Nat.eq_of_testBit_eq
  intro j
  rw [brevNat, hq, hbits, uns_eq, BitVec.testBit_toNat, BitVec.testBit_toNat, BitVec.getLsbD_reverse, BitVec.getMsbD_eq_getLsbD]
theorem brev_word : Shows (.ofNat (brevNat w (uns w a))) (a.setWidth w).reverse 0 := by
  rw [brevNat_word]; exact shows_toNat _

end Counts

-- bit fields (R101) -----------------------------------------------------------------------

section Fields
variable (w : Nat) (a b p n : Lane)

theorem fieldLen_eq_clipLen : fieldLen w p n = clipLen w (p.setWidth 32).toNat (n.setWidth 32).toNat := by
  rw [← uns_eq, ← uns_eq]; rfl
/-- A field that is not empty ends within the value. -/
theorem add_clipLen_le {w pos len : Nat} (h : 0 < clipLen w pos len) : pos + clipLen w pos len ≤ w := by
  unfold clipLen at *
  split at h
  · exact absurd h (Nat.lt_irrefl 0)
  · next hp =>
    have := Nat.min_le_right len (w - pos)
    rw [if_neg hp]
    change pos + min len (w - pos) ≤ w
    omega
theorem clipLen_le (w pos len : Nat) : clipLen w pos len ≤ w := by
  rcases Nat.eq_zero_or_pos (clipLen w pos len) with h | h
  · omega
  · exact Nat.le_trans (Nat.le_add_left ..) (add_clipLen_le h)

/-- The bits of the field of k bits at position p. -/
theorem testBit_field (pos k j : Nat) :
    (uns w a / 2 ^ pos % 2 ^ k).testBit j = (decide (j < k) && (a.setWidth w).getLsbD (pos + j)) := by
  rw [Nat.testBit_mod_two_pow, Nat.testBit_div_two_pow, testBit_uns, Nat.add_comm j]
theorem bfxLane_unsigned_eq : bfxLane w false a p n = .ofNat (uns w a / 2 ^ uns 32 p % 2 ^ fieldLen w p n) := by
  simp only [bfxLane, Bool.false_and]
  split
  · next h => rw [h, Nat.pow_zero, Nat.mod_one]; rfl
  · rfl
theorem bfxLane_unsigned_bits :
    ∃ f : BitVec w, Shows (bfxLane w false a p n) f 0 ∧
      ∀ i, i < w → f.getLsbD i = (decide (i < clipLen w (p.setWidth 32).toNat (n.setWidth 32).toNat) && (a.setWidth w).getLsbD ((p.setWidth 32).toNat + i)) := by
  rw [bfxLane_unsigned_eq, fieldLen_eq_clipLen, uns_eq 32]
  refine ⟨_, shows_of_lt (Nat.lt_of_lt_of_le (Nat.mod_lt _ (Nat.two_pow_pos _)) (Nat.pow_le_pow_right (by decide) (clipLen_le ..))), fun i hi => ?_⟩
  rw [BitVec.getLsbD_ofNat, testBit_field, decide_eq_true hi, Bool.true_and]

/-- A field of k bits with its highest bit repeated up to bit w - 1. -/
def extendField (w k x : Nat) : Nat := if x.testBit (k - 1) then x + (2 ^ w - 2 ^ k) else x
theorem extendField_lt {w k x : Nat} (hk : k ≤ w) (hx : x < 2 ^ k) : extendField w k x < 2 ^ w := by
  have hp : 2 ^ k ≤ 2 ^ w := Nat.pow_le_pow_right (by decide) hk
  unfold extendField
  split <;> omega
theorem testBit_extendField {w k x i : Nat} (h0 : 0 < k) (hk : k ≤ w) (hx : x < 2 ^ k) (hi : i < w) :
    (extendField w k x).testBit i = x.testBit (Nat.min i (k - 1)) := by
  have hones : x + (2 ^ w - 2 ^ k) = 2 ^ k * (2 ^ (w - k) - 1) + x := by
    rw [Nat.mul_sub, Nat.mul_one, ← Nat.pow_add, Nat.add_sub_cancel' hk, Nat.add_comm]
  rcases Nat.lt_or_ge i k with hik | hik
  · rw [show Nat.min i (k - 1) = i from Nat.min_eq_left (by omega), extendField]
    split
    · rw [hones, Nat.testBit_two_pow_mul_add _ hx, if_pos hik]
    · rfl
  · rw [show Nat.min i (k - 1) = k - 1 from Nat.min_eq_right (by omega), extendField]
    split
    · next htop =>
      rw [hones, Nat.testBit_two_pow_mul_add _ hx, if_neg (by omega), Nat.testBit_two_pow_sub_one, htop]
      exact decide_eq_true (by omega)
    · next htop =>
      rw [Bool.not_eq_true] at htop
      rw [htop]
      exact Nat.testBit_lt_two_pow (Nat.lt_of_lt_of_le hx (Nat.pow_le_pow_right (by decide) hik))
theorem bfxLane_signed_eq (h0 : fieldLen w p n ≠ 0) :
    bfxLane w true a p n = .ofNat (extendField w (fieldLen w p n) (uns w a / 2 ^ uns 32 p % 2 ^ fieldLen w p n)) := by
  simp only [bfxLane, if_neg h0, Bool.true_and, extendField]
  split <;> rfl
theorem bfxLane_signed_bits :
    ∃ f : BitVec w, Shows (bfxLane w true a p n) f 0 ∧
      ∀ i, i < w → f.getLsbD i = (decide (0 < clipLen w (p.setWidth 32).toNat (n.setWidth 32).toNat) &&
        (a.setWidth w).getLsbD ((p.setWidth 32).toNat + Nat.min i (clipLen w (p.setWidth 32).toNat (n.setWidth 32).toNat - 1))) := by
  rw [← fieldLen_eq_clipLen, ← uns_eq]
  rcases Nat.eq_zero_or_pos (fieldLen w p n) with h0 | h0
  · refine ⟨0, ⟨?_, ?_⟩, fun i _ => ?_⟩
    · simp [bfxLane, h0, LaneOut.one]
    · simp [bfxLane, h0, LaneOut.one]
    · simp [h0]
  · have hk : fieldLen w p n ≤ w := clipLen_le w (uns 32 p) (uns 32 n)
    have hx : uns w a / 2 ^ uns 32 p % 2 ^ fieldLen w p n < 2 ^ fieldLen w p n := Nat.mod_lt _ (Nat.two_pow_pos _)
    rw [bfxLane_signed_eq w a p n (Nat.ne_of_gt h0)]
    refine ⟨_, shows_of_lt (extendField_lt hk hx), fun i hi => ?_⟩
    have hm : Nat.min i (fieldLen w p n - 1) < fieldLen w p n := Nat.lt_of_le_of_lt (Nat.min_le_right ..) (by omega)
    rw [BitVec.getLsbD_ofNat, testBit_extendField h0 hk hx hi, testBit_field, decide_eq_true hi, decide_eq_true h0, decide_eq_true hm]
    simp only [Bool.true_and]

/-- Base x with k bits of y put in at position pos. -/
def putField (pos k x y : Nat) : Nat := x % 2 ^ pos + y % 2 ^ k * 2 ^ pos + x / 2 ^ (pos + k) * 2 ^ (pos + k)
theorem testBit_putField (pos k x y i : Nat) :
    (putField pos k x y).testBit i = if pos ≤ i ∧ i < pos + k then y.testBit (i - pos) else x.testBit i := by
  have h : putField pos k x y = 2 ^ pos * (2 ^ k * (x / 2 ^ (pos + k)) + y % 2 ^ k) + x % 2 ^ pos := by
    rw [putField, Nat.pow_add, Nat.mul_add, Nat.mul_comm (y % 2 ^ k), Nat.mul_comm (_ / _) (2 ^ pos * 2 ^ k), Nat.mul_assoc]
    ac_rfl
  rw [h, Nat.testBit_two_pow_mul_add _ (Nat.mod_lt _ (Nat.two_pow_pos _))]
  rcases Nat.lt_or_ge i pos with hi | hi
  · rw [if_pos hi, if_neg (by omega), Nat.testBit_mod_two_pow, decide_eq_true hi, Bool.true_and]
  · rw [if_neg (by omega), Nat.testBit_two_pow_mul_add _ (Nat.mod_lt _ (Nat.two_pow_pos _))]
    rcases Nat.lt_or_ge i (pos + k) with hk | hk
    · rw [if_pos (by omega), if_pos ⟨hi, hk⟩, Nat.testBit_mod_two_pow, decide_eq_true (by omega), Bool.true_and]
    · rw [if_neg (by omega), if_neg (by omega), Nat.testBit_div_two_pow, show i - pos - k + (pos + k) = i by omega]
theorem putField_empty (pos x y : Nat) : putField pos 0 x y = x := by
  rw [putField, Nat.pow_zero, Nat.mod_one, Nat.zero_mul, Nat.add_zero, Nat.add_zero, Nat.mod_add_div']
theorem bfiLane_eq : bfiLane w a b p n = .ofNat (putField (uns 32 p) (fieldLen w p n) (uns w a) (uns w b)) := by
  simp only [bfiLane]
  split
  · next h => rw [h, putField_empty]
  · rfl
theorem putField_lt : putField (uns 32 p) (fieldLen w p n) (uns w a) (uns w b) < 2 ^ w := by
  refine Nat.lt_pow_two_of_testBit _ fun i hi => ?_
  have hin : ¬(uns 32 p ≤ i ∧ i < uns 32 p + fieldLen w p n) := by
    rintro ⟨h1, h2⟩
    have h3 : uns 32 p + fieldLen w p n ≤ w := add_clipLen_le (show 0 < clipLen w (uns 32 p) (uns 32 n) by change 0 < fieldLen w p n; omega)
    omega
  rw [testBit_putField, if_neg hin, testBit_uns_of_ge w a hi]
theorem bfiLane_bits :
    ∃ f : BitVec w, Shows (bfiLane w a b p n) f 0 ∧
      ∀ i, i < w → f.getLsbD i = if (p.setWidth 32).toNat ≤ i ∧ i < (p.setWidth 32).toNat + clipLen w (p.setWidth 32).toNat (n.setWidth 32).toNat then
        (b.setWidth w).getLsbD (i - (p.setWidth 32).toNat) else (a.setWidth w).getLsbD i := by
  rw [bfiLane_eq, ← fieldLen_eq_clipLen, ← uns_eq]
  refine ⟨_, shows_of_lt (putField_lt ..), fun i hi => ?_⟩
  rw [BitVec.getLsbD_ofNat, testBit_putField, decide_eq_true hi, Bool.true_and, testBit_uns, testBit_uns]

end Fields

end Sys2Proof.Proofs
end

section
/-! SUPPORT. The integer statements of the scalar and vector chapter (R92-R103), settled from what the lane functions deliver. -/

namespace Sys2Proof.Proofs
open Sys2Proof.Machine

-- from a lane function to an instruction ------------------------------------------------

section Gives
variable {s : State} {gid : GId} {g : Group} {h : Hd} {i : Instr} {ta tb tc td tr tr2 : Ty} {a b c d : Opnd} {e : Nat → Ev}

theorem sound_mono {ins ins' : List (Ty × Opnd)} (hs : Sound s gid g ins') (hsub : ins ⊆ ins') : Sound s gid g ins :=
  fun x hx => hs x (hsub hx)
theorem gives1 {F : Lane → LaneOut} {f : Nat → BitVec tr.bits} (hi : Issues s gid g) (hs : Sound s gid g [(ta, a)])
    (hx : exec i s = valueOp1 h ta tr a F s) (hF : ∀ l, Shows (F (opndBits s gid g ta a l)) (f l) (e l)) : Gives s gid g h i tr f e :=
  gives_of (hx.trans (exec1 hi h ta tr a F hs)) (fun l => (hF l).1) (fun l => (hF l).2)
theorem gives2 {F : Lane → Lane → LaneOut} {f : Nat → BitVec tr.bits} (hi : Issues s gid g) (hs : Sound s gid g [(ta, a), (tb, b)])
    (hx : exec i s = valueOp2 h ta tb tr a b F s)
    (hF : ∀ l, Shows (F (opndBits s gid g ta a l) (opndBits s gid g tb b l)) (f l) (e l)) : Gives s gid g h i tr f e :=
  gives_of (hx.trans (exec2 hi h ta tb tr a b F hs)) (fun l => (hF l).1) (fun l => (hF l).2)
theorem gives3 {F : Lane → Lane → Lane → LaneOut} {f : Nat → BitVec tr.bits} (hi : Issues s gid g)
    (hs : Sound s gid g [(ta, a), (tb, b), (tc, c)]) (hx : exec i s = valueOp3 h ta tb tc [tr] a b c F s)
    (hF : ∀ l, Shows (F (opndBits s gid g ta a l) (opndBits s gid g tb b l) (opndBits s gid g tc c l)) (f l) (e l)) :
    Gives s gid g h i tr f e :=
  gives_of (hx.trans (exec3 hi h ta tb tc tr a b c F hs)) (fun l => (hF l).1) (fun l => (hF l).2)
theorem gives4 {F : Lane → Lane → Lane → Lane → LaneOut} {f : Nat → BitVec tr.bits} (hi : Issues s gid g)
    (hs : Sound s gid g [(ta, a), (tb, b), (tc, c), (td, d)]) (hx : exec i s = valueOp4 h ta tb tc td [tr] a b c d F s)
    (hF : ∀ l, Shows (F (opndBits s gid g ta a l) (opndBits s gid g tb b l) (opndBits s gid g tc c l) (opndBits s gid g td d l)) (f l) (e l)) :
    Gives s gid g h i tr f e :=
  gives_of (hx.trans (exec4 hi h ta tb tc td tr a b c d F hs)) (fun l => (hF l).1) (fun l => (hF l).2)
theorem gives22 {F : Lane → Lane → LaneOut} {f : Nat → BitVec tr.bits} {f2 : Nat → BitVec tr2.bits} (hi : Issues s gid g)
    (hs : Sound s gid g [(ta, a), (tb, b)]) (hx : exec i s = valueOp22 h ta tb [tr, tr2] a b F s)
    (hF : ∀ l, Shows2 (F (opndBits s gid g ta a l) (opndBits s gid g tb b l)) (f l) (f2 l) (e l)) : Gives2 s gid g h i tr f tr2 f2 e :=
  gives2_of (hx.trans (exec22 hi h ta tb tr tr2 a b F hs)) (fun l => (hF l).1.1) (fun l => (hF l).2) (fun l => (hF l).1.2)
theorem gives32 {F : Lane → Lane → Lane → LaneOut} {f : Nat → BitVec tr.bits} {f2 : Nat → BitVec tr2.bits} (hi : Issues s gid g)
    (hs : Sound s gid g [(ta, a), (tb, b), (tc, c)]) (hx : exec i s = valueOp3 h ta tb tc [tr, tr2] a b c F s)
    (hF : ∀ l, Shows2 (F (opndBits s gid g ta a l) (opndBits s gid g tb b l) (opndBits s gid g tc c l)) (f l) (f2 l) (e l)) :
    Gives2 s gid g h i tr f tr2 f2 e :=
  gives2_of (hx.trans (exec32 hi h ta tb tc tr tr2 a b c F hs)) (fun l => (hF l).1.1) (fun l => (hF l).2) (fun l => (hF l).1.2)

/-- No lane's events add up to none. -/
theorem evLanes_zero (h : Hd) (g : Group) : (evLanes h g fun _ => 0) = 0 := by
  have hf (ls : List Nat) : ls.foldl (fun (e : Ev) _ => e ||| 0) 0 = 0 := by
    induction ls with
    | nil => rfl
    | cons _ ls ih => exact ih
  unfold evLanes
  split
  · rfl
  · exact hf _

end Gives

theorem bits_pos_of_isI {t : Ty} (h : t.isI = true) : 0 < t.bits := by revert h; cases t <;> decide
theorem ne_ptr_of_isI {t : Ty} (h : t.isI = true) : t ≠ .ptr := by rintro rfl; cases h
/-- The type of the second operand of add and sub (R92). -/
def offsetTy (t : Ty) : Ty := if t = .ptr then .i64 else t
theorem offsetTy_of_isI {t : Ty} (h : t.isI = true) : offsetTy t = t := if_neg (ne_ptr_of_isI h)
theorem bits_offsetTy (t : Ty) : (offsetTy t).bits = t.bits := by cases t <;> rfl
/-- An offset as a word of the instruction's type. -/
theorem opnd_offsetTy_setWidth (s : State) (gid : GId) (g : Group) (t : Ty) (o : Opnd) (l : Nat) :
    (opnd s gid g (offsetTy t) o l).setWidth t.bits = (opndBits s gid g (offsetTy t) o l).setWidth t.bits :=
  BitVec.setWidth_setWidth_of_le _ (Nat.le_of_eq (bits_offsetTy t).symm)

-- the instructions in their common shapes -------------------------------------------------

section Shapes
variable (s : State) (h : Hd) (a b c d : Opnd)

theorem exec_add (m : SatMode) : exec (.add h m a b) s = valueOp2 h h.ty (offsetTy h.ty) h.ty a b (addLane h.ty.bits m) s := rfl
theorem exec_sub (m : SatMode) : exec (.sub h m a b) s = valueOp2 h h.ty (offsetTy h.ty) h.ty a b (subLane h.ty.bits m) s := rfl
theorem exec_mul (m : MulMode) : exec (.mul h m a b) s = valueOp2 h h.ty h.ty h.ty a b (mulLane h.ty.bits m) s := rfl
theorem exec_mad : exec (.mad h a b c) s = valueOp3 h h.ty h.ty h.ty [h.ty] a b c (madLane h.ty.bits) s := rfl
theorem exec_div (un : Bool) : exec (.div h un a b) s = valueOp2 h h.ty h.ty h.ty a b (divRem h.ty.bits un) s := rfl
theorem exec_rem (un : Bool) : exec (.rem h un a b) s = valueOp2 h h.ty h.ty h.ty a b (fun x y => (divRem h.ty.bits un x y).snd) s := rfl
theorem exec_divrem (un : Bool) : exec (.divrem h un a b) s = valueOp22 h h.ty h.ty [h.ty, h.ty] a b (divRem h.ty.bits un) s := rfl
theorem exec_neg (sat : Bool) : exec (.neg h sat a) s = valueOp1 h h.ty h.ty a (negLane h.ty.bits sat) s := rfl
theorem exec_abs (sat : Bool) : exec (.abs h sat a) s = valueOp1 h h.ty h.ty a (absLane h.ty.bits sat) s := rfl
theorem exec_min (un : Bool) : exec (.min h un a b) s = valueOp2 h h.ty h.ty h.ty a b (minLane h.ty.bits un) s := rfl
theorem exec_max (un : Bool) : exec (.max h un a b) s = valueOp2 h h.ty h.ty h.ty a b (maxLane h.ty.bits un) s := rfl
theorem exec_addc : exec (.addc h a b c) s = valueOp3 h h.ty h.ty .i1 [h.ty, .i1] a b c (addcLane h.ty.bits) s := rfl
theorem exec_subb : exec (.subb h a b c) s = valueOp3 h h.ty h.ty .i1 [h.ty, .i1] a b c (subbLane h.ty.bits) s := rfl
theorem exec_and : exec (.and h a b) s = valueOp2 h h.ty h.ty h.ty a b (fun x y => bitLane h.ty.bits (x &&& y)) s := rfl
theorem exec_or : exec (.or h a b) s = valueOp2 h h.ty h.ty h.ty a b (fun x y => bitLane h.ty.bits (x ||| y)) s := rfl
theorem exec_xor : exec (.xor h a b) s = valueOp2 h h.ty h.ty h.ty a b (fun x y => bitLane h.ty.bits (x ^^^ y)) s := rfl
theorem exec_andn : exec (.andn h a b) s = valueOp2 h h.ty h.ty h.ty a b (fun x y => bitLane h.ty.bits (x &&& ~~~y)) s := rfl
theorem exec_not : exec (.not h a) s = valueOp1 h h.ty h.ty a (fun x => bitLane h.ty.bits (~~~x)) s := rfl
theorem exec_shl : exec (.shl h a b) s = valueOp2 h h.ty h.ty h.ty a b (shlLane h.ty.bits) s := rfl
theorem exec_shr (sg : Bool) : exec (.shr h sg a b) s = valueOp2 h h.ty h.ty h.ty a b (shrLane h.ty.bits sg) s := rfl
theorem exec_rot (right : Bool) : exec (.rot h right a b) s = valueOp2 h h.ty h.ty h.ty a b (rotLane h.ty.bits right) s := rfl
theorem exec_popc : exec (.popc h a) s = valueOp1 h h.ty h.ty a (fun x => .ofNat (popcNat h.ty.bits (uns h.ty.bits x))) s := rfl
theorem exec_clz : exec (.clz h a) s = valueOp1 h h.ty h.ty a (fun x => .ofNat (clzNat h.ty.bits (uns h.ty.bits x))) s := rfl
theorem exec_ctz : exec (.ctz h a) s = valueOp1 h h.ty h.ty a (fun x => .ofNat (ctzNat h.ty.bits (uns h.ty.bits x))) s := rfl
theorem exec_brev : exec (.brev h a) s = valueOp1 h h.ty h.ty a (fun x => .ofNat (brevNat h.ty.bits (uns h.ty.bits x))) s := rfl
theorem exec_bfx (sg : Bool) : exec (.bfx h sg a b c) s = valueOp3 h h.ty .i32 .i32 [h.ty] a b c (bfxLane h.ty.bits sg) s := rfl
theorem exec_bfi : exec (.bfi h a b c d) s = valueOp4 h h.ty h.ty .i32 .i32 [h.ty] a b c d (bfiLane h.ty.bits) s := rfl
theorem exec_cmp (cc : ICmp) : exec (.cmp h cc a b) s = valueOp2 h h.ty h.ty .i1 a b (fun x y => .bool (icmp h.ty.bits cc x y)) s := rfl
theorem exec_sel : exec (.sel h c a b) s = valueOp3 h .i1 h.ty h.ty [h.ty] c a b (fun z x y => .one (if z.getLsbD 0 then x else y)) s := rfl

end Shapes

-- the obligations -------------------------------------------------------------------------

/-- Settles O1: each lane function's result and events, with the range's ends for the saturating forms. -/
theorem integerSums : Obligations.IntegerSums := by
  unfold Obligations.IntegerSums
  intro s gid g h a b c hi
  refine ⟨fun tb htb hs => ?_, fun hty hs => ?_⟩
  · obtain rfl : tb = offsetTy h.ty := by
      rcases htb with ⟨hty, rfl⟩ | ⟨hty, rfl⟩
      · exact (offsetTy_of_isI hty).symm
      · rw [hty]; rfl
    simp only [opnd_offsetTy_setWidth]
    exact ⟨gives2 hi hs (exec_add ..) fun l => addLane_wrap .., gives2 hi hs (exec_sub ..) fun l => subLane_wrap ..⟩
  · have ha : Sound s gid g [(h.ty, a)] := sound_mono hs (by simp)
    have hab : Sound s gid g [(h.ty, a), (h.ty, b)] := sound_mono hs (by simp)
    have hw := bits_pos_of_isI hty
    have hadd (m : SatMode) := exec_add s h a b m
    have hsub (m : SatMode) := exec_sub s h a b m
    rw [offsetTy_of_isI hty] at hadd hsub
    exact ⟨gives2 hi hab (hadd _) fun l => addLane_satS .., gives2 hi hab (hadd _) fun l => addLane_satU ..,
      gives2 hi hab (hsub _) fun l => subLane_satS .., gives2 hi hab (hsub _) fun l => subLane_satU ..,
      gives1 hi ha (exec_neg ..) fun l => negLane_wrap _, gives1 hi ha (exec_neg ..) fun l => negLane_sat _ hw,
      gives1 hi ha (exec_abs ..) fun l => absLane_wrap _, gives1 hi ha (exec_abs ..) fun l => absLane_sat _ hw,
      gives32 hi hs (exec_addc ..) fun l => addcLane_carry .., gives32 hi hs (exec_subb ..) fun l => subbLane_borrow ..⟩

/-- Settles O2, by the exact product of the operands as integers. -/
theorem integerProducts : Obligations.IntegerProducts := by
  unfold Obligations.IntegerProducts
  intro s gid g h a b c hi _ hs
  have hab : Sound s gid g [(h.ty, a), (h.ty, b)] := sound_mono hs (by simp)
  exact ⟨gives2 hi hab (exec_mul ..) fun l => mulLane_low .., gives2 hi hab (exec_mul ..) fun l => mulLane_hiS ..,
    gives2 hi hab (exec_mul ..) fun l => mulLane_hiU .., gives2 hi hab (exec_mul ..) fun l => mulLane_satS ..,
    gives2 hi hab (exec_mul ..) fun l => mulLane_satU .., gives3 hi hs (exec_mad ..) fun l => madLane_sum ..⟩

/-- Settles O3, by R94's four cases of a division. -/
theorem integerDivision : Obligations.IntegerDivision := by
  unfold Obligations.IntegerDivision
  intro s gid g h un a b hi hty hs
  have hd (l : Nat) := divRem_cases (opndBits s gid g h.ty a l) (opndBits s gid g h.ty b l) (bits_pos_of_isI hty) un
  exact ⟨gives2 hi hs (exec_div ..) fun l => (hd l).1, gives2 hi hs (exec_rem ..) fun l => (hd l).snd, gives22 hi hs (exec_divrem ..) hd⟩

/-- Settles O4: the helpers' order is the words' order under each reading. -/
theorem integerOrder : Obligations.IntegerOrder := by
  unfold Obligations.IntegerOrder
  intro s gid g h un cc a b c hi hs
  have hab : Sound s gid g [(h.ty, a), (h.ty, b)] := sound_mono hs (by simp)
  have hcab : Sound s gid g [(.i1, c), (h.ty, a), (h.ty, b)] := sound_mono hs (by simp)
  refine ⟨fun _ => ⟨gives2 hi hab (exec_min ..) fun l => minLane_word .., gives2 hi hab (exec_max ..) fun l => maxLane_word ..⟩,
    fun _ => gives2 hi hab (exec_cmp ..) fun l => ?_, fun _ => ?_⟩
  · rw [icmp_eq_cmpHolds]; exact shows_bool _
  · rw [exec_sel, exec3 hi h .i1 h.ty h.ty h.ty c a b _ hcab]
    simp only [one_ev, evLanes_zero]
    rfl

/-- Settles O5, by the word operations that the lane functions compute. -/
theorem integerBits : Obligations.IntegerBits := by
  unfold Obligations.IntegerBits
  intro s gid g h a b hi hs
  have ha : Sound s gid g [(h.ty, a)] := sound_mono hs (by simp)
  refine ⟨fun _ => ?_, fun hty => ?_⟩
  · have hw := bits_le h.ty
    exact ⟨gives2 hi hs (exec_and ..) fun l => bitLane_and .., gives2 hi hs (exec_or ..) fun l => bitLane_or ..,
      gives2 hi hs (exec_xor ..) fun l => bitLane_xor .., gives2 hi hs (exec_andn ..) fun l => bitLane_andn _ _ hw,
      gives1 hi ha (exec_not ..) fun l => bitLane_not _ hw⟩
  · have hw := bits_pos_of_isI hty
    exact ⟨gives2 hi hs (exec_shl ..) fun l => shlLane_word .., gives2 hi hs (exec_shr ..) fun l => shrLane_unsigned ..,
      gives2 hi hs (exec_shr ..) fun l => shrLane_signed .., gives2 hi hs (exec_rot ..) fun l => rotLane_left _ _ _ hw,
      gives2 hi hs (exec_rot ..) fun l => rotLane_right _ _ _ hw⟩

/-- Settles O6, bit by bit. -/
theorem integerFields : Obligations.IntegerFields := by
  unfold Obligations.IntegerFields
  intro s gid g h a b p n hi _ hs
  have ha : Sound s gid g [(h.ty, a)] := sound_mono hs (by simp)
  have hapn : Sound s gid g [(h.ty, a), (.i32, p), (.i32, n)] := sound_mono hs (by simp)
  have hclz (l : Nat) := clz_bits h.ty.bits (opndBits s gid g h.ty a l)
  have hctz (l : Nat) := ctz_bits h.ty.bits (opndBits s gid g h.ty a l)
  obtain ⟨fu, huns⟩ := Classical.skolem.mp fun l =>
    bfxLane_unsigned_bits h.ty.bits (opndBits s gid g h.ty a l) (opndBits s gid g .i32 p l) (opndBits s gid g .i32 n l)
  obtain ⟨fs, hsgn⟩ := Classical.skolem.mp fun l =>
    bfxLane_signed_bits h.ty.bits (opndBits s gid g h.ty a l) (opndBits s gid g .i32 p l) (opndBits s gid g .i32 n l)
  obtain ⟨fi, hins⟩ := Classical.skolem.mp fun l =>
    bfiLane_bits h.ty.bits (opndBits s gid g h.ty a l) (opndBits s gid g h.ty b l) (opndBits s gid g .i32 p l) (opndBits s gid g .i32 n l)
  exact ⟨gives1 hi ha (exec_popc ..) fun l => popc_word ..,
    ⟨_, gives1 hi ha (exec_clz ..) fun l => shows_count (hclz l).1, hclz⟩,
    ⟨_, gives1 hi ha (exec_ctz ..) fun l => shows_count (hctz l).1, hctz⟩,
    gives1 hi ha (exec_brev ..) fun l => brev_word ..,
    ⟨fu, gives3 hi hapn (exec_bfx ..) fun l => (huns l).1, fun l => (huns l).2⟩,
    ⟨fs, gives3 hi hapn (exec_bfx ..) fun l => (hsgn l).1, fun l => (hsgn l).2⟩,
    ⟨fi, gives4 hi hs (exec_bfi ..) fun l => (hins l).1, fun l => (hins l).2⟩⟩

end Sys2Proof.Proofs
end
